-- ==== Sys2Proof/Word.lean ====
section
/-! DEFINITION. The link's byte and two-byte field. -/

namespace Sys2Proof

/-- One byte of the service link. -/
abbrev Byte := BitVec 8

/-- A two-byte field of a body, sent high byte first (section 10.6). -/
abbrev Word := BitVec 16

end Sys2Proof
end

