-- ==== Sys2Proof/Syntax.lean ====
section
/-! DEFINITION. The commands of the part: one constructor per row of spec/opcode_table.json.
A request of the host carries its tag and its body fields as the link carries them, so that a value out of range is
expressible; an event of a block carries the boom, the consumer or the line it concerns. -/

namespace Sys2Proof

/-- Boom A (left) or boom B (right). -/
inductive Side where
  | a | b
deriving DecidableEq, Repr

/-- The other boom. -/
def Side.other : Side → Side
  | .a => .b
  | .b => .a

/-- The three parties that ask for flow (R114). -/
inductive Consumer where
  | canopy
  | boom (side : Side)
deriving DecidableEq, Repr

/-- A command. The requests follow the layouts of section 10.6. -/
inductive Instr where
  -- power, link
  | powerOn
  | characterReceived (data : Byte) (parity stop : Bool)
  | gap
  | unknownKind (kind tag : Byte) (body : List Byte)
  | badLength (kind tag : Byte) (body : List Byte)
  | frameSent
  -- requests
  | status (tag : Byte)
  | clear (tag : Byte) (flags : Word)
  | noticeSet (tag flag enable level : Byte)
  | restart (tag : Byte)
  | partRestart
  | lineConfig (tag line mode pull sense mask : Byte)
  | lineBind (tag line fn : Byte) (fullScale : Word) (tempOffset tempSpan : Byte)
  | lineRead (tag : Byte)
  | lineWrite (tag line value : Byte)
  | classWrite (tag index : Byte) (record : Vector Byte 44)
  | classRead (tag index : Byte)
  | strataWrite (tag form : Byte) (rest : List Byte)
  | strataRead (tag band : Byte)
  | tempWrite (tag : Byte) (scales : Vector Word 8)
  | patternDefine (tag xs xe ys ye : Byte) (orderA mirrorXA mirrorYA orderB mirrorXB mirrorYB clearance : Byte)
  | cellMark (tag x1 x2 y1 y2 cls : Byte)
  | cellRead (tag x y : Byte)
  | tallyRead (tag : Byte)
  | boomStart (tag boom : Byte)
  | boomStop (tag boom : Byte)
  | boomRead (tag boom : Byte)
  | atHole (tag boom : Byte)
  | proceed (tag boom : Byte)
  | decide (tag boom choice : Byte) (extStep : Word) (cls : Byte)
  | hold (tag boom : Byte)
  | resume (tag boom : Byte)
  | abort (tag boom : Byte)
  | skip (tag boom x y : Byte)
  | magazineLoad (tag boom purge count : Byte) (kinds : Vector Byte 6)
  | pumpSet (tag budget : Byte)
  | flowRead (tag : Byte)
  | canopyRaise (tag demand : Byte)
  | canopyLower (tag : Byte)
  | recordFetch (tag boom : Byte)
  | recordRelease (tag boom col row : Byte)
  -- field lines: `line` counts from 0, so 0 is L1
  | digitalEdge (line : Fin 32) (level isOpen : Bool)
  | analogChange (line : Fin 32) (count : BitVec 10)
  | stopLoopOpen
  | boomStopLoopOpen (side : Side)
  | canopyStopLoopOpen
  -- events at a boom
  | deadmanPress (side : Side)
  | deadmanRelease (side : Side)
  | atHoleRise (side : Side)
  | feedPositionChange (side : Side)
  | rotationPressureChange (side : Side)
  | pressureStall (side : Side)
  | progressStall (side : Side)
  | backOffEnd (side : Side)
  | feedHomeRise (side : Side)
  | retractTimeout (side : Side)
  | secondFailureTimeout (side : Side)
  | cartridgePass (side : Side)
  | jam (side : Side)
  | boltPresentRise (side : Side)
  | spinEnd (side : Side)
  | holdEnd (side : Side)
  | tensionLate (side : Side)
  | rotationPulse (side : Side)
  | reSeek (side : Side)
  -- flow
  | flowRequestArrival (consumer : Consumer)
  | flowRelease (consumer : Consumer)
  | boomGrantTaken (side : Side)
  | boomTakeBack (side : Side)
  | boomFlowRefusal (side : Side)
  | pumpFall
  | pumpRise
  | boomPumpFall (side : Side)
  | boomPumpRise (side : Side)
  -- canopy
  | canopyPressureChange
  | canopyAdoptSet
  | canopySet
  | raiseTimeout
  | canopyGrantTaken
  | canopyTakeBack
  | canopyFlowRefusal
  | canopyLost
  | canopyLowered
  | canopyLossAtBoom (side : Side)
  | canopyRegainAtBoom (side : Side)
deriving DecidableEq, Repr

end Sys2Proof
end

