-- ==== Sys2Proof/Decode.lean ====
section
/-! DEFINITION. Commands spelled by a word. No row of spec/opcode_table.json gives bits, so no word spells one. -/

namespace Sys2Proof

/-- The command that `nbits` bits `w` spell by the table: none, since no row gives bits. -/
def decodeTableWord (_nbits _w : Nat) : Option Instr := none

end Sys2Proof
end

