-- ==== Sys2Proof/Config.lean ====
section
/-! DEFINITION. The free values: orders of two events that the rules leave open.
Each is an opaque constant applied to the state's counter of free choices, so that nothing can be proved of its value. -/

namespace Sys2Proof

/-- FREE VALUE (R165, log 10): when one event both places a reply and makes a notice pending while the transmitter is
idle, whether the reply is the one taken first. -/
opaque Config.freeReplyFirst : Nat → Bool

/-- FREE VALUE (R15, R16, R107, log 11): whether the other boom's re-seek is taken before the seek of the boom
whose hole ended or whose claim was skipped. -/
opaque Config.freeReseekFirst : Nat → Bool

end Sys2Proof
end

