-- ==== Sys2Proof/Machine/Types.lean ====
section
/-! DEFINITION. The data the blocks keep, one type per thing the manual names.
Every type is plain data. Columns, rows and lines count from 0 here and from 1 on the link. -/

namespace Sys2Proof.Machine

/-! ### Pattern table -/

/-- A cell of the grid (X, Y): column X is `col + 1`, row Y is `row + 1`. -/
structure Pos where
  col : Fin 8
  row : Fin 12
deriving DecidableEq, Repr

/-- The seven cell states of R1, in its order. -/
inductive CellState where
  | off | planned | claimed | working | done | failed | skipped
deriving DecidableEq, Repr

/-- The results of a hole (section 4 of 00_scope.md). -/
inductive HoleOutcome where
  | installed | installedMarked | untensioned | spinThrough | abandoned | resinLost | stopped
deriving DecidableEq, Repr

/-- A cell record (R1). -/
structure Cell where
  state : CellState
  classIdx : Nat
  boom : Option Side
  attempts : Nat
  outcome : Option HoleOutcome
  finalDepth : Option Nat
  torque : Option Nat
  detailLost : Bool
deriving DecidableEq, Repr

/-- A cell after power-on, RESTART and PATTERN_DEFINE (R3, R4). -/
def Cell.blank : Cell := ⟨.off, 0, none, 0, none, none, none, false⟩

inductive WalkOrder where
  | row | column
deriving DecidableEq, Repr

/-- A boom's walk settings (R3). -/
structure Walk where
  order : WalkOrder
  mirrorX : Bool
  mirrorY : Bool
deriving DecidableEq, Repr

/-- What PATTERN_DEFINE stores; present exactly while the defined mark is set (R3). -/
structure PatternDef where
  xs : Fin 8
  xe : Fin 8
  ys : Fin 12
  ye : Fin 12
  walkA : Walk
  walkB : Walk
  clearance : Nat
deriving DecidableEq, Repr

/-- The cut tally (R175); metres drilled in mm. -/
structure Tally where
  installed : Nat
  installedMarked : Nat
  untensioned : Nat
  spinThrough : Nat
  abandoned : Nat
  resinLost : Nat
  stopped : Nat
  skipped : Nat
  inserted : Nat
  lostToJams : Nat
  substitutions : Nat
  extensions : Nat
  metres : Nat
deriving DecidableEq, Repr

def Tally.zero : Tally := ⟨0, 0, 0, 0, 0, 0, 0, 0, 0, 0, 0, 0, 0⟩

/-! ### Class store -/

inductive CartKind where
  | fast | medium | slow
deriving DecidableEq, Repr

/-- The strata classes, in the order of their codes 0 to 7 (R27). -/
inductive StrataClass where
  | unset | competent | laminated | soft | clay | void | hard | broken
deriving DecidableEq, Repr

/-- The assessment actions of R22. -/
inductive Action where
  | proceed | extend | substitute | stop
deriving DecidableEq, Repr

/-- The fields of a valid bolt class record (R22). -/
structure ClassRec where
  target : Nat
  collar : Nat
  steelLength : Nat
  maxSteels : Nat
  anchorLength : Nat
  weakLimit : Nat
  action : Action
  extStep : Nat
  fallback : Nat
  cartridges : List CartKind
  spinTime : Nat
  holdTime : Nat
  windowEnd : Nat
  torqueTarget : Nat
  torqueFactor : Nat
  turnLimit : Nat
  stallPressure : Nat
  stallTime : Nat
  collarDemand : Nat
  drillDemand : Nat
  spinDemand : Nat
  torqueDemand : Nat
  retractDemand : Nat
  collarFeed : Nat
  drillFeed : Nat
  drillRotation : Nat
  pushFeed : Nat
  spinRotation : Nat
  holdFeed : Nat
  torqueRotation : Nat
  retractFeed : Nat
deriving DecidableEq, Repr

/-- All fields 0: stands where the rules give no record (log 25). -/
def ClassRec.blank : ClassRec :=
  ⟨0, 0, 0, 0, 0, 0, .proceed, 0, 0, [], 0, 0, 0, 0, 0, 0, 0, 0, 0, 0, 0, 0, 0, 0, 0, 0, 0, 0, 0, 0, 0⟩

/-! ### Holes -/

/-- A strata run (R32), lengths in mm. -/
structure StrataRun where
  cls : StrataClass
  start : Nat
  length : Nat
deriving DecidableEq, Repr

/-- The resin times applied: S, H′ and W′ (R80). -/
structure ResinTimes where
  s : Nat
  h : Nat
  w : Nat
deriving DecidableEq, Repr

inductive FaultCode where
  | stall | retractTimeout | jamLimit | flowExceedsBudget | tensionLate
deriving DecidableEq, Repr

/-- The fields of a hole that its record carries (R52, R154). -/
structure HoleData where
  pos : Pos
  snapIdx : Nat
  snap : ClassRec
  origClass : Option Nat
  substituted : Bool
  hostDecided : Bool
  atHole : Bool
  depth : Nat
  targetDepth : Nat
  steelCount : Nat
  incCount : Nat
  stallCount : Nat
  runs : List StrataRun
  truncated : Bool
  weakLength : Nat
  acceptedWeak : Bool
  extensions : Nat
  required : List CartKind
  nextIdx : Nat
  inserted : List CartKind
  jamCount : Nat
  tempBand : Option Nat
  resin : Option ResinTimes
  gel : Option Nat
  tensionOffset : Option Nat
  torque : Nat
  turns : Nat
  suspensions : Nat
  fault : Option FaultCode
  outcome : Option HoleOutcome
deriving DecidableEq, Repr

/-- The hole context: the record's fields and the two transient ones (R154). -/
structure HoleCtx extends HoleData where
  inFlight : Option CartKind
  spinElapsed : Nat
deriving DecidableEq, Repr

/-- A full hole record (R154). -/
structure HoleRecord where
  boom : Side
  data : HoleData
deriving DecidableEq, Repr

/-- A record slot that is HELD (`fetched` clear) or FETCHED (R151). -/
structure Slot where
  fetched : Bool
  record : HoleRecord
deriving DecidableEq, Repr

/-! ### Flow -/

/-- The motions of R114. -/
inductive Motion where
  | raise | collar | drill | spin | torque | retract
deriving DecidableEq, Repr

/-- A consumer's view of its own flow: nothing asked, a request waiting, a grant held, or a motion that needs none (R47).
The awaiting-flow mark is `waiting`, the granted mark `held`. The number is the request's ticket (log 7). -/
inductive FlowView where
  | none
  | waiting (ticket : Nat)
  | held (ticket : Nat)
  | free
deriving DecidableEq, Repr

/-- What a consumer sends the arbiter (R115, R118). -/
inductive ArbMsg where
  | request (demand : Nat) (motion : Motion) (ticket : Nat)
  | release (ticket : Nat)
deriving DecidableEq, Repr

/-- What the arbiter hands a consumer (R115, R117, R121). -/
inductive FlowMsg where
  | grant (ticket : Nat)
  | takeBack (ticket : Nat)
  | refusal (ticket : Nat)
deriving DecidableEq, Repr

/-- A consumer's side of the flow arbiter, with the messages in transit each way. -/
structure FlowPort where
  view : FlowView
  outbox : List ArbMsg
  inbox : List FlowMsg
deriving DecidableEq, Repr

def FlowPort.idle : FlowPort := ⟨.none, [], []⟩

/-- An entry of the grant map or of the request queue (R113). -/
structure FlowEntry where
  consumer : Consumer
  demand : Nat
  motion : Motion
  arrival : Nat
  ticket : Nat
deriving DecidableEq, Repr

inductive PumpView where
  | ok | low
deriving DecidableEq, Repr

/-- The flow arbiter (R113); `events` are the pump OK edges it has not yet taken, true for a rise. `refusing` holds, for each
PUMP_SET, the requests whose refusal is not yet taken, in queue order (R120). -/
structure Arbiter where
  budget : Nat
  grants : List FlowEntry
  queue : List FlowEntry
  view : PumpView
  arrivals : Nat
  events : List Bool
  refusing : List (List (Consumer × Nat))
deriving DecidableEq, Repr

def Arbiter.powerOn : Arbiter := ⟨120, [], [], .low, 0, [], []⟩

/-! ### Boom sequencers -/

/-- The boom states, in the order of their codes (R45, section 10.6). -/
inductive Phase where
  | idle | seekWait | positioning
  | collaring | drilling | steelChange | assessing | decisionWait | retracting | holeOpen
  | inserting | boltWait | spinning | holding | torquing | releasing
  | suspended | aborting | halted | stopped
deriving DecidableEq, Repr

inductive WaitReason where
  | addSteel | clearHole | decision | magEmpty | magMismatch | jam | loadBolt
deriving DecidableEq, Repr

/-- A hold reasons set (R93). -/
structure Holds where
  canopy : Bool
  deadman : Bool
  pump : Bool
  host : Bool
deriving DecidableEq, Repr

def Holds.empty : Holds := ⟨false, false, false, false⟩

/-- The steel base (R55): base depth and, once taken, base feed position. -/
structure SteelBase where
  depth : Nat
  feed : Option Nat
deriving DecidableEq, Repr

/-- An event handed to a boom and not yet taken (R145, R134, R149). Analog values are scaled. -/
inductive BoomEvent where
  | deadman (high : Bool)
  | atHole
  | cartridgePass
  | boltPresent
  | rotationPulse
  | feedHome
  | feedPosition (mm : Nat)
  | rotationPressure (bar : Nat)
  | pump (high : Bool)
  | stopLoop
  | canopy (isSet : Bool)
deriving DecidableEq, Repr

/-- A boom sequencer (R45). `reseekDue` marks an event of R15's second list not yet followed by its seek. -/
structure Boom where
  phase : Phase
  suspendedPhase : Option Phase
  started : Bool
  stopPending : Bool
  waitReason : Option WaitReason
  ctx : Option HoleCtx
  base : Option SteelBase
  holdEnd : Option Nat
  backOff : Bool
  phaseTime : Nat
  progressTime : Nat
  stallTime : Nat
  backOffTime : Nat
  retractTime : Nat
  pushTime : Nat
  holds : Holds
  magazine : List CartKind
  cursor : Option Pos
  port : FlowPort
  events : List BoomEvent
  reseekDue : Bool
deriving DecidableEq, Repr

/-- A boom after power-on and RESTART (R45, R69, R72, R93, R11). -/
def Boom.powerOn : Boom where
  phase := .idle
  suspendedPhase := none
  started := false
  stopPending := false
  waitReason := none
  ctx := none
  base := none
  holdEnd := none
  backOff := false
  phaseTime := 0
  progressTime := 0
  stallTime := 0
  backOffTime := 0
  retractTime := 0
  pushTime := 0
  holds := .empty
  magazine := []
  cursor := none
  port := .idle
  events := []
  reseekDue := false

/-! ### Canopy -/

/-- The canopy states, in the order of R125. -/
inductive CanopyState where
  | unknown | lowered | raising | set | lost | lowering
deriving DecidableEq, Repr

inductive CanopyFailure where
  | none | raiseTimeout | pumpLost | flowRefused | loss
deriving DecidableEq, Repr

inductive CanopyEvent where
  | pressure (high : Bool)
  | stopLoop
deriving DecidableEq, Repr

/-- The support controller (R125). -/
structure Canopy where
  state : CanopyState
  raiseDemand : Option Nat
  port : FlowPort
  settleTime : Nat
  lossTime : Nat
  raiseTime : Nat
  lowerTime : Nat
  lastFailure : CanopyFailure
  events : List CanopyEvent
deriving DecidableEq, Repr

def Canopy.powerOn : Canopy := ⟨.unknown, Option.none, .idle, 0, 0, 0, 0, .none, []⟩

/-! ### Field lines -/

inductive LineMode where
  | digitalIn | analogIn | switchedOut | proportionalOut
deriving DecidableEq, Repr

inductive Pull where
  | none | up | down
deriving DecidableEq, Repr

inductive Sense where
  | lowLevel | highLevel | anyChange | rising | falling
deriving DecidableEq, Repr

/-- The boom functions, in the order of the rows of R143. -/
inductive BoomFn where
  | feedUp | feedDown | rotation | loader | feedPosition | rotationPressure
  | deadman | atHole | cartridgePass | boltPresent | rotationPulse | feedHome
deriving DecidableEq, Repr

/-- The 30 functions (R143). -/
inductive Fn where
  | boom (side : Side) (fn : BoomFn)
  | canopyUp | canopyDown | canopyPressure | pumpOk | stopLoop | temperature
deriving DecidableEq, Repr

/-- A binding's scaling fields (R146); `temp` holds the magnitude of the offset and the span. -/
inductive Scaling where
  | none
  | full (scale : Nat)
  | temp (offset span : Nat)
deriving DecidableEq, Repr

structure Binding where
  fn : Fn
  scaling : Scaling
deriving DecidableEq, Repr

/-- What the outside presents at a terminal (R137, R138): a level, whether the terminal is left open, a count. -/
structure Terminal where
  level : Bool
  isOpen : Bool
  count : Nat
deriving DecidableEq, Repr

/-- DESIGN CHOICE (log 2): a terminal before anything is presented. -/
def Terminal.quiet : Terminal := ⟨false, false, 0⟩

/-- A line record (R136), with its terminal. -/
structure LineRec where
  mode : LineMode
  pull : Pull
  sense : Sense
  mask : Bool
  binding : Option Binding
  outValue : Nat
  digital : Bool
  snapshot : Bool
  latch : Bool
  analog : Nat
  term : Terminal
deriving DecidableEq, Repr

/-- A line after power-on (R136): DIGITAL_IN with pull NONE, so its digital state is the level presented. -/
def LineRec.powerOn (t : Terminal) : LineRec :=
  ⟨.digitalIn, .none, .anyChange, false, none, 0, t.level, t.level, false, 0, t⟩

/-! ### Notice unit and link -/

/-- The 15 flags of R167. -/
inductive Flag where
  | start
  | holeDone (side : Side)
  | overrun (side : Side)
  | wait (side : Side)
  | halt (side : Side)
  | canopy | stopLoop | pump | lines | link | patternDone
deriving DecidableEq, Repr

/-- A notice body fixed at the setting event (R168, R169): no boom and no cell are sent as 0. -/
structure Notice where
  flag : Flag
  boom : Option Side
  pos : Option Pos
  reason : Nat
deriving DecidableEq, Repr

/-- A flag with its settings; a pending mark is the presence of its notice body (R167). -/
structure FlagRec where
  set : Bool
  enable : Bool
  level : Nat
  pending : Option Notice
deriving DecidableEq, Repr

/-- A complete frame without its sync, length and check (section 10.6). -/
structure Frame where
  kind : Byte
  tag : Byte
  body : List Byte
deriving DecidableEq, Repr

inductive LinkCause where
  | none | parity | framing | gap | length | check | queueFull
deriving DecidableEq, Repr

/-- What the transmitter is sending: nothing, the reply in the slot, or a notice. -/
inductive Transmitter where
  | idle
  | reply
  | notice (n : Notice)
deriving DecidableEq, Repr

/-- The link controller: `rx` is none while hunting, else the bytes taken since the sync (R160, R161). -/
structure Link where
  rx : Option (List Byte)
  queue : List Frame
  reply : Option Frame
  tx : Transmitter
  lastError : LinkCause
deriving DecidableEq, Repr

end Sys2Proof.Machine
end

