-- ==== Sys2Proof/Machine/State.lean ====
section
/-! DEFINITION. The whole state of the part, the reasons a step can stop, and the state after power-on. -/

namespace Sys2Proof.Machine

/-- Reasons a command can fault. The rules of the part name none. -/
inductive Fault where
  /-- Raised by UNKNOWN_KIND and BAD_LENGTH when the command's body is longer than 250 bytes: no frame carries it
  (R161), so the part cannot be given it. Safe: nothing that can be sent is stopped. -/
  | bodyTooLong
deriving DecidableEq, Repr

/-- Reasons a command can be refused by the model. -/
inductive Refusal where
  /-- Raised by an arm of Machine/Dispatch.lean whose command has no meaning yet; no arm does. Safe. -/
  | notModelled (mnemonic : String)
deriving DecidableEq, Repr

/-- Everything the part keeps. `ticket`, `freeCount` and `pending` are the model's own. -/
structure State where
  -- pattern table (R1, R3, R175)
  pattern : Option PatternDef
  cells : Vector Cell 96
  complete : Bool
  tally : Tally
  -- class store (R22, R27, R43)
  classes : Vector (Option ClassRec) 8
  strata : Vector (Vector StrataClass 16) 16
  rateStep : Nat
  pressureStep : Nat
  temps : Vector Nat 8
  -- boom sequencers (R45)
  boomA : Boom
  boomB : Boom
  -- flow arbiter (R113), support controller (R125)
  arbiter : Arbiter
  canopy : Canopy
  -- field line unit (R136, R149): `stopOpenings` counts openings the unit has not yet taken
  lines : Vector LineRec 32
  holding : Bool
  stopOpenings : Nat
  -- record unit (R151)
  slotA : Option Slot
  slotB : Option Slot
  -- notice unit (R167), link controller (R160 to R166)
  flags : Vector FlagRec 15
  link : Link
  -- the model's own: the next request's ticket (log 7), the count of free choices made (log 10, log 11)
  ticket : Nat
  freeCount : Nat
  /-- The commands waiting, first in, first out. -/
  pending : List Instr
deriving DecidableEq, Repr

/-- The flags after power-on (R167, R174). START is set; the idle transmitter has taken its notice (log 1). -/
def flagsPowerOn : Vector FlagRec 15 :=
  #v[⟨true, true, 3, none⟩,
     ⟨false, true, 2, none⟩, ⟨false, true, 2, none⟩,
     ⟨false, true, 2, none⟩, ⟨false, true, 2, none⟩,
     ⟨false, true, 2, none⟩, ⟨false, true, 2, none⟩,
     ⟨false, true, 3, none⟩, ⟨false, true, 3, none⟩,
     ⟨false, true, 3, none⟩, ⟨false, true, 3, none⟩, ⟨false, true, 3, none⟩,
     ⟨false, true, 1, none⟩, ⟨false, true, 1, none⟩, ⟨false, true, 2, none⟩]

/-- The part right after power-on, with nothing yet presented at its terminals (log 2). -/
def State.reset : State where
  pattern := none
  cells := .replicate 96 .blank
  complete := false
  tally := .zero
  classes := .replicate 8 none
  strata := .replicate 16 (.replicate 16 .unset)
  rateStep := 5
  pressureStep := 10
  temps := .replicate 8 100
  boomA := .powerOn
  boomB := .powerOn
  arbiter := .powerOn
  canopy := .powerOn
  lines := .replicate 32 (.powerOn .quiet)
  holding := false
  stopOpenings := 0
  slotA := none
  slotB := none
  flags := flagsPowerOn
  link := ⟨none, [], none, .notice ⟨.start, none, none, 0⟩, .none⟩
  ticket := 0
  freeCount := 0
  pending := []

end Sys2Proof.Machine
end

