-- ==== Sys2Proof/Machine/Ops.lean ====
section
/-! DEFINITION. Named reads and updates of the state, and the small operations every block shares: limits, bytes, cells,
booms, hole contexts, flow ports and the events handed over. -/

namespace Sys2Proof.Machine

/-! ### Limits (section 6 of 00_scope.md) -/

/-- An increment in mm (R30). -/
def incrementMm : Nat := 25
/-- The greatest depth at which increments complete (R30). -/
def maxDepth : Nat := 3000
/-- Progress time limit, 10.0 s (R59). -/
def progressLimit : Nat := 100
/-- Back-off time limit, 2.0 s (R61). -/
def backOffLimit : Nat := 20
/-- Stalls that end a hole (R60). -/
def stallLimit : Nat := 3
/-- Jams that end a hole (R75). -/
def jamLimit : Nat := 3
/-- Retract time limit, 30.0 s (R64, R90, R105). -/
def retractLimit : Nat := 300
/-- Push time limit, 5.0 s (R75). -/
def pushLimit : Nat := 50
/-- Settle time limit, 1.0 s (R125). -/
def settleLimit : Nat := 10
/-- Loss-filter time limit, 0.5 s (R125). -/
def lossLimit : Nat := 5
/-- Raise time limit, 15.0 s (R125). -/
def raiseLimit : Nat := 150
/-- Lower time limit, 3.0 s (R125). -/
def lowerLimit : Nat := 30
/-- Class extensions per hole (R36). -/
def extensionLimit : Nat := 2
/-- Cartridges a magazine holds (R69). -/
def magazineSize : Nat := 6
/-- Attempts at which a FAILED cell is planned no more (R5). -/
def attemptLimit : Nat := 3
/-- Where the cells-skipped counter stays (R175). -/
def skippedLimit : Nat := 65535
/-- Frames the receive queue holds (R163). -/
def queueSize : Nat := 2

/-! ### Bytes -/

/-- A number as one byte. -/
def byteOf (n : Nat) : Byte := BitVec.ofNat 8 n

/-- A number as two bytes, high first; above 65535 it is sent as 65535 (section 10.6). -/
def twoBytes (n : Nat) : List Byte :=
  let m := min n 65535
  [byteOf (m / 256), byteOf (m % 256)]

/-- A number as four bytes, high first. -/
def fourBytes (n : Nat) : List Byte :=
  [byteOf (n / 16777216), byteOf (n / 65536 % 256), byteOf (n / 256 % 256), byteOf (n % 256)]

/-- Two bytes as a number, high first. -/
def fromTwo (hi lo : Byte) : Nat := hi.toNat * 256 + lo.toNat

/-- The bytes of a two-byte field, high first. -/
def wordBytes (w : Word) : List Byte := [byteOf (w.toNat / 256), byteOf (w.toNat % 256)]

/-- Yes, on and set are 1; no, off and clear are 0 (section 10.6, log 19). -/
def boolNat (b : Bool) : Nat := if b then 1 else 0

/-! ### Cells -/

/-- A cell's place in the grid. -/
def Pos.idx (p : Pos) : Fin 96 := ⟨p.row.val * 8 + p.col.val, by omega⟩

def State.cell (s : State) (p : Pos) : Cell := s.cells[p.idx]

def State.setCell (s : State) (p : Pos) (c : Cell) : State := { s with cells := s.cells.set p.idx c }

/-- The columns and rows of the grid, ascending. -/
def allCols : List (Fin 8) := [0, 1, 2, 3, 4, 5, 6, 7]
def allRows : List (Fin 12) := [0, 1, 2, 3, 4, 5, 6, 7, 8, 9, 10, 11]

/-- A cell named on the link by its column and row, if it lies on the grid. -/
def posOf (x y : Nat) : Option Pos :=
  if h : 1 ≤ x ∧ x ≤ 8 ∧ 1 ≤ y ∧ y ≤ 12 then some ⟨⟨x - 1, by omega⟩, ⟨y - 1, by omega⟩⟩ else none

/-! ### Classes -/

/-- The valid record of a class index 1 to 8 (R22). -/
def classAt (classes : Vector (Option ClassRec) 8) (i : Nat) : Option ClassRec :=
  if h : 1 ≤ i ∧ i ≤ 8 then classes[i - 1] else none

/-! ### Booms -/

def State.boom (s : State) : Side → Boom
  | .a => s.boomA
  | .b => s.boomB

def State.setBoom (s : State) (side : Side) (b : Boom) : State :=
  match side with
  | .a => { s with boomA := b }
  | .b => { s with boomB := b }

/-- Change one boom. -/
def State.modBoom (s : State) (side : Side) (f : Boom → Boom) : State := s.setBoom side (f (s.boom side))

/-- Change a boom's hole context, if it holds one. -/
def State.modCtx (s : State) (side : Side) (f : HoleCtx → HoleCtx) : State :=
  s.modBoom side fun b => { b with ctx := b.ctx.map f }

/-- The class snapshot in force (log 25 where there is no context). -/
def Boom.snap (b : Boom) : ClassRec := (b.ctx.map fun c => c.snap).getD .blank

/-- A boom in IDLE or STOPPED records no hold reason (R93). -/
def Boom.recordsHolds (b : Boom) : Bool := b.phase != .idle && b.phase != .stopped

def Holds.any (h : Holds) : Bool := h.canopy || h.deadman || h.pump || h.host

/-- A set that holds no reason other than DEADMAN (R54, R99). -/
def Holds.onlyDeadman (h : Holds) : Bool := !h.canopy && !h.pump && !h.host

def Phase.inHole : Phase → Bool
  | .collaring | .drilling | .steelChange | .assessing | .decisionWait | .retracting | .holeOpen
  | .inserting | .boltWait | .spinning | .holding | .torquing | .releasing => true
  | _ => false

/-- A boom in a held phase or part and not SUSPENDED (R96). The retract part of STEEL_CHANGE has no wait reason. -/
def Boom.heldPhase (b : Boom) : Bool :=
  match b.phase with
  | .collaring | .drilling | .retracting | .inserting | .spinning | .torquing => true
  | .steelChange => b.waitReason.isNone
  | _ => false

/-- A boom whose motion holds its grant or needs none (R47). -/
def FlowView.moving : FlowView → Bool
  | .held _ | .free => true
  | _ => false

def FlowView.isHeld : FlowView → Bool
  | .held _ => true
  | _ => false

def FlowView.isWaiting : FlowView → Bool
  | .waiting _ => true
  | _ => false

/-! ### Events handed over (R145, R134, R149; log 4, log 5) -/

/-- Events of one class reach a boom in the order they were handed over. -/
def BoomEvent.cls : BoomEvent → Nat
  | .deadman _ => 0
  | .atHole => 1
  | .cartridgePass => 2
  | .boltPresent => 3
  | .rotationPulse => 4
  | .feedHome => 5
  | .feedPosition _ => 6
  | .rotationPressure _ => 7
  | .pump _ => 8
  | .stopLoop => 9
  | .canopy _ => 10

/-- Hand an event to a boom. -/
def State.handBoom (s : State) (side : Side) (e : BoomEvent) : State :=
  s.modBoom side fun b => { b with events := b.events ++ [e] }

/-- Hand an event to both booms. -/
def State.handBooms (s : State) (e : BoomEvent) : State := (s.handBoom .a e).handBoom .b e

def State.handCanopy (s : State) (e : CanopyEvent) : State :=
  { s with canopy := { s.canopy with events := s.canopy.events ++ [e] } }

/-- The boom's first waiting event of a class. -/
def Boom.firstOf (b : Boom) (cls : Nat) : Option BoomEvent := b.events.find? fun e => e.cls == cls

/-- The event waits at the boom and is the first of its class. -/
def Boom.hasNext (b : Boom) (e : BoomEvent) : Bool := b.firstOf e.cls == some e

/-- The event leaves the boom's list as it is taken. -/
def State.takeEvent (s : State) (side : Side) (e : BoomEvent) : State :=
  s.modBoom side fun b => { b with events := b.events.erase e }

/-! ### Flow ports (R114, R117, R118; log 6, log 7) -/

def State.port (s : State) : Consumer → FlowPort
  | .canopy => s.canopy.port
  | .boom side => (s.boom side).port

def State.setPort (s : State) (c : Consumer) (p : FlowPort) : State :=
  match c with
  | .canopy => { s with canopy := { s.canopy with port := p } }
  | .boom side => s.modBoom side fun b => { b with port := p }

/-- Send a request: the consumer now waits for flow. -/
def FlowPort.ask (p : FlowPort) (demand : Nat) (motion : Motion) (ticket : Nat) : FlowPort :=
  { p with view := .waiting ticket, outbox := p.outbox ++ [.request demand motion ticket] }

/-- Release the grant held or withdraw the request standing; nothing is sent where there is neither. -/
def FlowPort.drop (p : FlowPort) : FlowPort :=
  match p.view with
  | .waiting t | .held t => { p with view := .none, outbox := p.outbox ++ [.release t] }
  | .none | .free => { p with view := .none }

/-- A boom's motion asks for its demand, or runs without flow where the demand is 0 (R47). -/
def askFlow (side : Side) (motion : Motion) (demand : Nat) (s : State) : State :=
  if demand = 0 then s.modBoom side fun b => { b with port := { b.port with view := .free } }
  else { s.modBoom side fun b => { b with port := b.port.ask demand motion s.ticket } with ticket := s.ticket + 1 }

/-- A boom leaves its motion: grant released or request withdrawn (R118). It stops feeding, so its stall-pressure time is
0 (R59). -/
def dropFlow (side : Side) (s : State) : State :=
  s.modBoom side fun b => { b with port := b.port.drop, stallTime := 0 }

/-- Hand a grant, a take-back or a refusal to a consumer, behind those already handed to it (R117). -/
def handFlow (c : Consumer) (m : FlowMsg) (s : State) : State :=
  let p := s.port c
  s.setPort c { p with inbox := p.inbox ++ [m] }

/-- The first hand-over of the arbiter leaves the consumer's list as it is taken. -/
def popFlow (c : Consumer) (s : State) : State :=
  let p := s.port c
  s.setPort c { p with inbox := p.inbox.tail }

end Sys2Proof.Machine
end

