-- ==== Sys2Proof/Machine/Flags.lean ====
section
/-! DEFINITION. The notice unit: flags, pending marks and notice bodies (R167 to R171), and the choice of the uplink
arbiter (R165). -/

namespace Sys2Proof.Machine

/-- The flag codes of R167. -/
def Flag.code : Flag → Nat
  | .start => 1
  | .holeDone .a => 2 | .holeDone .b => 3
  | .overrun .a => 4 | .overrun .b => 5
  | .wait .a => 6 | .wait .b => 7
  | .halt .a => 8 | .halt .b => 9
  | .canopy => 10 | .stopLoop => 11 | .pump => 12 | .lines => 13 | .link => 14 | .patternDone => 15

/-- A flag's place in the notice unit. -/
def Flag.idx : Flag → Fin 15
  | .start => 0
  | .holeDone .a => 1 | .holeDone .b => 2
  | .overrun .a => 3 | .overrun .b => 4
  | .wait .a => 5 | .wait .b => 6
  | .halt .a => 7 | .halt .b => 8
  | .canopy => 9 | .stopLoop => 10 | .pump => 11 | .lines => 12 | .link => 13 | .patternDone => 14

/-- The flags in the order of their codes. -/
def allFlags : List Flag :=
  [.start, .holeDone .a, .holeDone .b, .overrun .a, .overrun .b, .wait .a, .wait .b, .halt .a, .halt .b,
   .canopy, .stopLoop, .pump, .lines, .link, .patternDone]

/-- The flag a code names (R170, R171). -/
def flagOf (code : Nat) : Option Flag := allFlags.find? fun f => f.code == code

def State.flag (s : State) (f : Flag) : FlagRec := s.flags[f.idx]

def State.setFlagRec (s : State) (f : Flag) (r : FlagRec) : State := { s with flags := s.flags.set f.idx r }

/-- A cause sets a flag: from clear it is set, and a notice with this body becomes pending if the flag is enabled with
level 1 to 3; a flag already set stays as it is (R167, R168). -/
def raiseFlag (f : Flag) (boom : Option Side) (pos : Option Pos) (reason : Nat) (s : State) : State :=
  let r := s.flag f
  if r.set then s
  else
    s.setFlagRec f
      { r with set := true, pending := if r.enable && 0 < r.level then some ⟨f, boom, pos, reason⟩ else none }

/-- A flag is cleared and its pending notice withdrawn (R170). -/
def clearFlag (f : Flag) (s : State) : State :=
  s.setFlagRec f { s.flag f with set := false, pending := none }

/-- The set of flags that are set, bit k for code k (section 10.6). -/
def flagSet (s : State) : Nat :=
  allFlags.foldl (fun n f => if (s.flag f).set then n + 2 ^ f.code else n) 0

/-- The pending notice of the highest level, and among equal levels of the lower code (R165). -/
def nextNotice (s : State) : Option Flag :=
  [3, 2, 1].findSome? fun level =>
    allFlags.find? fun f => (s.flag f).pending.isSome && (s.flag f).level == level

/-- The transmitter begins to send a flag's notice, which loses its pending mark (R165). -/
def sendNotice (f : Flag) (s : State) : State :=
  match (s.flag f).pending with
  | none => s
  | some n => { s.setFlagRec f { s.flag f with pending := none } with link := { s.link with tx := .notice n } }

/-- The uplink arbiter chooses: the reply in the slot, else the next notice, else nothing (R165). With `replyFirst` off a
pending notice goes before the reply (log 10). -/
def uplinkChoose (replyFirst : Bool) (s : State) : State :=
  match s.link.reply, nextNotice s with
  | none, none => { s with link := { s.link with tx := .idle } }
  | none, some f => sendNotice f s
  | some _, none => { s with link := { s.link with tx := .reply } }
  | some _, some f => if replyFirst then { s with link := { s.link with tx := .reply } } else sendNotice f s

/-- At the end of an event an idle transmitter takes what the event brought. Where it brought both a reply and a notice,
either may be taken first: a free value decides (R165, log 10, log 13). -/
def settleUplink (s : State) : State :=
  match s.link.tx with
  | .idle =>
    match s.link.reply, nextNotice s with
    | some _, some _ => uplinkChoose (Config.freeReplyFirst s.freeCount) { s with freeCount := s.freeCount + 1 }
    | _, _ => uplinkChoose true s
  | _ => s

end Sys2Proof.Machine
end

