-- ==== Sys2Proof/Machine/Operands.lean ====
section
/-! DEFINITION. The operand forms of the link: the codes of section 10.6, what each body field may hold, and the layouts of
the class record and the hole record. -/

namespace Sys2Proof.Machine

/-! ### Codes -/

/-- The reply statuses (R164). -/
inductive Status where
  | ok | refusedState | refusedRange | refusedOwned | refusedUnbound | refusedStale | refusedLate
  | unknownKind | badLength
deriving DecidableEq, Repr

def Status.code : Status → Byte
  | .ok => 0 | .refusedState => 1 | .refusedRange => 2 | .refusedOwned => 3 | .refusedUnbound => 4
  | .refusedStale => 5 | .refusedLate => 6 | .unknownKind => 7 | .badLength => 8

/-- What a block answers to a request handed to it: the state after it and the reply body (R164). -/
abbrev Answer := State × List Byte

/-- A refusal: nothing changes and the reply holds the status alone (R164). -/
def refuse (st : Status) (s : State) : Answer := (s, [st.code])

/-- A taken request: OK and its content (R164). -/
def accept (content : List Byte) (s : State) : Answer := (s, Status.ok.code :: content)

def boolByte (b : Bool) : Byte := byteOf (boolNat b)

/-- Eight marks as one byte, bit 0 first. -/
def bitsByte (bits : List Bool) : Byte := byteOf (bits.foldr (fun b n => boolNat b + 2 * n) 0)

def sideCode : Side → Nat
  | .a => 1
  | .b => 2

/-- A boom selector: 1 or 2. -/
def sideOf (b : Byte) : Option Side :=
  match b.toNat with
  | 1 => some .a
  | 2 => some .b
  | _ => none

/-- An optional boom; absent is 0. -/
def sideByte (o : Option Side) : Byte := byteOf ((o.map sideCode).getD 0)

/-- On or off, yes or no: 1 or 0. -/
def onOffOf (b : Byte) : Option Bool :=
  match b.toNat with
  | 0 => some false
  | 1 => some true
  | _ => none

/-- A cell's column and row; no cell is 0, 0. -/
def posBytes : Option Pos → List Byte
  | none => [0, 0]
  | some p => [byteOf (p.col.val + 1), byteOf (p.row.val + 1)]

def CartKind.code : CartKind → Nat
  | .fast => 1 | .medium => 2 | .slow => 3

def cartOf (b : Byte) : Option CartKind :=
  match b.toNat with
  | 1 => some .fast | 2 => some .medium | 3 => some .slow | _ => none

def StrataClass.code : StrataClass → Nat
  | .unset => 0 | .competent => 1 | .laminated => 2 | .soft => 3 | .clay => 4 | .void => 5 | .hard => 6 | .broken => 7

def strataOf (b : Byte) : Option StrataClass :=
  match b.toNat with
  | 0 => some .unset | 1 => some .competent | 2 => some .laminated | 3 => some .soft
  | 4 => some .clay | 5 => some .void | 6 => some .hard | 7 => some .broken
  | _ => none

/-- Weak at assessment (R27). -/
def StrataClass.weak : StrataClass → Bool
  | .soft | .clay | .void | .broken => true
  | _ => false

def Action.code : Action → Nat
  | .proceed => 1 | .extend => 2 | .substitute => 3 | .stop => 4

def actionOf (b : Byte) : Option Action :=
  match b.toNat with
  | 1 => some .proceed | 2 => some .extend | 3 => some .substitute | 4 => some .stop | _ => none

/-- The choices of DECIDE (R40). -/
inductive Choice where
  | proceed | extend | substitute | abandon
deriving DecidableEq, Repr

def choiceOf (b : Byte) : Option Choice :=
  match b.toNat with
  | 1 => some .proceed | 2 => some .extend | 3 => some .substitute | 4 => some .abandon | _ => none

def HoleOutcome.code : HoleOutcome → Nat
  | .installed => 16 | .installedMarked => 17 | .untensioned => 18 | .spinThrough => 19
  | .abandoned => 20 | .resinLost => 21 | .stopped => 22

def outcomeByte (o : Option HoleOutcome) : Byte := byteOf ((o.map HoleOutcome.code).getD 0)

def FaultCode.code : FaultCode → Nat
  | .stall => 32 | .retractTimeout => 33 | .jamLimit => 34 | .flowExceedsBudget => 35 | .tensionLate => 36

def WaitReason.code : WaitReason → Nat
  | .addSteel => 1 | .clearHole => 2 | .decision => 3 | .magEmpty => 4 | .magMismatch => 5 | .jam => 6 | .loadBolt => 7

def LinkCause.code : LinkCause → Nat
  | .none => 0 | .parity => 48 | .framing => 49 | .gap => 50 | .length => 51 | .check => 52 | .queueFull => 53

def CellState.code : CellState → Nat
  | .off => 1 | .planned => 2 | .claimed => 3 | .working => 4 | .done => 5 | .failed => 6 | .skipped => 7

def allCellStates : List CellState := [.off, .planned, .claimed, .working, .done, .failed, .skipped]

def walkOrderOf (b : Byte) : Option WalkOrder :=
  match b.toNat with
  | 1 => some .row | 2 => some .column | _ => none

def Phase.code : Phase → Nat
  | .idle => 1 | .seekWait => 2 | .positioning => 3 | .collaring => 4 | .drilling => 5 | .steelChange => 6
  | .assessing => 7 | .decisionWait => 8 | .retracting => 9 | .holeOpen => 10 | .inserting => 11 | .boltWait => 12
  | .spinning => 13 | .holding => 14 | .torquing => 15 | .releasing => 16 | .suspended => 17 | .aborting => 18
  | .halted => 19 | .stopped => 20

def Holds.byte (h : Holds) : Byte := bitsByte [h.canopy, h.deadman, h.pump, h.host]

def CanopyState.code : CanopyState → Nat
  | .unknown => 1 | .lowered => 2 | .raising => 3 | .set => 4 | .lost => 5 | .lowering => 6

def CanopyFailure.code : CanopyFailure → Nat
  | .none => 1 | .raiseTimeout => 2 | .pumpLost => 3 | .flowRefused => 4 | .loss => 5

def PumpView.code : PumpView → Nat
  | .ok => 1 | .low => 2

def consumerCode : Consumer → Nat
  | .canopy => 1 | .boom .a => 2 | .boom .b => 3

def Motion.code : Motion → Nat
  | .raise => 1 | .collar => 2 | .drill => 3 | .spin => 4 | .torque => 5 | .retract => 6

def LineMode.code : LineMode → Nat
  | .digitalIn => 1 | .analogIn => 2 | .switchedOut => 3 | .proportionalOut => 4

def modeOf (b : Byte) : Option LineMode :=
  match b.toNat with
  | 1 => some .digitalIn | 2 => some .analogIn | 3 => some .switchedOut | 4 => some .proportionalOut | _ => none

def Pull.code : Pull → Nat
  | .none => 1 | .up => 2 | .down => 3

def pullOf (b : Byte) : Option Pull :=
  match b.toNat with
  | 1 => some .none | 2 => some .up | 3 => some .down | _ => Option.none

def Sense.code : Sense → Nat
  | .lowLevel => 1 | .highLevel => 2 | .anyChange => 3 | .rising => 4 | .falling => 5

def senseOf (b : Byte) : Option Sense :=
  match b.toNat with
  | 1 => some .lowLevel | 2 => some .highLevel | 3 => some .anyChange | 4 => some .rising | 5 => some .falling
  | _ => none

def BoomFn.code : BoomFn → Nat
  | .feedUp => 1 | .feedDown => 2 | .rotation => 3 | .loader => 4 | .feedPosition => 5 | .rotationPressure => 6
  | .deadman => 7 | .atHole => 8 | .cartridgePass => 9 | .boltPresent => 10 | .rotationPulse => 11 | .feedHome => 12

def allBoomFns : List BoomFn :=
  [.feedUp, .feedDown, .rotation, .loader, .feedPosition, .rotationPressure,
   .deadman, .atHole, .cartridgePass, .boltPresent, .rotationPulse, .feedHome]

/-- The function codes of section 10.6. -/
def Fn.code : Fn → Nat
  | .boom .a f => f.code
  | .boom .b f => 12 + f.code
  | .canopyUp => 25 | .canopyDown => 26 | .canopyPressure => 27 | .pumpOk => 28 | .stopLoop => 29 | .temperature => 30

def allFns : List Fn :=
  allBoomFns.map (.boom .a) ++ allBoomFns.map (.boom .b) ++
    [.canopyUp, .canopyDown, .canopyPressure, .pumpOk, .stopLoop, .temperature]

def fnOf (b : Byte) : Option Fn := allFns.find? fun f => f.code == b.toNat

/-- A line L1 to L32. -/
def lineIdx (b : Byte) : Option (Fin 32) :=
  if h : 1 ≤ b.toNat ∧ b.toNat ≤ 32 then some ⟨b.toNat - 1, by omega⟩ else none

/-- A class index 1 to 8. -/
def classIdxOf (b : Byte) : Option (Fin 8) :=
  if h : 1 ≤ b.toNat ∧ b.toNat ≤ 8 then some ⟨b.toNat - 1, by omega⟩ else none

/-! ### The class record, bytes 9 to 52 of the hole record -/

def inRange (lo hi n : Nat) : Bool := lo ≤ n && n ≤ hi

/-- The first `n` kinds of the four positions, if the count is 1 to 4 and each is FAST, MEDIUM or SLOW (R23). Positions
past the count are not checked (R164). -/
def cartridgesOf (n : Nat) (ks : List Byte) : Option (List CartKind) :=
  if inRange 1 4 n then (ks.take n).mapM cartOf else none

/-- The 44 bytes of a class record as fields, whatever their ranges, numbered from the first; none where a named value is
not one of its list. -/
def parseClass (bs : List Byte) : Option ClassRec :=
  let b (i : Nat) : Byte := bs.getD i 0
  let n (i : Nat) : Nat := (b i).toNat
  let w (i : Nat) : Nat := fromTwo (b i) (b (i + 1))
  match actionOf (b 11), cartridgesOf (n 15) [b 16, b 17, b 18, b 19] with
  | some action, some cartridges =>
    some { target := w 0, collar := w 2, steelLength := w 4, maxSteels := n 6, anchorLength := w 7, weakLimit := w 9,
           action, extStep := w 12, fallback := n 14, cartridges, spinTime := n 20, holdTime := w 21,
           windowEnd := w 23, torqueTarget := w 25, torqueFactor := n 27, turnLimit := n 28, stallPressure := n 29,
           stallTime := n 30, collarDemand := n 31, drillDemand := n 32, spinDemand := n 33, torqueDemand := n 34,
           retractDemand := n 35, collarFeed := n 36, drillFeed := n 37, drillRotation := n 38, pushFeed := n 39,
           spinRotation := n 40, holdFeed := n 41, torqueRotation := n 42, retractFeed := n 43 }
  | _, _ => none

/-- Every field of R22 in its range. -/
def ClassRec.fieldsInRange (c : ClassRec) : Bool :=
  inRange 300 3000 c.target && inRange 25 200 c.collar && inRange 300 1200 c.steelLength && inRange 1 5 c.maxSteels &&
  inRange 100 1200 c.anchorLength && inRange 0 1200 c.weakLimit && inRange 25 300 c.extStep && inRange 0 8 c.fallback &&
  inRange 1 4 c.cartridges.length && inRange 10 150 c.spinTime && inRange 20 600 c.holdTime &&
  inRange 30 1800 c.windowEnd && inRange 50 600 c.torqueTarget && inRange 1 255 c.torqueFactor &&
  inRange 1 255 c.turnLimit && inRange 20 250 c.stallPressure && inRange 5 50 c.stallTime &&
  [c.collarDemand, c.drillDemand, c.spinDemand, c.torqueDemand, c.retractDemand].all (inRange 0 200) &&
  [c.collarFeed, c.drillFeed, c.drillRotation, c.pushFeed, c.spinRotation, c.holdFeed, c.torqueRotation,
   c.retractFeed].all (inRange 0 15)

/-- The checks of R23 on a record written to index `i`. -/
def ClassRec.valid (c : ClassRec) (i : Nat) : Bool :=
  c.fieldsInRange && c.collar < c.target && c.target ≤ c.steelLength * c.maxSteels && c.anchorLength ≤ c.target &&
  c.spinTime + c.holdTime < c.windowEnd && c.fallback != i

/-- A list of kinds in `n` positions, unused positions 0. -/
def kindBytes (n : Nat) (ks : List CartKind) : List Byte :=
  (List.range n).map fun i => byteOf (((ks[i]?).map CartKind.code).getD 0)

/-- A class record as bytes 9 to 52 of the hole record (section 10.6). -/
def classBytes (c : ClassRec) : List Byte :=
  twoBytes c.target ++ twoBytes c.collar ++ twoBytes c.steelLength ++ [byteOf c.maxSteels] ++
  twoBytes c.anchorLength ++ twoBytes c.weakLimit ++ [byteOf c.action.code] ++ twoBytes c.extStep ++
  [byteOf c.fallback, byteOf c.cartridges.length] ++ kindBytes 4 c.cartridges ++ [byteOf c.spinTime] ++
  twoBytes c.holdTime ++ twoBytes c.windowEnd ++ twoBytes c.torqueTarget ++
  [c.torqueFactor, c.turnLimit, c.stallPressure, c.stallTime,
   c.collarDemand, c.drillDemand, c.spinDemand, c.torqueDemand, c.retractDemand,
   c.collarFeed, c.drillFeed, c.drillRotation, c.pushFeed, c.spinRotation, c.holdFeed, c.torqueRotation,
   c.retractFeed].map byteOf

/-! ### The hole record (section 10.6) -/

/-- A hole record, or a context in the form of one: outcome 0 while it is absent, absent fields 0. -/
def holeBytes (side : Side) (d : HoleData) : List Byte :=
  [byteOf (sideCode side)] ++ posBytes (some d.pos) ++ [outcomeByte d.outcome,
    bitsByte [d.fault.isSome, d.origClass.isSome, d.tempBand.isSome, d.resin.isSome, d.tensionOffset.isSome],
    byteOf ((d.fault.map FaultCode.code).getD 0),
    bitsByte [d.atHole, d.substituted, d.hostDecided, d.acceptedWeak, d.truncated],
    byteOf d.snapIdx, byteOf (d.origClass.getD 0)] ++
  classBytes d.snap ++ twoBytes d.depth ++ twoBytes d.targetDepth ++
  [d.steelCount, d.incCount, d.stallCount, d.extensions].map byteOf ++ twoBytes d.weakLength ++
  [byteOf d.nextIdx, byteOf d.inserted.length] ++ kindBytes 4 d.inserted ++
  [byteOf d.jamCount, byteOf (d.tempBand.getD 0), byteOf ((d.resin.map (·.s)).getD 0)] ++
  twoBytes ((d.resin.map (·.h)).getD 0) ++ twoBytes ((d.resin.map (·.w)).getD 0) ++
  twoBytes (d.gel.getD 0) ++ twoBytes (d.tensionOffset.getD 0) ++ twoBytes d.torque ++ [byteOf d.turns] ++
  twoBytes d.suspensions ++ [byteOf d.runs.length] ++
  d.runs.flatMap fun r => [byteOf r.cls.code, byteOf (r.start / incrementMm)] ++ twoBytes r.length

/-! ### Notices (R169) -/

/-- A notice's body of 5 bytes. -/
def noticeBody (n : Notice) : List Byte := [byteOf n.flag.code, sideByte n.boom] ++ posBytes n.pos ++ [byteOf n.reason]

/-- A notice as a frame of kind 0xC0 with tag 0. -/
def noticeFrame (n : Notice) : Frame := ⟨0xC0, 0, noticeBody n⟩

end Sys2Proof.Machine
end

