-- ==== Sys2Proof/Machine/Lines.lean ====
section
/-! DEFINITION. The field line unit: line records, change latches, bindings, scaling, driven outputs, the stop loop
(R136 to R150). -/

namespace Sys2Proof.Machine

/-! ### Reading lines through their bindings -/

def LineRec.boundTo (l : LineRec) (fn : Fn) : Bool := (l.binding.map (·.fn)) == some fn

/-- The line a function is bound to. -/
def State.lineOf (s : State) (fn : Fn) : Option LineRec := s.lines.toList.find? (·.boundTo fn)

def State.bound (s : State) (fn : Fn) : Bool := (s.lineOf fn).isSome

/-- The level a bound line reads as it stands; an unbound function reads 0 (R145, log 25). -/
def State.reads1 (s : State) (fn : Fn) : Bool := ((s.lineOf fn).map (·.digital)).getD false

/-- The stop loop is open while its function is bound and its line reads 0 (R149). -/
def State.loopOpen (s : State) : Bool := s.bound .stopLoop && !s.reads1 .stopLoop

/-- A count scaled by a full scale, rounded down (R146). -/
def scaleFull (count full : Nat) : Nat := count * full / 1023

def Binding.scaled (b : Binding) (count : Nat) : Nat :=
  match b.scaling with
  | .full f => scaleFull count f
  | _ => 0

/-- The scaled value of an analog function as its line now stands; 0 where unbound. -/
def State.scaledValue (s : State) (fn : Fn) : Nat :=
  match s.lineOf fn with
  | some l => ((l.binding.map fun b => b.scaled l.analog)).getD 0
  | none => 0

/-- A boom's feed position in mm, as its line now stands (R55). -/
def State.feedPos (s : State) (side : Side) : Nat := s.scaledValue (.boom side .feedPosition)

/-- A boom's rotation pressure in bar, as its line now stands (R31). -/
def State.rotPressure (s : State) (side : Side) : Nat := s.scaledValue (.boom side .rotationPressure)

/-- The roof temperature in °C, rounded toward the lower degree; none while the function is unbound (R80, R146). -/
def State.temperature (s : State) : Option Int :=
  match s.lineOf .temperature with
  | some l =>
    match l.binding with
    | some ⟨_, .temp off span⟩ => some (Int.ofNat (l.analog * span / 1023) - Int.ofNat off)
    | _ => none
  | none => none

/-! ### Digital states and change latches -/

/-- What a line drives: its output value, held at 0 while the stop loop holds a bound line (R149). -/
def LineRec.driven (holding : Bool) (l : LineRec) : Nat := if holding && l.binding.isSome then 0 else l.outValue

/-- The level a DIGITAL_IN terminal reads: an open one follows the pull (R137). -/
def LineRec.terminalLevel (l : LineRec) : Bool :=
  if l.term.isOpen then
    match l.pull with
    | .up => true
    | .down => false
    | .none => l.term.level
  else l.term.level

/-- A line's digital state by its mode (R137). -/
def LineRec.levelNow (holding : Bool) (l : LineRec) : Bool :=
  match l.mode with
  | .digitalIn => l.terminalLevel
  | .analogIn => false
  | .switchedOut | .proportionalOut => 0 < l.driven holding

/-- The condition senses hold or not (R140); an ANALOG_IN line is not evaluated. -/
def LineRec.condition (l : LineRec) : Bool :=
  match l.mode, l.sense with
  | .analogIn, _ => false
  | _, .lowLevel => !l.digital
  | _, .highLevel => l.digital
  | _, .anyChange => l.digital != l.snapshot
  | _, .rising => false
  | _, .falling => false

def Sense.isEdge : Sense → Bool
  | .rising | .falling => true
  | _ => false

/-- The digital state becomes `new`: a change is an edge, which latches by the sense (R140). -/
def LineRec.toLevel (new : Bool) (l : LineRec) : LineRec :=
  if new = l.digital then l
  else
    let l' := { l with digital := new }
    let edge := l.mode != .analogIn && ((l.sense == .rising && new) || (l.sense == .falling && !new))
    { l' with latch := l.latch || edge || l'.condition }

/-- A masked line whose latch is set (R141). -/
def LineRec.flagged (l : LineRec) : Bool := l.mask && l.latch

/-- New line records; LINES is set if some masked latch has become set or been uncovered (R141). -/
def setLines (lines : Vector LineRec 32) (s : State) : State :=
  let newly := (s.lines.toList.zip lines.toList).any fun p => !p.1.flagged && p.2.flagged
  let s' := { s with lines := lines }
  if newly then raiseFlag .lines none none 0 s' else s'

/-- Change one line record. -/
def setLine (i : Fin 32) (l : LineRec) (s : State) : State := setLines (s.lines.set i l) s

/-! ### What the owners command -/

/-- The four outputs of a boom. -/
structure BoomOutputs where
  feedUp : Nat
  feedDown : Nat
  rotation : Nat
  loader : Bool
deriving DecidableEq, Repr

/-- A boom's outputs by state and part (R46, R71, R105). A motion that needs no grant drives nothing (R47). -/
def boomOutputs (b : Boom) : BoomOutputs :=
  let c := b.snap
  match b.phase, b.port.view.isHeld with
  | .collaring, true => ⟨c.collarFeed, 0, c.drillRotation, false⟩
  | .drilling, true =>
    if b.backOff then ⟨0, c.retractFeed, c.drillRotation, false⟩ else ⟨c.drillFeed, 0, c.drillRotation, false⟩
  | .steelChange, true | .retracting, true | .releasing, true | .aborting, true => ⟨0, c.retractFeed, 0, false⟩
  | .inserting, _ => ⟨0, 0, 0, (b.ctx.bind fun h => h.inFlight).isSome⟩
  | .spinning, true => ⟨c.pushFeed, 0, c.spinRotation, false⟩
  | .torquing, true => ⟨c.holdFeed, 0, c.torqueRotation, false⟩
  | _, _ => ⟨0, 0, 0, false⟩

/-- The command of an output function's owner (R147); none for an input function. -/
def ownerCommand (s : State) : Fn → Option Nat
  | .boom side .feedUp => some (boomOutputs (s.boom side)).feedUp
  | .boom side .feedDown => some (boomOutputs (s.boom side)).feedDown
  | .boom side .rotation => some (boomOutputs (s.boom side)).rotation
  | .boom side .loader => some (boolNat (boomOutputs (s.boom side)).loader)
  | .canopyUp => some (boolNat (s.canopy.state == .raising && s.canopy.port.view.isHeld))
  | .canopyDown => some (boolNat (s.canopy.state == .lowering))
  | _ => none

/-- A bound output line takes its owner's command, and every output line's digital state follows what is driven. -/
def refreshLine (s : State) (l : LineRec) : LineRec :=
  match l.mode with
  | .digitalIn | .analogIn => l
  | .switchedOut | .proportionalOut =>
    let l' := { l with outValue := ((l.binding.bind fun b => ownerCommand s b.fn)).getD l.outValue }
    l'.toLevel (l'.levelNow s.holding)

/-- The output lines take what the event left commanded and driven (R147, R149, log 14). -/
def settleLines (s : State) : State := setLines (s.lines.map (refreshLine s)) s

/-- The end of every event: lines follow, then an idle transmitter takes what came. -/
def settle (s : State) : State := settleUplink (settleLines s)

/-! ### Edges and values handed to owners (R145) -/

/-- An opening of the stop loop is handed to the field line unit, the support controller and both booms (R149). -/
def openStopLoop (s : State) : State :=
  ({ s with stopOpenings := s.stopOpenings + 1 }.handCanopy .stopLoop).handBooms .stopLoop

/-- An edge of a bound input line, handed to the owner or owners that use it (R143, R145). A rise of the stop loop ends
the holding (R149). -/
def handEdge (fn : Fn) (high : Bool) (s : State) : State :=
  match fn with
  | .boom side .deadman => s.handBoom side (.deadman high)
  | .boom side .atHole => if high then s.handBoom side .atHole else s
  | .boom side .cartridgePass => if high then s.handBoom side .cartridgePass else s
  | .boom side .boltPresent => if high then s.handBoom side .boltPresent else s
  | .boom side .rotationPulse => if high then s.handBoom side .rotationPulse else s
  | .boom side .feedHome => if high then s.handBoom side .feedHome else s
  | .canopyPressure => s.handCanopy (.pressure high)
  | .pumpOk =>
    { s with arbiter := { s.arbiter with events := s.arbiter.events ++ [high] } }.handBooms (.pump high)
  | .stopLoop => if high then { s with holding := false } else openStopLoop s
  | _ => s

/-- A changed analog value of a bound line, scaled and handed to its owner (R138, R146). -/
def handValue (b : Binding) (count : Nat) (s : State) : State :=
  match b.fn with
  | .boom side .feedPosition => s.handBoom side (.feedPosition (b.scaled count))
  | .boom side .rotationPressure => s.handBoom side (.rotationPressure (b.scaled count))
  | _ => s

/-- A line's record becomes `l`, then its digital state is taken anew from its terminal; a change is an edge, handed to
the owner (R137, R145). -/
def takeTerminal (i : Fin 32) (l : LineRec) (s : State) : State :=
  let new := l.levelNow s.holding
  let s' := setLine i (l.toLevel new) s
  if new = l.digital then s'
  else
    match l.binding with
    | some b => handEdge b.fn new s'
    | none => s'

/-- The outside presents a level at a terminal, or leaves it open: DIGITAL_EDGE (R137). -/
def presentLevel (i : Fin 32) (level isOpen : Bool) (s : State) : State :=
  let l := s.lines[i]
  let l' := { l with term := { l.term with level := level, isOpen := isOpen } }
  match l.mode with
  | .digitalIn => takeTerminal i l' s
  | _ => setLine i l' s

/-- The outside presents a count at a terminal: ANALOG_CHANGE (R138). -/
def presentCount (i : Fin 32) (count : Nat) (s : State) : State :=
  let l := s.lines[i]
  let l' := { l with term := { l.term with count := count } }
  if l.mode = .analogIn ∧ count ≠ l.analog then
    let s' := setLine i { l' with analog := count } s
    match l.binding with
    | some b => handValue b count s'
    | none => s'
  else setLine i l' s

/-- The field line unit takes an opening: STOP_LOOP is set, and every bound output line is driven at 0; if the loop has
closed since, the holding ends again (R149, R110, log 23). -/
def takeOpening (s : State) : State :=
  let s := { s with stopOpenings := s.stopOpenings - 1, holding := true }
  let s := settleLines (raiseFlag .stopLoop none none 0 s)
  { s with holding := s.loopOpen }

/-! ### Requests -/

/-- A line after LINE_CONFIG (R139, R140). A change of mode takes the digital state anew without an edge; a change of
sense latches at once where the new condition holds (log 20); it is judged on the digital state before an edge that a new pull
brings about, which `takeTerminal` then takes: the model's choice (log 20). -/
def configLine (holding : Bool) (mode : LineMode) (pull : Pull) (sense : Sense) (mask : Bool) (l : LineRec) : LineRec :=
  let l1 := { l with mode := mode, pull := pull, sense := sense, mask := mask }
  let l2 :=
    if mode = l.mode then l1
    else
      let l1 := { l1 with outValue := 0, latch := false, analog := if mode = LineMode.analogIn then l.term.count else 0 }
      let d := l1.levelNow holding
      { l1 with digital := d, snapshot := d }
  if sense = l.sense then l2 else { l2 with latch := l2.latch || l2.condition }

/-- LINE_CONFIG (R139). -/
def reqLineConfig (line mode pull sense mask : Byte) (s : State) : Answer :=
  match lineIdx line, modeOf mode, pullOf pull, senseOf sense, onOffOf mask with
  | some i, some mode, some pull, some sense, some mask =>
    let l := s.lines[i]
    if l.binding.isSome ∧ mode ≠ l.mode then refuse .refusedOwned s
    else
      let l' := configLine s.holding mode pull sense mask l
      accept [] (if mode = .digitalIn then takeTerminal i l' s else setLine i l' s)
  | _, _, _, _, _ => refuse .refusedRange s

/-- The mode a function needs (R143). -/
def Fn.requiredMode : Fn → LineMode
  | .boom _ .feedUp | .boom _ .feedDown | .boom _ .rotation => .proportionalOut
  | .boom _ .loader | .canopyUp | .canopyDown => .switchedOut
  | .boom _ .feedPosition | .boom _ .rotationPressure | .temperature => .analogIn
  | .boom _ .deadman | .boom _ .atHole | .boom _ .cartridgePass | .boom _ .boltPresent
  | .boom _ .rotationPulse | .boom _ .feedHome | .canopyPressure | .pumpOk | .stopLoop => .digitalIn

/-- The scaling a binding takes, if the fields the function uses are in range (R146); the others are not checked
(R164). -/
def scalingOf (fn : Fn) (full off span : Nat) : Option Scaling :=
  match fn with
  | .boom _ .feedPosition => if inRange 500 3000 full then some (.full full) else none
  | .boom _ .rotationPressure => if inRange 100 400 full then some (.full full) else none
  | .temperature => if inRange 0 40 off && inRange 10 200 span then some (.temp off span) else none
  | _ => some .none

/-- Both booms are IDLE. -/
def State.bothIdle (s : State) : Bool := s.boomA.phase == .idle && s.boomB.phase == .idle

/-- The state condition of R144 for binding a function. -/
def bindAllowed (s : State) : Fn → Bool
  | .boom side _ => (s.boom side).phase == .idle
  | .canopyUp | .canopyDown | .canopyPressure => s.canopy.state != .raising && s.canopy.state != .lowering
  | .temperature | .stopLoop | .pumpOk => true

/-- The state condition of R144 for unbinding a function. -/
def unbindAllowed (s : State) : Fn → Bool
  | .stopLoop | .pumpOk => s.bothIdle
  | fn => bindAllowed s fn

def LineMode.isOut : LineMode → Bool
  | .switchedOut | .proportionalOut => true
  | _ => false

/-- LINE_WRITE (R148). -/
def reqLineWrite (line value : Byte) (s : State) : Answer :=
  match lineIdx line with
  | none => refuse .refusedRange s
  | some i =>
    let l := s.lines[i]
    if !l.mode.isOut then refuse .refusedState s
    else if l.binding.isSome then refuse .refusedOwned s
    else if (if l.mode = .switchedOut then 1 else 15) < value.toNat then refuse .refusedRange s
    else accept [] { s with lines := s.lines.set i { l with outValue := value.toNat } }

/-- A line's seven bytes in the reply to LINE_READ (section 10.6). -/
def lineBytes (l : LineRec) : List Byte :=
  [byteOf l.mode.code, byteOf (l.pull.code + 4 * l.sense.code + 32 * boolNat l.mask),
   byteOf ((l.binding.map (·.fn.code)).getD 0), byteOf l.outValue, bitsByte [l.digital, l.latch, l.snapshot]] ++
  twoBytes l.analog

/-- A line after LINE_READ (R142): new snapshot, edge latches cleared, condition latches re-evaluated. -/
def rereadLine (l : LineRec) : LineRec :=
  let l' := { l with snapshot := l.digital }
  { l' with latch := l'.condition }

/-- LINE_READ (R142). -/
def reqLineRead (s : State) : Answer :=
  accept (s.lines.toList.flatMap lineBytes) (setLines (s.lines.map rereadLine) s)

/-- A line after RESTART, before the condition senses are evaluated (R150). -/
def restartLine (holding : Bool) (l : LineRec) : LineRec :=
  let l1 := { l with outValue := 0, latch := false }
  let d := l1.levelNow holding
  { l1 with digital := d, snapshot := d }

/-- The re-evaluation after RESTART, as R142 step 3 does (R150). -/
def reevaluate (l : LineRec) : LineRec := { l with latch := if l.sense.isEdge then l.latch else l.condition }

end Sys2Proof.Machine
end

