-- ==== Sys2Proof/Machine/Pattern.lean ====
section
/-! DEFINITION. The pattern table: walks, seeks, claims, completion, the cut tally, and the requests on cells
(R1 to R21, R175, R176). -/

namespace Sys2Proof.Machine

/-! ### Walks (R10) -/

def PatternDef.walk (p : PatternDef) : Side → Walk
  | .a => p.walkA
  | .b => p.walkB

/-- A cell inside the window. -/
def PatternDef.inWindow (p : PatternDef) (q : Pos) : Bool :=
  p.xs ≤ q.col && q.col ≤ p.xe && p.ys ≤ q.row && q.row ≤ p.ye

/-- The columns of a walk in its direction. -/
def PatternDef.walkCols (p : PatternDef) (side : Side) : List (Fin 8) :=
  let cs := allCols.filter fun x => p.xs ≤ x && x ≤ p.xe
  if (p.walk side).mirrorX then cs.reverse else cs

/-- The rows of a walk in its direction. -/
def PatternDef.walkRows (p : PatternDef) (side : Side) : List (Fin 12) :=
  let rs := allRows.filter fun y => p.ys ≤ y && y ≤ p.ye
  if (p.walk side).mirrorY then rs.reverse else rs

/-- A boom's walk: all cells of the window in its order (R10). -/
def PatternDef.walkCells (p : PatternDef) (side : Side) : List Pos :=
  match (p.walk side).order with
  | .row => (p.walkRows side).flatMap fun y => (p.walkCols side).map fun x => ⟨x, y⟩
  | .column => (p.walkCols side).flatMap fun x => (p.walkRows side).map fun y => ⟨x, y⟩

/-- The order in which a seek visits a walk: from the start, or from the position after the cursor, wrapping, with the
cursor's own position last (R12). -/
def seekOrder (walk : List Pos) : Option Pos → List Pos
  | none => walk
  | some p => walk.drop (walk.idxOf p + 1) ++ walk.take (walk.idxOf p + 1)

/-- All window cells. -/
def State.windowCells (s : State) : List Pos :=
  match s.pattern with
  | none => []
  | some p => allRows.flatMap fun y => (allCols.map fun x => (⟨x, y⟩ : Pos)).filter p.inWindow

/-! ### Completion (R20) -/

def CellState.isOpen : CellState → Bool
  | .planned | .claimed | .working => true
  | _ => false

/-- The pattern is found complete (R20). -/
def State.patternComplete (s : State) : Bool :=
  s.pattern.isSome && !s.complete && (s.windowCells.any fun q => (s.cell q).state != .off) &&
    s.windowCells.all fun q => !(s.cell q).state.isOpen

/-- The completion check: a complete pattern sets the completion mark and the PATTERN_DONE flag (R20). -/
def completionCheck (s : State) : State :=
  if s.patternComplete then raiseFlag .patternDone none none 0 { s with complete := true } else s

/-! ### Seeks and claims (R12 to R16) -/

/-- The distance of two cells: the larger of the column and row differences (R13). -/
def distance (p q : Pos) : Nat :=
  max (max (p.col.val - q.col.val) (q.col.val - p.col.val)) (max (p.row.val - q.row.val) (q.row.val - p.row.val))

/-- A cell is blocked for a boom when the other boom's hole context names a cell within the clearance of it (R13). -/
def State.blockedFor (s : State) (side : Side) (clearance : Nat) (q : Pos) : Bool :=
  match (s.boom side.other).ctx with
  | some c => distance q c.pos ≤ clearance
  | none => false

/-- An event of R15 for a boom: one in SEEK_WAIT is due a seek. -/
def noteReseek (side : Side) (s : State) : State :=
  s.modBoom side fun b => if b.phase = .seekWait then { b with reseekDue := true } else b

/-- A new hole context for a cell, from the class record that stands at the claim (R26, R52). -/
def newContext (q : Pos) (idx : Nat) (c : ClassRec) : HoleCtx where
  pos := q
  snapIdx := idx
  snap := c
  origClass := none
  substituted := false
  hostDecided := false
  atHole := false
  depth := 0
  targetDepth := c.target
  steelCount := 1
  incCount := 0
  stallCount := 0
  runs := []
  truncated := false
  weakLength := 0
  acceptedWeak := false
  extensions := 0
  required := c.cartridges
  nextIdx := 1
  inserted := []
  jamCount := 0
  tempBand := none
  resin := none
  gel := none
  tensionOffset := none
  torque := 0
  turns := 0
  suspensions := 0
  fault := none
  outcome := none
  inFlight := none
  spinElapsed := 0

/-- A boom claims a cell and enters POSITIONING; the claim is an event of R15 for the other boom (R16). -/
def claimCell (side : Side) (q : Pos) (s : State) : State :=
  let cell := s.cell q
  let s := s.setCell q { cell with state := .claimed, boom := some side }
  let ctx := newContext q cell.classIdx ((classAt s.classes cell.classIdx).getD .blank)
  let s := s.modBoom side fun b =>
    { b with phase := .positioning, cursor := some q, ctx := some ctx, reseekDue := false }
  noteReseek side.other s

/-- A boom enters IDLE: its marks, hold reasons and wait reason go; magazine and cursor stay (R50). -/
def enterIdle (side : Side) (s : State) : State :=
  s.modBoom side fun b =>
    { b with phase := .idle, started := false, stopPending := false, holds := .empty, waitReason := none,
             reseekDue := false }

/-- A boom's seek, taken whole (R12, R14): a claim, SEEK_WAIT where a PLANNED cell was blocked, or IDLE with a completion
check where none was met. -/
def seek (side : Side) (s : State) : State :=
  match s.pattern with
  | none => completionCheck (enterIdle side s)
  | some p =>
    let planned := (seekOrder (p.walkCells side) (s.boom side).cursor).filter fun q => (s.cell q).state == .planned
    match planned.find? fun q => !s.blockedFor side p.clearance q with
    | some q => claimCell side q s
    | none =>
      if planned.isEmpty then completionCheck (enterIdle side s)
      else s.modBoom side fun b => { b with phase := .seekWait, reseekDue := false }

/-- A boom in SEEK_WAIT seeks again (R15). -/
def reseek (side : Side) (s : State) : State :=
  if (s.boom side).phase = .seekWait then seek side s else s

/-- Each boom in SEEK_WAIT seeks again (R7, R9). -/
def reseekBoth (s : State) : State := reseek .b (reseek .a s)

/-- The seek of a boom whose hole ended or whose claim was skipped. Where the other boom is in SEEK_WAIT, either seek may be
taken first: a free value decides whether the other's comes before (R15, R16, log 11). -/
def seekAmong (side : Side) (s : State) : State :=
  if (s.boom side.other).phase = .seekWait then
    let s' := { s with freeCount := s.freeCount + 1 }
    if Config.freeReseekFirst s.freeCount then seek side (reseek side.other s') else seek side s'
  else seek side s

/-! ### The end of a claim -/

/-- The hole context ends, and with it the steel base, the hold end and the wait reason; the motion's flow goes (R91,
R106, R109). -/
def endContext (side : Side) (s : State) : State :=
  (dropFlow side s).modBoom side fun b =>
    { b with ctx := none, base := none, holdEnd := none, waitReason := none, suspendedPhase := none, backOff := false }

/-- A claim in POSITIONING is released: the cell returns to PLANNED (R18). -/
def releaseClaim (side : Side) (s : State) : State :=
  match (s.boom side).ctx with
  | none => s
  | some c =>
    let s := s.setCell c.pos { s.cell c.pos with state := .planned, boom := none }
    noteReseek side.other (endContext side s)

/-! ### The cut tally (R156, R175) -/

/-- The tally with one hole's contributions (R156). -/
def Tally.addHole (t : Tally) (d : HoleData) : Tally :=
  let one (o : HoleOutcome) : Nat := boolNat (d.outcome == some o)
  { t with
    installed := t.installed + one .installed
    installedMarked := t.installedMarked + one .installedMarked
    untensioned := t.untensioned + one .untensioned
    spinThrough := t.spinThrough + one .spinThrough
    abandoned := t.abandoned + one .abandoned
    resinLost := t.resinLost + one .resinLost
    stopped := t.stopped + one .stopped
    inserted := t.inserted + d.inserted.length
    lostToJams := t.lostToJams + d.jamCount
    substitutions := t.substitutions + boolNat d.substituted
    extensions := t.extensions + d.extensions
    metres := t.metres + d.depth }

/-- One more SKIP taken; the counter stays at 65535 (R175). -/
def Tally.addSkip (t : Tally) : Tally := { t with skipped := min (t.skipped + 1) skippedLimit }

/-- An outcome of a cell that becomes DONE (R19). -/
def HoleOutcome.good : HoleOutcome → Bool
  | .installed | .installedMarked => true
  | _ => false

/-- The pattern table takes a hole's outcome: the cell becomes DONE or FAILED with its final depth and torque, the tally
takes the contributions, and the completion check is made (R19). -/
def takeOutcome (d : HoleData) (o : HoleOutcome) (s : State) : State :=
  let s := s.setCell d.pos
    { s.cell d.pos with state := if o.good then .done else .failed, outcome := some o,
                        finalDepth := some d.depth, torque := some d.torque }
  completionCheck { s with tally := s.tally.addHole d }

/-! ### Requests -/

/-- PATTERN_DEFINE (R4). -/
def reqPatternDefine (xs xe ys ye oA mxA myA oB mxB myB clr : Byte) (s : State) : Answer :=
  match posOf xs.toNat ys.toNat, posOf xe.toNat ye.toNat, walkOrderOf oA, onOffOf mxA, onOffOf myA,
    walkOrderOf oB, onOffOf mxB, onOffOf myB with
  | some lo, some hi, some oA, some mxA, some myA, some oB, some mxB, some myB =>
    if hi.col < lo.col ∨ hi.row < lo.row ∨ 3 < clr.toNat then refuse .refusedRange s
    else if !s.bothIdle then refuse .refusedState s
    else
      let p : PatternDef :=
        { xs := lo.col, xe := hi.col, ys := lo.row, ye := hi.row, walkA := ⟨oA, mxA, myA⟩, walkB := ⟨oB, mxB, myB⟩,
          clearance := clr.toNat }
      let s := { s with pattern := some p, cells := .replicate 96 .blank, tally := .zero, complete := false }
      accept [] ((s.modBoom .a fun b => { b with cursor := none }).modBoom .b fun b => { b with cursor := none })
  | _, _, _, _, _, _, _, _ => refuse .refusedRange s

/-- The cells of a rectangle given by two corners. -/
def rectangle (lo hi : Pos) : List Pos :=
  (allRows.filter fun y => lo.row ≤ y && y ≤ hi.row).flatMap fun y =>
    (allCols.filter fun x => lo.col ≤ x && x ≤ hi.col).map fun x => ⟨x, y⟩

/-- A cell after CELL_MARK with a class index (R6, R1). -/
def markCell (cls : Nat) (c : Cell) : Cell :=
  let cleared := { c with boom := none, outcome := none, finalDepth := none, torque := none }
  if cls = 0 then { cleared with state := .off, classIdx := 0 }
  else
    { cleared with state := .planned, classIdx := cls,
                   attempts := if c.state = .failed then c.attempts + 1 else c.attempts }

/-- CELL_MARK (R5 to R7). -/
def reqCellMark (x1 x2 y1 y2 cls : Byte) (s : State) : Answer :=
  match s.pattern with
  | none => refuse .refusedState s
  | some p =>
    match posOf x1.toNat y1.toNat, posOf x2.toNat y2.toNat with
    | some lo, some hi =>
      let cells := rectangle lo hi
      let k := cls.toNat
      if hi.col < lo.col ∨ hi.row < lo.row ∨ 8 < k then refuse .refusedRange s
      else if cells.any fun q => !p.inWindow q then refuse .refusedRange s
      else if cells.any fun q =>
          (s.cell q).state == .claimed || (s.cell q).state == .working || (s.cell q).state == .done ||
            (k == 0 && (s.cell q).state == .failed) then refuse .refusedState s
      else if k ≠ 0 ∧ (classAt s.classes k).isNone then refuse .refusedRange s
      else if k ≠ 0 ∧ cells.any fun q => (s.cell q).state == .failed && attemptLimit ≤ (s.cell q).attempts then
        refuse .refusedRange s
      else
        let s := cells.foldl (fun s q => s.setCell q (markCell k (s.cell q))) s
        let s := if k ≠ 0 then { s with complete := false } else s
        accept [] (completionCheck (reseekBoth s))
    | _, _ => refuse .refusedRange s

/-- The reply's fields for a cell (section 10.6). -/
def cellBytes (inside : Bool) (q : Pos) (c : Cell) : List Byte :=
  posBytes (some q) ++ [boolByte inside, byteOf c.state.code, byteOf c.classIdx,
    bitsByte [c.boom.isSome, c.outcome.isSome], sideByte c.boom, byteOf c.attempts, outcomeByte c.outcome] ++
  twoBytes (c.finalDepth.getD 0) ++ twoBytes (c.torque.getD 0) ++ [boolByte c.detailLost]

/-- A cell inside the window; none is while no pattern is defined (R8). -/
def State.inside (s : State) (q : Pos) : Bool := (s.pattern.map fun p => p.inWindow q).getD false

/-- CELL_READ (R8). -/
def reqCellRead (x y : Byte) (s : State) : Answer :=
  match posOf x.toNat y.toNat with
  | none => refuse .refusedRange s
  | some q => accept (cellBytes (s.inside q) q (s.cell q)) s

/-- The window cells that stand in a state (R176). -/
def State.countCells (s : State) (st : CellState) : Nat := (s.windowCells.filter fun q => (s.cell q).state == st).length

/-- TALLY_READ (R176). -/
def reqTallyRead (s : State) : Answer :=
  let t := s.tally
  accept
    ([t.installed, t.installedMarked, t.untensioned, t.spinThrough, t.abandoned, t.resinLost, t.stopped,
      t.skipped, t.inserted, t.lostToJams, t.substitutions, t.extensions].flatMap twoBytes ++
     fourBytes t.metres ++ [boolByte s.pattern.isSome, boolByte s.complete] ++
     allCellStates.map fun st => byteOf (s.countCells st)) s

/-- The skip of a boom's own claim (R107). -/
def skipOwnClaim (side : Side) (q : Pos) (s : State) : State :=
  let s := s.setCell q { s.cell q with state := .skipped }
  let s := endContext side { s with tally := s.tally.addSkip }
  seekAmong side (completionCheck s)

/-- SKIP (R9, R107). -/
def reqSkip (boom x y : Byte) (s : State) : Answer :=
  match sideOf boom, posOf x.toNat y.toNat with
  | some side, some q =>
    match s.pattern with
    | none => refuse .refusedState s
    | some p =>
      if !p.inWindow q then refuse .refusedRange s
      else
        match (s.cell q).state, (s.cell q).boom with
        | .planned, _ =>
          let s := s.setCell q { s.cell q with state := .skipped, boom := none }
          accept [] (completionCheck (reseekBoth { s with tally := s.tally.addSkip }))
        | .claimed, some owner =>
          if owner = side then accept [] (completionCheck (reseekBoth (skipOwnClaim side q s)))
          else refuse .refusedState s
        | _, _ => refuse .refusedState s
  | _, _ => refuse .refusedRange s

end Sys2Proof.Machine
end

