-- ==== Sys2Proof/Machine/Ending.lean ====
section
/-! DEFINITION. How a hole ends and what interrupts it: record slots, hole ends, retractions, ABORTING, RELEASING, lateness
and suspension (R84, R89 to R92, R97, R104 to R112, R151 to R153). -/

namespace Sys2Proof.Machine

/-! ### Record slots (R151 to R153) -/

def State.slot (s : State) : Side → Option Slot
  | .a => s.slotA
  | .b => s.slotB

def State.setSlot (s : State) (side : Side) (o : Option Slot) : State :=
  match side with
  | .a => { s with slotA := o }
  | .b => { s with slotB := o }

/-- A record is placed in the boom's slot; over another record it is an overrun, which marks the old record's cell. -/
def placeRecord (side : Side) (d : HoleData) (s : State) : State :=
  match s.slot side with
  | none => raiseFlag (.holeDone side) (some side) (some d.pos) 0 (s.setSlot side (some ⟨false, ⟨side, d⟩⟩))
  | some old =>
    let q := old.record.data.pos
    let s := s.setCell q { s.cell q with detailLost := true }
    raiseFlag (.overrun side) (some side) (some q) 0 (s.setSlot side (some ⟨false, ⟨side, d⟩⟩))

/-! ### Hole ends -/

/-- What every hole end does: the outcome to the pattern table, the record to the slot, the context ends; the cell becoming
terminal is an event of R15 for the other boom (R19, R91, R106, R109). -/
def handHole (side : Side) (c : HoleCtx) (o : HoleOutcome) (s : State) : State :=
  let d := { c.toHoleData with outcome := some o }
  noteReseek side.other (endContext side (placeRecord side d (takeOutcome d o s)))

/-- The reason code of a HALT notice: the fault, or the outcome where no fault was taken (R106, R109). -/
def haltReason (c : HoleCtx) (o : HoleOutcome) : Nat :=
  match c.fault with
  | some f => f.code
  | none => o.code

/-- A boom enters STOPPED: hold reasons emptied, stop-pending cleared; started mark, cursor and magazine kept (R111). -/
def enterStopped (side : Side) (s : State) : State :=
  s.modBoom side fun b =>
    { b with phase := .stopped, holds := .empty, stopPending := false, waitReason := none, suspendedPhase := none,
             reseekDue := false }

/-- A hole ends where it stands, without retraction: steps 1 to 5 of R109, with the outcome it has or `dflt`. -/
def stopHole (side : Side) (dflt : HoleOutcome) (s : State) : State :=
  match (s.boom side).ctx with
  | none => s
  | some c =>
    let o := c.outcome.getD dflt
    raiseFlag (.halt side) (some side) (some c.pos) (haltReason c o) (enterStopped side (handHole side c o s))

/-- A second failure in RELEASING or ABORTING: the new fault replaces any earlier one and the hole ends in STOPPED
(R112). -/
def secondFailure (side : Side) (f : FaultCode) (s : State) : State :=
  stopHole side .abandoned (s.modCtx side fun c => { c with fault := some f })

/-- The hole end at the completion of RELEASING (R91). -/
def releaseDone (side : Side) (s : State) : State :=
  match (s.boom side).ctx with
  | none => s
  | some c =>
    let s := handHole side c (c.outcome.getD .abandoned) s
    if (s.boom side).stopPending then enterIdle side s else seekAmong side s

/-- A boom enters HALTED and sets its HALT flag (R106, R108); a pending stop then puts it in IDLE (R51). -/
def enterHalted (side : Side) (pos : Option Pos) (reason : Nat) (s : State) : State :=
  let s := raiseFlag (.halt side) (some side) pos reason (s.modBoom side fun b => { b with phase := .halted })
  if (s.boom side).stopPending then enterIdle side s else s

/-- The hole end at the completion of ABORTING's retraction (R106). -/
def abortDone (side : Side) (s : State) : State :=
  match (s.boom side).ctx with
  | none => s
  | some c =>
    let o := c.outcome.getD .abandoned
    enterHalted side (some c.pos) (haltReason c o) (handHole side c o s)

/-! ### Waits -/

/-- A boom waits for the operator or the host: wait reason and WAIT flag (R39, R62, R65, R73, R75, R78). -/
def waitFor (side : Side) (r : WaitReason) (s : State) : State :=
  raiseFlag (.wait side) (some side) ((s.boom side).ctx.map fun c => c.pos) r.code
    (s.modBoom side fun b => { b with waitReason := some r })

/-! ### Retractions -/

/-- The feed home line as it stands. -/
def feedHome (side : Side) (s : State) : Bool := s.reads1 (.boom side .feedHome)

/-- A retraction completes (R62, R65, R91, R106). -/
def retractDone (side : Side) (s : State) : State :=
  match (s.boom side).phase with
  | .steelChange => waitFor side .addSteel (dropFlow side s)
  | .retracting => waitFor side .clearHole ((dropFlow side s).modBoom side fun b => { b with phase := .holeOpen })
  | .releasing => releaseDone side s
  | .aborting => abortDone side s
  | _ => s

/-- The grant of a retraction, or the entry that stands in its place: it completes at once where feed home reads 1
(R62, R90, R105). -/
def retractBegins (side : Side) (s : State) : State := if feedHome side s then retractDone side s else s

/-- A retraction asks for its demand (R47, R90, R104). -/
def askRetract (side : Side) (s : State) : State :=
  let s := askFlow side .retract (s.boom side).snap.retractDemand s
  if (s.boom side).port.view = .free then retractBegins side s else s

/-- Entry to RELEASING with the outcome set (R90). -/
def enterReleasing (side : Side) (s : State) : State :=
  askRetract side ((dropFlow side s).modBoom side fun b =>
    { b with phase := .releasing, waitReason := none, suspendedPhase := none, retractTime := 0 })

/-- Entry to ABORTING with an outcome and, where a fault caused it, that fault (R104). -/
def enterAborting (side : Side) (o : HoleOutcome) (f : Option FaultCode) (s : State) : State :=
  let s := s.modCtx side fun c => { c with outcome := some o, fault := f.or c.fault }
  let s := (dropFlow side s).modBoom side fun b =>
    { b with phase := .aborting, waitReason := none, backOff := false, suspendedPhase := none, retractTime := 0 }
  if feedHome side s then abortDone side s else askRetract side s

/-! ### The tension deadline (R84) -/

/-- Torquing is active: in TORQUING, holding the grant or needing none. -/
def Boom.torquingActive (b : Boom) : Bool := b.phase == .torquing && b.port.view.moving

/-- The states in which the deadline is judged: from the spin start until the outcome is set. -/
def Boom.underDeadline (b : Boom) : Bool :=
  match b.phase with
  | .spinning | .holding | .torquing => true
  | .suspended => b.suspendedPhase == some .spinning || b.suspendedPhase == some .torquing
  | _ => false

/-- The gel clock is past W′ while torquing is not active and no outcome is set. -/
def Boom.late (b : Boom) : Bool :=
  b.underDeadline && !b.torquingActive &&
    match b.ctx with
    | some c =>
      match c.gel, c.resin with
      | some g, some r => r.w < g && c.outcome.isNone
      | _, _ => false
    | none => false

/-- Lateness is taken: UNTENSIONED with fault TENSION_LATE, and RELEASING. -/
def takeLate (side : Side) (s : State) : State :=
  enterReleasing side (s.modCtx side fun c => { c with outcome := some .untensioned, fault := some .tensionLate })

/-- Lateness is taken at once where an event has brought it about. -/
def lateCheck (side : Side) (s : State) : State := if (s.boom side).late then takeLate side s else s

/-! ### Suspension (R97) -/

/-- A boom in a held phase enters SUSPENDED; the suspension is counted before any lateness it brings (R84). -/
def suspend (side : Side) (s : State) : State :=
  let s := (dropFlow side s).modBoom side fun b =>
    { b with phase := .suspended, suspendedPhase := some b.phase,
             ctx := b.ctx.map fun c => { c with suspensions := c.suspensions + 1 } }
  lateCheck side s

/-- Entry to a held phase: SUSPENDED where any hold reason is present, before any flow request (R96). -/
def heldEntry (side : Side) (ph : Phase) (go : State → State) (s : State) : State :=
  let s := s.modBoom side fun b => { b with phase := ph }
  if (s.boom side).holds.any then suspend side s else go s

/-- A hold reason is added at a boom that records reasons; in a held phase it suspends the boom (R94, R96). -/
def addHold (side : Side) (f : Holds → Holds) (s : State) : State :=
  if (s.boom side).recordsHolds then
    let s := s.modBoom side fun b => { b with holds := f b.holds }
    if (s.boom side).heldPhase then suspend side s else s
  else s

/-- A hold reason is removed; that alone resumes nothing (R95). -/
def removeHold (side : Side) (f : Holds → Holds) (s : State) : State :=
  s.modBoom side fun b => { b with holds := f b.holds }

end Sys2Proof.Machine
end

