-- ==== Sys2Proof/Machine/Drilling.lean ====
section
/-! DEFINITION. Depth, increments, strata runs, assessment, drilling, stalls and steel changes (R30 to R42, R54 to R66). -/

namespace Sys2Proof.Machine

/-! ### Increments and strata runs -/

/-- A band of the classification table, capped at 15 (R31). -/
def bandOf (value step : Nat) : Fin 16 := ⟨min (value / step) 15, by omega⟩

/-- The strata class of an increment by its time in tenths and the rotation pressure (R31). -/
def classify (s : State) (pressure time : Nat) : StrataClass :=
  (s.strata[bandOf (250 / max time 1) s.rateStep])[bandOf pressure s.pressureStep]

/-- A classified increment joins the runs (R32). The lists are walked from the front; `room` is how many more runs fit. -/
def joinRuns (cls : StrataClass) (start : Nat) : Nat → List StrataRun → List StrataRun × Bool
  | _, [] => ([⟨cls, start, incrementMm⟩], false)
  | room, [r] =>
    if r.cls = cls then ([{ r with length := r.length + incrementMm }], false)
    else if 1 < room then ([r, ⟨cls, start, incrementMm⟩], false)
    else ([{ r with cls := .broken, length := r.length + incrementMm }], true)
  | room, r :: rs =>
    let (rs', t) := joinRuns cls start (room - 1) rs
    (r :: rs', t)

/-- The most strata runs a hole holds (R32). -/
def maxRuns : Nat := 16

/-- One increment completes with its class (R30, R32). -/
def addIncrement (cls : StrataClass) (c : HoleCtx) : HoleCtx :=
  let (runs, t) := joinRuns cls (incrementMm * c.incCount) maxRuns c.runs
  { c with runs := runs, truncated := c.truncated || t, incCount := c.incCount + 1 }

/-- `n` increments complete in ascending order: the first takes the time that had run, the later ones 0 (R30). -/
def addIncrements (cls : Nat → StrataClass) : Nat → Nat → HoleCtx → HoleCtx
  | 0, _, c => c
  | n + 1, time, c => addIncrements cls n 0 (addIncrement (cls time) c)

/-- Increments that have completed at a depth (R30). -/
def incrementsAt (depth : Nat) : Nat := min depth maxDepth / incrementMm

/-! ### Assessment (R33 to R39) -/

/-- The weak increments of a run that start at or above `low`. -/
def weakIncrements (low : Nat) (r : StrataRun) : Nat :=
  if r.cls.weak then
    ((List.range (r.length / incrementMm)).filter fun j => low ≤ r.start + incrementMm * j).length
  else 0

/-- The weak length of the anchor zone (R33). -/
def HoleCtx.anchorWeakLength (c : HoleCtx) : Nat :=
  incrementMm * (c.runs.map (weakIncrements (c.depth - c.snap.anchorLength))).sum

/-- The depth capacity of a hole (R35). -/
def depthCapacity (c : ClassRec) : Nat := min maxDepth (c.steelLength * c.maxSteels)

/-- Where an assessment, or an entry to DRILLING from one, sends the boom. -/
inductive NextMove where
  | drill | steelChange | retract | decide
deriving DecidableEq, Repr

/-- The checks on entry to DRILLING: assessment at the target depth, else a steel change at the end of the steels (R58,
R36). -/
def drillEntry (assess : HoleCtx → HoleCtx × NextMove) (c : HoleCtx) : HoleCtx × NextMove :=
  if c.targetDepth ≤ c.depth then assess c
  else if c.steelCount * c.snap.steelLength ≤ c.depth then (c, .steelChange)
  else (c, .drill)

/-- A substitution in the hole context (R37). -/
def substituteClass (idx : Nat) (rec : ClassRec) (c : HoleCtx) : HoleCtx :=
  { c with origClass := some c.snapIdx, snapIdx := idx, snap := rec, substituted := true, targetDepth := rec.target,
           required := rec.cartridges, nextIdx := 1 }

/-- How the hole goes on after a substitution (R38). -/
def afterSubstitution (assess : HoleCtx → HoleCtx × NextMove) (c : HoleCtx) : HoleCtx × NextMove :=
  if c.depth < c.targetDepth then
    if c.steelCount ≤ c.snap.maxSteels ∧ c.targetDepth ≤ depthCapacity c.snap then drillEntry assess c
    else (c, .decide)
  else assess c

/-- The assessments one event can hold: two class extensions and one substitution each lead to one more (R36, R37). -/
def assessFuel : Nat := 4

/-- The assessment of the anchor zone and the snapshot's action (R33 to R39). The fuel is never used up: each further
assessment raises the extensions count, which stays at most 2, or sets the substituted mark. -/
def assess (classes : Vector (Option ClassRec) 8) : Nat → HoleCtx → HoleCtx × NextMove
  | 0, c => (c, .decide)
  | n + 1, c =>
    let c := { c with weakLength := c.anchorWeakLength }
    if c.weakLength ≤ c.snap.weakLimit then (c, .retract)
    else
      match c.snap.action with
      | .proceed => ({ c with acceptedWeak := true }, .retract)
      | .stop => (c, .decide)
      | .extend =>
        let t := c.targetDepth + c.snap.extStep
        if c.extensions < extensionLimit ∧ t ≤ depthCapacity c.snap then
          drillEntry (assess classes n) { c with targetDepth := t, extensions := c.extensions + 1 }
        else (c, .decide)
      | .substitute =>
        match c.substituted, classAt classes c.snap.fallback with
        | false, some rec => afterSubstitution (assess classes n) (substituteClass c.snap.fallback rec c)
        | _, _ => (c, .decide)

/-! ### Motions of drilling -/

/-- The base feed position is taken at the first grant of the steel (R55). -/
def takeBaseFeed (side : Side) (s : State) : State :=
  s.modBoom side fun b =>
    match b.base with
    | some ⟨d, none⟩ => { b with base := some ⟨d, some (s.feedPos side)⟩ }
    | _ => b

/-- Entry to DRILLING: its demand is requested, or it is SUSPENDED where a reason stands (R57, R63, R96). Where it needs no
grant, a reach already past the depth is judged by `goOn` (log 18); an entry at a depth rise has just taken it. -/
def enterDrilling (side : Side) (s : State) : State :=
  let s := s.modBoom side fun b => { b with progressTime := 0, backOff := false, waitReason := none }
  heldEntry side .drilling (fun s =>
    let s := askFlow side .drill (s.boom side).snap.drillDemand s
    if (s.boom side).port.view = .free then takeBaseFeed side s else s) s

/-- Entry to STEEL_CHANGE (R62). -/
def enterSteelChange (side : Side) (s : State) : State :=
  let s := (dropFlow side s).modBoom side fun b => { b with retractTime := 0, backOff := false, waitReason := none }
  heldEntry side .steelChange (askRetract side) s

/-- Entry to RETRACTING (R65). -/
def enterRetracting (side : Side) (s : State) : State :=
  let s := (dropFlow side s).modBoom side fun b => { b with retractTime := 0, backOff := false, waitReason := none }
  heldEntry side .retracting (askRetract side) s

/-- Entry to DECISION_WAIT (R39). -/
def enterDecisionWait (side : Side) (s : State) : State :=
  waitFor side .decision ((dropFlow side s).modBoom side fun b => { b with phase := .decisionWait, backOff := false })

/-- The boom takes the context and the move an assessment gave. -/
def moveOn (side : Side) (r : HoleCtx × NextMove) (s : State) : State :=
  let s := (dropFlow side s).modBoom side fun b => { b with ctx := some r.1, backOff := false }
  match r.2 with
  | .drill => enterDrilling side s
  | .steelChange => enterSteelChange side s
  | .retract => enterRetracting side s
  | .decide => enterDecisionWait side s

/-- The target depth is reached: ASSESSING, which takes no time (R33). -/
def assessBoom (side : Side) (s : State) : State :=
  match (s.boom side).ctx with
  | none => s
  | some c => moveOn side (assess s.classes assessFuel c) s

/-! ### Depth (R55 to R58) -/

/-- The reach of the bit at a feed position, once the base feed position is taken; negative where the feed is below its base by
more than the base depth (R55). -/
def Boom.reach (b : Boom) (mm : Nat) : Option Int :=
  match b.base with
  | some ⟨d, some f⟩ => some ((d : Int) + mm - f)
  | _ => none

/-- The bit is at the face: the reach is not less than the depth (R55). -/
def Boom.atFace (b : Boom) (mm : Nat) : Bool :=
  match b.reach mm, b.ctx with
  | some r, some c => c.depth ≤ r
  | _, _ => false

/-- The boom feeds (R56). -/
def feeds (side : Side) (s : State) : Bool :=
  let b := s.boom side
  (b.phase == .collaring || b.phase == .drilling) && b.port.view.moving && !b.backOff && b.atFace (s.feedPos side)

/-- What a depth rise leads to: DRILLING at the collar depth (R57); ASSESSING or STEEL_CHANGE in DRILLING (R58). -/
def afterRise (side : Side) (s : State) : State :=
  match (s.boom side).ctx with
  | none => s
  | some c =>
    match (s.boom side).phase with
    | .collaring =>
      if c.snap.collar ≤ c.depth then enterDrilling side (dropFlow side s) else s
    | .drilling =>
      if c.targetDepth ≤ c.depth then assessBoom side s
      else if c.steelCount * c.snap.steelLength ≤ c.depth then enterSteelChange side s
      else s
    | _ => s

/-- The depth becomes the reach (R55; no cap: log 15), and the increments passed complete, up to 3000 mm (R30). -/
def raiseDepth (side : Side) (depth : Nat) (s : State) : State :=
  s.modBoom side fun b =>
    match b.ctx with
    | none => b
    | some c =>
      let n := incrementsAt depth - c.incCount
      let c' := addIncrements (classify s (s.rotPressure side)) n b.phaseTime { c with depth := depth }
      if n = 0 then { b with ctx := some c' } else { b with ctx := some c', phaseTime := 0, progressTime := 0 }

/-- The feed position is judged against the depth; a depth rise is taken with its consequences (R55). -/
def judgeFeed (side : Side) (mm : Nat) (s : State) : State :=
  let b := s.boom side
  match b.phase, b.reach mm, b.ctx with
  | .collaring, some r, some c | .drilling, some r, some c =>
    if c.depth < r then afterRise side (raiseDepth side r.toNat s)
    else if r < c.depth then s.modBoom side fun b => { b with stallTime := 0 }
    else s
  | _, _, _ => s

/-- The grant of COLLARING or DRILLING is taken: the base feed position where it is not yet taken, then a depth rise where
the reach already exceeds the depth (R55, R99, log 18). -/
def feedBegins (side : Side) (s : State) : State :=
  let s := takeBaseFeed side s
  judgeFeed side (s.feedPos side) s

/-- A wait ends and the hole goes on. An entry to DRILLING that needs no grant stands in the grant's place, so a reach already
past the depth is a depth rise there: the model's choice (log 18). -/
def goOn (side : Side) (r : HoleCtx × NextMove) (s : State) : State :=
  let s := moveOn side r s
  if (s.boom side).phase = .drilling ∧ (s.boom side).port.view = .free then judgeFeed side (s.feedPos side) s else s

/-- COLLARING starts a hole: the cell becomes WORKING and the collar demand is requested (R17, R54). -/
def startHole (side : Side) (s : State) : State :=
  match (s.boom side).ctx with
  | none => s
  | some c =>
    let s := s.setCell c.pos { s.cell c.pos with state := .working }
    let s := s.modBoom side fun b =>
      { b with phase := .collaring, holds := .empty, base := some ⟨0, none⟩, phaseTime := 0 }
    let s := askFlow side .collar (s.boom side).snap.collarDemand s
    if (s.boom side).port.view = .free then takeBaseFeed side s else s

/-! ### Stalls (R59 to R61) -/

/-- The stall-pressure time has reached the stall time while the boom feeds in DRILLING (R59). -/
def pressureStallDue (side : Side) (s : State) : Bool :=
  let b := s.boom side
  b.phase == .drilling && b.ctx.isSome && feeds side s && b.snap.stallTime ≤ b.stallTime

/-- The progress time has reached 10.0 s while the boom feeds in DRILLING (R59). -/
def progressStallDue (side : Side) (s : State) : Bool :=
  let b := s.boom side
  b.phase == .drilling && b.ctx.isSome && feeds side s && progressLimit ≤ b.progressTime

/-- A stall is taken: the third aborts the hole, the others begin a back-off with the grant kept (R60). -/
def takeStall (side : Side) (s : State) : State :=
  let s := s.modBoom side fun b =>
    { b with progressTime := 0, stallTime := 0,
             ctx := b.ctx.map fun c => { c with stallCount := c.stallCount + 1 } }
  match (s.boom side).ctx with
  | none => s
  | some c =>
    if stallLimit ≤ c.stallCount then enterAborting side .abandoned (some .stall) s
    else s.modBoom side fun b => { b with backOff := true, backOffTime := 0 }

/-- The back-off time has reached 2.0 s (R61). -/
def backOffDue (side : Side) (s : State) : Bool :=
  let b := s.boom side
  b.phase == .drilling && b.backOff && b.port.view.moving && backOffLimit ≤ b.backOffTime

/-- The back-off ends and the feed returns upward (R61). -/
def endBackOff (side : Side) (s : State) : State :=
  s.modBoom side fun b => { b with backOff := false, progressTime := 0, stallTime := 0 }

/-! ### Retract times (R64, R90, R105) -/

/-- A retract part that holds its grant or needs none: in STEEL_CHANGE, RETRACTING, RELEASING or ABORTING. -/
def Boom.retractMoving (b : Boom) : Bool :=
  b.port.view.moving && b.ctx.isSome &&
    match b.phase with
    | .steelChange => b.waitReason.isNone
    | .retracting | .releasing | .aborting => true
    | _ => false

/-- The retract time of STEEL_CHANGE or RETRACTING has reached 30.0 s (R64). -/
def retractTimeoutDue (side : Side) (s : State) : Bool :=
  let b := s.boom side
  b.retractMoving && (b.phase == .steelChange || b.phase == .retracting) && retractLimit ≤ b.retractTime

/-- The retract time of RELEASING or ABORTING has reached 30.0 s (R112). -/
def secondFailureDue (side : Side) (s : State) : Bool :=
  let b := s.boom side
  b.retractMoving && (b.phase == .releasing || b.phase == .aborting) && retractLimit ≤ b.retractTime

/-! ### Steel added, decisions -/

/-- PROCEED in the wait part of STEEL_CHANGE (R63). -/
def addSteel (side : Side) (s : State) : State :=
  match (s.boom side).ctx with
  | none => s
  | some c =>
    let c' := { c with steelCount := c.steelCount + 1 }
    let s := s.modBoom side fun b =>
      { b with base := some ⟨c.steelCount * c.snap.steelLength, none⟩, waitReason := none }
    let s :=
      if s.reads1 (.boom side .deadman) then s
      else s.modBoom side fun b => { b with holds := { b.holds with deadman := true } }
    goOn side (drillEntry (assess s.classes assessFuel) c') s

/-- DECIDE (R40 to R42). -/
def reqDecide (boom choice stepHi stepLo cls : Byte) (s : State) : Answer :=
  match sideOf boom, choiceOf choice with
  | some side, some ch =>
    let step := fromTwo stepHi stepLo
    if (ch = .extend ∧ ¬ inRange 25 300 step) ∨ (ch = .substitute ∧ ¬ inRange 1 8 cls.toNat) then
      refuse .refusedRange s
    else
      match (s.boom side).phase, (s.boom side).ctx with
      | .decisionWait, some c =>
        let c' := { c with hostDecided := true }
        let s' := s.modBoom side fun b => { b with waitReason := none, ctx := some c' }
        match ch with
        | .proceed => accept [] (moveOn side ({ c' with acceptedWeak := true }, .retract) s')
        | .abandon => accept [] (enterAborting side .abandoned none s')
        | .extend =>
          let t := c.targetDepth + step
          if depthCapacity c.snap < t then refuse .refusedRange s
          else
            accept [] (goOn side (drillEntry (assess s.classes assessFuel) { c' with targetDepth := t }) s')
        | .substitute =>
          if c.substituted then refuse .refusedState s
          else
            match classAt s.classes cls.toNat with
            | none => refuse .refusedRange s
            | some rec =>
              accept []
                (goOn side (afterSubstitution (assess s.classes assessFuel) (substituteClass cls.toNat rec c')) s')
      | _, _ => refuse .refusedState s
  | _, _ => refuse .refusedRange s

end Sys2Proof.Machine
end

