-- ==== Sys2Proof/Machine/Resin.lean ====
section
/-! DEFINITION. The magazine, insertion, bolt loading, spin, hold and torque (R69 to R89). -/

namespace Sys2Proof.Machine

/-! ### Insertion (R72 to R77) -/

/-- Entry to BOLT_WAIT (R78). -/
def enterBoltWait (side : Side) (s : State) : State :=
  waitFor side .loadBolt (s.modBoom side fun b => { b with phase := .boltWait })

/-- Selection: the front cartridge is compared with the next required kind (R73). -/
def selectCartridge (side : Side) (s : State) : State :=
  match (s.boom side).ctx with
  | none => s
  | some c =>
    match c.required[c.nextIdx - 1]? with
    | none => enterBoltWait side s
    | some kind =>
      match (s.boom side).magazine with
      | [] => waitFor side .magEmpty s
      | front :: rest =>
        if front = kind then
          s.modBoom side fun b =>
            { b with magazine := rest, pushTime := 0, ctx := some { c with inFlight := some front } }
        else waitFor side .magMismatch s

/-- Entry to INSERTING (R66, R72). -/
def enterInserting (side : Side) (s : State) : State :=
  heldEntry side .inserting (selectCartridge side) (s.modBoom side fun b => { b with waitReason := none })

/-- A cartridge pass edge in the push part completes the push (R74). -/
def completePush (side : Side) (s : State) : State :=
  match (s.boom side).phase, (s.boom side).ctx with
  | .inserting, some c =>
    match c.inFlight with
    | some kind =>
      selectCartridge side (s.modCtx side fun c =>
        { c with inserted := c.inserted ++ [kind], inFlight := none, nextIdx := c.nextIdx + 1 })
    | none => s
  | _, _ => s

/-- The outcome of a hole given up before its spin: RESIN_LOST with a cartridge in the hole, else ABANDONED (R75,
R103). -/
def resinOutcome (c : HoleCtx) : HoleOutcome := if c.inserted.isEmpty then .abandoned else .resinLost

/-- The push time has reached 5.0 s in the push part (R75). -/
def jamDue (side : Side) (s : State) : Bool :=
  let b := s.boom side
  b.phase == .inserting && (b.ctx.bind fun c => c.inFlight).isSome && pushLimit ≤ b.pushTime

/-- A jam: the cartridge is lost; the third ends the hole (R75). -/
def takeJam (side : Side) (s : State) : State :=
  let s := s.modCtx side fun c => { c with inFlight := none, jamCount := c.jamCount + 1 }
  match (s.boom side).ctx with
  | none => s
  | some c =>
    if jamLimit ≤ c.jamCount then enterAborting side (resinOutcome c) (some .jamLimit) s else waitFor side .jam s

/-- INSERTING is resumed: a push restarts, a wait stays, or the first selection is taken (R77). -/
def resumeInserting (side : Side) (s : State) : State :=
  match (s.boom side).ctx with
  | none => s
  | some c =>
    if c.inFlight.isSome then s.modBoom side fun b => { b with pushTime := 0 }
    else if (s.boom side).waitReason.isSome then s
    else selectCartridge side s

/-- A MAGAZINE_LOAD (R70). -/
def reqMagazineLoad (boom purge count : Byte) (kinds : List Byte) (s : State) : Answer :=
  match sideOf boom, onOffOf purge with
  | some side, some purge =>
    let left := if purge then [] else (s.boom side).magazine
    match (kinds.take count.toNat).mapM cartOf with
    | some ks =>
      if magazineSize < count.toNat ∨ magazineSize < left.length + ks.length then refuse .refusedRange s
      else
        let m := left ++ ks
        accept (byteOf m.length :: kindBytes magazineSize m) (s.modBoom side fun b => { b with magazine := m })
    | none => refuse .refusedRange s
  | _, _ => refuse .refusedRange s

/-! ### Spin (R79 to R82) -/

/-- The temperature band of R43. -/
def tempBandOf (t : Int) : Fin 8 :=
  if t < -10 then 0 else if t < 0 then 1 else if t < 10 then 2 else if t < 20 then 3
  else if t < 30 then 4 else if t < 40 then 5 else if t < 50 then 6 else 7

/-- The resin times of a class at a scale of P percent (R80). -/
def resinTimes (c : ClassRec) (p : Nat) : ResinTimes :=
  ⟨c.spinTime, c.holdTime * p / 100, c.spinTime + (c.windowEnd - c.spinTime) * p / 100⟩

/-- The spin starts: band and resin times are latched, the gel clock starts; once per hole (R80). -/
def startSpin (side : Side) (s : State) : State :=
  s.modCtx side fun c =>
    match c.gel with
    | some _ => c
    | none =>
      let band := s.temperature.map tempBandOf
      let p := (band.map fun k => s.temps[k]).getD 100
      { c with tempBand := band.map fun k => k.val + 1, resin := some (resinTimes c.snap p), gel := some 0,
               spinElapsed := 0 }

/-- The spin demand is requested; with demand 0 the spin starts on entry (R79, R82). -/
def askSpin (side : Side) (s : State) : State :=
  let s := askFlow side .spin (s.boom side).snap.spinDemand s
  if (s.boom side).port.view = .free then startSpin side s else s

/-- Entry to SPINNING (R79). -/
def enterSpinning (side : Side) (s : State) : State :=
  heldEntry side .spinning (askSpin side) (s.modBoom side fun b => { b with waitReason := none })

/-- Spin elapsed has reached S while the boom spins (R81). -/
def spinEndDue (side : Side) (s : State) : Bool :=
  let b := s.boom side
  b.phase == .spinning && b.port.view.moving &&
    match b.ctx with
    | some c => c.gel.isSome && (c.resin.map fun r => decide (r.s ≤ c.spinElapsed)).getD false
    | none => false

/-- The spin ends: the hold end is recorded and HOLDING is entered (R81). -/
def endSpin (side : Side) (s : State) : State :=
  (dropFlow side s).modBoom side fun b =>
    { b with phase := .holding,
             holdEnd := b.ctx.bind fun c => c.gel.bind fun g => c.resin.map fun r => g + r.h }

/-! ### Torque (R85 to R88) -/

/-- The torque of a rotation pressure (R86). -/
def torqueOf (c : ClassRec) (bar : Nat) : Nat := bar * c.torqueFactor / 10

/-- The torque is computed while torquing is active; at the target the bolt is installed (R86). -/
def computeTorque (side : Side) (bar : Nat) (s : State) : State :=
  if (s.boom side).torquingActive then
    let s := s.modCtx side fun c => { c with torque := max c.torque (torqueOf c.snap bar) }
    match (s.boom side).ctx with
    | none => s
    | some c =>
      if c.snap.torqueTarget ≤ torqueOf c.snap bar then
        enterReleasing side (s.modCtx side fun c =>
          { c with outcome := some (if c.acceptedWeak then .installedMarked else .installed) })
      else s
  else s

/-- Torquing begins or resumes at its grant, or at the entry or resumption that needs none: the first records the tension start
offset (R85), and the torque is computed (R86). That it is computed without a grant too, and can install the bolt there, is the
model's choice (log 39). -/
def torqueBegins (side : Side) (s : State) : State :=
  let s := s.modCtx side fun c =>
    if c.tensionOffset.isNone then { c with tensionOffset := c.gel, turns := 0 } else c
  computeTorque side (s.rotPressure side) s

/-- The torque demand is requested; with demand 0 torquing begins on entry (R85, R88), where the model computes the torque (log 39).
A boom that resumes past its deadline is late first (R84, R88, log 24). -/
def askTorque (side : Side) (s : State) : State :=
  if (s.boom side).late then takeLate side s
  else
    let s := askFlow side .torque (s.boom side).snap.torqueDemand s
    if (s.boom side).port.view = .free then torqueBegins side s else s

/-- The gel clock has reached the hold end in HOLDING (R83). -/
def holdEndDue (side : Side) (s : State) : Bool :=
  let b := s.boom side
  b.phase == .holding &&
    match b.ctx, b.holdEnd with
    | some c, some e => (c.gel.map fun g => decide (e ≤ g)).getD false
    | _, _ => false

/-- Entry to TORQUING: the lateness test first, then the hold reasons, then the request (R85). -/
def enterTorquing (side : Side) (s : State) : State :=
  let s := s.modBoom side fun b => { b with phase := .torquing }
  if (s.boom side).late then takeLate side s else heldEntry side .torquing (askTorque side) s

/-- A rotation pulse while torquing is active; at the turn limit the bolt has spun through (R87). -/
def takePulse (side : Side) (s : State) : State :=
  if (s.boom side).torquingActive then
    let s := s.modCtx side fun c => { c with turns := c.turns + 1 }
    match (s.boom side).ctx with
    | none => s
    | some c =>
      if c.snap.turnLimit ≤ c.turns then
        enterReleasing side (s.modCtx side fun c => { c with outcome := some .spinThrough })
      else s
  else s

/-! ### Grants, take-backs and refusals at a boom (R47, R89, R117, R121) -/

/-- The motion begins or goes on at its grant. -/
def motionBegins (side : Side) (s : State) : State :=
  match (s.boom side).phase with
  | .collaring | .drilling => feedBegins side s
  | .steelChange | .retracting | .releasing | .aborting => retractBegins side s
  | .spinning => startSpin side s
  | .torquing => torqueBegins side s
  | _ => s

/-- A grant the boom still waits for is taken; one that comes past the tension deadline finds the boom late (R84, R117,
log 24). -/
def takeGrant (side : Side) (ticket : Nat) (s : State) : State :=
  if (s.boom side).port.view = .waiting ticket then
    if (s.boom side).late then takeLate side s
    else motionBegins side (s.modBoom side fun b => { b with port := { b.port with view := .held ticket } })
  else s

/-- The demand and motion a boom's state asks for (R47, R79, R85, R90, R104). -/
def Boom.motion (b : Boom) : Motion × Nat :=
  match b.phase with
  | .collaring => (.collar, b.snap.collarDemand)
  | .drilling => (.drill, b.snap.drillDemand)
  | .spinning => (.spin, b.snap.spinDemand)
  | .torquing => (.torque, b.snap.torqueDemand)
  | _ => (.retract, b.snap.retractDemand)

/-- A take-back of a grant or request the boom still has: outputs 0, timers stand still, and the same demand is requested
again (R121). -/
def takeTakeBack (side : Side) (ticket : Nat) (s : State) : State :=
  if (s.boom side).port.view = .held ticket ∨ (s.boom side).port.view = .waiting ticket then
    let s := s.modBoom side fun b => { b with port := { b.port with view := .none }, stallTime := 0 }
    let m := (s.boom side).motion
    lateCheck side (askFlow side m.1 m.2 s)
  else s

/-- A refusal of a request the boom still has, by phase (R47, R89, R112). -/
def takeRefusal (side : Side) (ticket : Nat) (s : State) : State :=
  if (s.boom side).port.view = .waiting ticket then
    let s := s.modBoom side fun b => { b with port := { b.port with view := .none } }
    match (s.boom side).phase with
    | .spinning | .torquing => enterAborting side .untensioned (some .flowExceedsBudget) s
    | .releasing | .aborting => secondFailure side .flowExceedsBudget s
    | _ => enterAborting side .abandoned (some .flowExceedsBudget) s
  else s

end Sys2Proof.Machine
end

