-- ==== Sys2Proof/Machine/Flow.lean ====
section
/-! DEFINITION. The flow arbiter: requests, the queue's tiers, grants, releases, the budget and the pump (R113 to R124). -/

namespace Sys2Proof.Machine

/-! ### The queue and the grant check -/

/-- The tier of a motion (R115). -/
def Motion.tier : Motion → Nat
  | .raise => 1
  | .torque => 2
  | .collar | .drill | .spin | .retract => 3

/-- The sum of the demands in the grant map (R113). -/
def grantTotal (grants : List FlowEntry) : Nat := (grants.map (·.demand)).sum

/-- A request joins the queue behind its own tier and those ahead, before those behind (R115). -/
def joinQueue (e : FlowEntry) (q : List FlowEntry) : List FlowEntry :=
  q.takeWhile (fun x => x.motion.tier ≤ e.motion.tier) ++ e :: q.dropWhile fun x => x.motion.tier ≤ e.motion.tier

/-- The entries at the head of the queue that fit one after another into a budget, and the rest of the queue (R116). -/
def grantHeads (budget : Nat) : Nat → List FlowEntry → List FlowEntry × List FlowEntry
  | _, [] => ([], [])
  | total, e :: q =>
    if total + e.demand ≤ budget then
      let (granted, rest) := grantHeads budget (total + e.demand) q
      (e :: granted, rest)
    else ([], e :: q)

/-- The grant check: heads that fit are granted and handed over, in order (R116). The grant map keeps its entries in the order
they were granted, which FLOW_READ reports: the model's choice (log 36). -/
def grantCheck (s : State) : State :=
  match s.arbiter.view with
  | .low => s
  | .ok =>
    let a := s.arbiter
    let (granted, rest) := grantHeads a.budget (grantTotal a.grants) a.queue
    granted.foldl (fun s e => handFlow e.consumer (.grant e.ticket) s)
      { s with arbiter := { a with grants := a.grants ++ granted, queue := rest } }

/-- A consumer's entry leaves the grant map and the queue, by its consumer and, for a release that comes later than a newer
request, by its ticket (R118, log 6). -/
def Arbiter.without (a : Arbiter) (gone : FlowEntry → Bool) : Arbiter :=
  { a with grants := a.grants.filter fun e => !gone e, queue := a.queue.filter fun e => !gone e }

/-- A release or a withdrawal is taken, followed by the grant check; where it finds no entry nothing changes (R118). -/
def takeRelease (gone : FlowEntry → Bool) (s : State) : State :=
  if s.arbiter.grants.any gone || s.arbiter.queue.any gone then
    grantCheck { s with arbiter := s.arbiter.without gone }
  else s

/-- A request is taken: an old entry of the consumer goes first, then the request is refused or joins the queue (R114,
R115). -/
def takeRequest (c : Consumer) (demand : Nat) (motion : Motion) (ticket : Nat) (s : State) : State :=
  let s := takeRelease (fun e => e.consumer == c) s
  if s.arbiter.budget < demand then handFlow c (.refusal ticket) s
  else
    let a := s.arbiter
    let e : FlowEntry := ⟨c, demand, motion, a.arrivals, ticket⟩
    grantCheck { s with arbiter := { a with queue := joinQueue e a.queue, arrivals := a.arrivals + 1 } }

/-- A message of the consumer is a request. -/
def ArbMsg.isRequest : ArbMsg → Bool
  | .request _ _ _ => true
  | .release _ => false

/-- FLOW_REQUEST_ARRIVAL: the consumer's oldest request on its way is taken; it may come before a release sent earlier
(R114, log 6). -/
def requestArrives (c : Consumer) (s : State) : State :=
  let p := s.port c
  match p.outbox.find? (·.isRequest) with
  | some (.request demand motion ticket) =>
    takeRequest c demand motion ticket
      (s.setPort c { p with outbox := p.outbox.erase (.request demand motion ticket) })
  | _ => s

/-- FLOW_RELEASE: the consumer's oldest message is taken if it is a release; a release never comes before a request sent
earlier (R118, log 6). -/
def releaseArrives (c : Consumer) (s : State) : State :=
  let p := s.port c
  match p.outbox with
  | .release ticket :: rest =>
    takeRelease (fun e => e.consumer == c && e.ticket == ticket) (s.setPort c { p with outbox := rest })
  | _ => s

/-! ### The pump view (R121 to R123) -/

/-- The fall of the pump view: every grant and request is taken back, in that order, and PUMP is set (R121). -/
def viewFalls (s : State) : State :=
  let a := s.arbiter
  let s := { s with arbiter := { a with view := .low, grants := [], queue := [] } }
  raiseFlag .pump none none 0
    ((a.grants ++ a.queue).foldl (fun s e => handFlow e.consumer (.takeBack e.ticket) s) s)

/-- The rise of the pump view and the grant check (R122). -/
def viewRises (s : State) : State := grantCheck { s with arbiter := { s.arbiter with view := .ok } }

/-- The arbiter's oldest pump OK edge leaves its list. -/
def popPump (s : State) : State := { s with arbiter := { s.arbiter with events := s.arbiter.events.tail } }

/-! ### Requests -/

/-- The refusals of a PUMP_SET, in queue order, and the queue without them (R120). -/
def refuseOver (budget : Nat) (s : State) : State :=
  let a := s.arbiter
  let tooBig (e : FlowEntry) : Bool := budget < e.demand
  let refused := a.queue.filter tooBig
  refused.foldl (fun s e => handFlow e.consumer (.refusal e.ticket) s)
    { s with arbiter := { a with
      budget := budget, queue := a.queue.filter fun e => !tooBig e
      refusing := if refused = [] then a.refusing else a.refusing ++ [refused.map fun e => (e.consumer, e.ticket)] } }

/-- A refusal's turn has come: no refusal of the same PUMP_SET from further ahead in the queue is still to be taken (R120).
Refusals of different PUMP_SETs, and those at arrival (R115), wait for no other (log 38). -/
def Arbiter.mayRefuse (a : Arbiter) (c : Consumer) (ticket : Nat) : Bool :=
  a.refusing.all fun l => l.head? == some (c, ticket) || !l.contains (c, ticket)

/-- A consumer takes a refusal: it leaves the consumer's list and, with it, its PUMP_SET's. -/
def popRefusal (c : Consumer) (ticket : Nat) (s : State) : State :=
  let s := popFlow c s
  { s with arbiter := { s.arbiter with
    refusing := (s.arbiter.refusing.map fun l => l.erase (c, ticket)).filter fun l => l ≠ [] } }

/-- PUMP_SET (R119, R120). A PUMP_SET of the budget already set changes nothing. After a lowered budget too the grant check is made on
the queue that remains, so that a request behind a refused head can be granted: the model's choice (log 40). -/
def reqPumpSet (budget : Byte) (s : State) : Answer :=
  let n := budget.toNat
  if 200 < n then refuse .refusedRange s
  else if n < grantTotal s.arbiter.grants then refuse .refusedState s
  else
    let s := if n = s.arbiter.budget then s else grantCheck (refuseOver n s)
    accept [byteOf s.arbiter.budget, byteOf (grantTotal s.arbiter.grants), byteOf s.arbiter.queue.length] s

/-- Three entries of a reply, unused ones 0. -/
def threeEntries (width : Nat) (es : List (List Byte)) : List Byte :=
  ((es ++ List.replicate 3 (List.replicate width 0)).take 3).flatten

/-- FLOW_READ (R124). The grants are listed in the order they were made: the model's choice (log 36). -/
def reqFlowRead (s : State) : Answer :=
  let a := s.arbiter
  accept
    ([byteOf a.budget, byteOf a.view.code, byteOf (grantTotal a.grants), byteOf a.grants.length] ++
     threeEntries 3 (a.grants.map fun e => [byteOf (consumerCode e.consumer), byteOf e.demand, byteOf e.motion.code]) ++
     [byteOf a.queue.length] ++
     threeEntries 4 (a.queue.map fun e =>
       [byteOf (consumerCode e.consumer), byteOf e.demand, byteOf e.motion.code, byteOf e.motion.tier])) s

/-! ### Meanings -/

/-- FLOW_REQUEST_ARRIVAL (R115). -/
def execFlowRequestArrival (c : Consumer) (s : State) : Host.Outcome State Fault Refusal :=
  .next (settle (requestArrives c s))

/-- FLOW_RELEASE (R118). -/
def execFlowRelease (c : Consumer) (s : State) : Host.Outcome State Fault Refusal :=
  .next (settle (releaseArrives c s))

/-- PUMP_FALL (R121): taken where the arbiter's next edge is a fall (log 4). -/
def execPumpFall (s : State) : Host.Outcome State Fault Refusal :=
  .next (if s.arbiter.events.head? = some false then settle (viewFalls (popPump s)) else s)

/-- PUMP_RISE (R122): taken where the arbiter's next edge is a rise (log 4). -/
def execPumpRise (s : State) : Host.Outcome State Fault Refusal :=
  .next (if s.arbiter.events.head? = some true then settle (viewRises (popPump s)) else s)

end Sys2Proof.Machine
end

