-- ==== Sys2Proof/Machine/Canopy.lean ====
section
/-! DEFINITION. The temporary roof support: adopting, raising, watching and lowering the canopy (R125 to R135). -/

namespace Sys2Proof.Machine

/-- Change the support controller. -/
def State.modCanopy (s : State) (f : Canopy → Canopy) : State := { s with canopy := f s.canopy }

/-- The canopy releases its grant or withdraws its request; both marks are clear (R128, R129). -/
def dropCanopyFlow (s : State) : State := s.modCanopy fun k => { k with port := k.port.drop }

/-- The canopy enters a state. Leaving SET hands a loss to both booms, entering it a regain (R134). -/
def canopyTo (st : CanopyState) (s : State) : State :=
  let was := s.canopy.state
  let s := s.modCanopy fun k => { k with state := st }
  if was = .set ∧ st ≠ .set then s.handBooms (.canopy false)
  else if was ≠ .set ∧ st = .set then s.handBooms (.canopy true)
  else s

/-- The canopy enters SET: flow released or withdrawn, loss-filter time 0 (R126, R128). -/
def canopyEntersSet (s : State) : State :=
  canopyTo .set ((dropCanopyFlow s).modCanopy fun k => { k with lossTime := 0 })

/-- A raise fails (R129). -/
def raiseFails (f : CanopyFailure) (s : State) : State :=
  raiseFlag .canopy none none 0
    (canopyTo .lowered ((dropCanopyFlow s).modCanopy fun k => { k with lastFailure := f }))

/-! ### The pressure line (R126, R128, R130, R132) -/

/-- The canopy pressure line reads a level: each state's timer restarts at the level that stops it, and an UNKNOWN canopy
is LOWERED at 0. -/
def takePressure (high : Bool) (s : State) : State :=
  match s.canopy.state, high with
  | .unknown, false => canopyTo .lowered (s.modCanopy fun k => { k with settleTime := 0 })
  | .raising, false => s.modCanopy fun k => { k with settleTime := 0 }
  | .set, true => s.modCanopy fun k => { k with lossTime := 0 }
  | .lowering, true => s.modCanopy fun k => { k with lowerTime := 0 }
  | _, _ => s

/-- The adoption starts or goes on: an UNKNOWN canopy with a bound line that reads 0 is LOWERED at once (R126). -/
def adopt (s : State) : State :=
  if s.canopy.state = .unknown ∧ s.bound .canopyPressure ∧ !s.reads1 .canopyPressure then takePressure false s else s

/-- The canopy pressure function is unbound: SET, LOST or LOWERED becomes UNKNOWN with settle time 0 (R126). In UNKNOWN too the
settle time becomes 0, so that a new binding starts the adoption anew: the model's choice (log 37). -/
def pressureUnbound (s : State) : State :=
  match s.canopy.state with
  | .set | .lost | .lowered => canopyTo .unknown (s.modCanopy fun k => { k with settleTime := 0 })
  | .unknown => s.modCanopy fun k => { k with settleTime := 0 }
  | _ => s

/-! ### Limits reached -/

/-- In UNKNOWN the settle time has reached 1.0 s (R126). -/
def adoptSetDue (s : State) : Bool :=
  s.canopy.state == .unknown && s.bound .canopyPressure && settleLimit ≤ s.canopy.settleTime

/-- In RAISING the settle time has reached 1.0 s (R128). -/
def canopySetDue (s : State) : Bool := s.canopy.state == .raising && settleLimit ≤ s.canopy.settleTime

/-- In RAISING the raise time has reached 15.0 s (R129). -/
def raiseTimeoutDue (s : State) : Bool := s.canopy.state == .raising && raiseLimit ≤ s.canopy.raiseTime

/-- In SET the loss-filter time has reached 0.5 s (R130). -/
def canopyLostDue (s : State) : Bool := s.canopy.state == .set && lossLimit ≤ s.canopy.lossTime

/-- In LOWERING the lower time has reached 3.0 s (R132). -/
def canopyLoweredDue (s : State) : Bool := s.canopy.state == .lowering && lowerLimit ≤ s.canopy.lowerTime

/-- The canopy enters LOST (R130, R135). -/
def canopyIsLost (s : State) : State :=
  raiseFlag .canopy none none 0 (canopyTo .lost (s.modCanopy fun k => { k with lastFailure := .loss }))

/-- The support controller takes the opening of the stop loop (R133). -/
def canopyStops (s : State) : State :=
  match s.canopy.state with
  | .raising => canopyTo .lowered (dropCanopyFlow s)
  | .lowering => canopyTo .lowered s
  | _ => s

/-! ### Hand-overs of the arbiter (R128, R129) -/

/-- The canopy takes its raise grant; outside RAISING, or for a request it no longer has, it is discarded. -/
def canopyGrant (ticket : Nat) (s : State) : State :=
  if s.canopy.state = .raising ∧ s.canopy.port.view = .waiting ticket then
    s.modCanopy fun k => { k with port := { k.port with view := .held ticket } }
  else s

/-- The canopy takes a take-back: the raise fails with PUMP_LOST. One of an earlier raise is discarded, the model's choice
(log 7). -/
def canopyTakenBack (ticket : Nat) (s : State) : State :=
  if s.canopy.state = .raising ∧ (s.canopy.port.view = .held ticket ∨ s.canopy.port.view = .waiting ticket) then
    raiseFails .pumpLost (s.modCanopy fun k => { k with port := { k.port with view := .none } })
  else s

/-- The canopy takes a refusal: the raise fails with FLOW_REFUSED. One of an earlier raise is discarded, the model's choice
(log 7). -/
def canopyRefused (ticket : Nat) (s : State) : State :=
  if s.canopy.state = .raising ∧ s.canopy.port.view = .waiting ticket then
    raiseFails .flowRefused (s.modCanopy fun k => { k with port := { k.port with view := .none } })
  else s

/-! ### Requests -/

/-- CANOPY_RAISE (R127). -/
def reqCanopyRaise (demand : Byte) (s : State) : Answer :=
  let n := demand.toNat
  if !inRange 1 200 n then refuse .refusedRange s
  else if !(s.bound .canopyUp && s.bound .canopyPressure && s.bound .stopLoop && s.bound .pumpOk) then
    refuse .refusedUnbound s
  else if s.canopy.state ≠ .lowered ∧ s.canopy.state ≠ .lost then refuse .refusedState s
  else if s.loopOpen then refuse .refusedState s
  else
    let s := s.modCanopy fun k =>
      { k with raiseDemand := some n, settleTime := 0, raiseTime := 0, port := k.port.ask n .raise s.ticket }
    accept [byteOf CanopyState.raising.code] (canopyTo .raising { s with ticket := s.ticket + 1 })

/-- A cell of the pattern is WORKING (R131). -/
def State.anyWorking (s : State) : Bool := s.cells.toList.any fun c => c.state == .working

/-- CANOPY_LOWER (R131). -/
def reqCanopyLower (s : State) : Answer :=
  if !(s.bound .canopyDown && s.bound .canopyPressure) then refuse .refusedUnbound s
  else
    match s.canopy.state with
    | .unknown | .lowered | .lowering => refuse .refusedState s
    | .raising | .set | .lost =>
      if s.anyWorking || s.loopOpen then refuse .refusedState s
      else
        accept [byteOf CanopyState.lowering.code]
          (canopyTo .lowering ((dropCanopyFlow s).modCanopy fun k => { k with lowerTime := 0 }))

/-! ### Meanings -/

/-- The support controller's next event of a kind leaves its list. -/
def takeCanopyEvent (e : CanopyEvent) (s : State) : State :=
  s.modCanopy fun k => { k with events := k.events.erase e }

/-- The first pressure level handed to the support controller and not yet taken. -/
def nextPressure (s : State) : Option Bool :=
  s.canopy.events.findSome? fun e =>
    match e with
    | .pressure high => some high
    | .stopLoop => none

/-- CANOPY_STOP_LOOP_OPEN (R133). -/
def execCanopyStopLoopOpen (s : State) : Host.Outcome State Fault Refusal :=
  .next (if s.canopy.events.contains .stopLoop then settle (canopyStops (takeCanopyEvent .stopLoop s)) else s)

/-- CANOPY_PRESSURE_CHANGE (R126, R128, R130, R132). -/
def execCanopyPressureChange (s : State) : Host.Outcome State Fault Refusal :=
  .next
    (match nextPressure s with
     | some high => settle (takePressure high (takeCanopyEvent (.pressure high) s))
     | none => s)

/-- CANOPY_ADOPT_SET (R126): taken where the settle time has reached its limit. -/
def execCanopyAdoptSet (s : State) : Host.Outcome State Fault Refusal :=
  .next (if adoptSetDue s then settle (canopyEntersSet s) else s)

/-- CANOPY_SET (R128). -/
def execCanopySet (s : State) : Host.Outcome State Fault Refusal :=
  .next (if canopySetDue s then settle (canopyEntersSet s) else s)

/-- RAISE_TIMEOUT (R129). -/
def execRaiseTimeout (s : State) : Host.Outcome State Fault Refusal :=
  .next (if raiseTimeoutDue s then settle (raiseFails .raiseTimeout s) else s)

/-- CANOPY_GRANT_TAKEN (R128). -/
def execCanopyGrantTaken (s : State) : Host.Outcome State Fault Refusal :=
  .next
    (match s.canopy.port.inbox with
     | .grant t :: _ => settle (canopyGrant t (popFlow .canopy s))
     | _ => s)

/-- CANOPY_TAKE_BACK (R129). -/
def execCanopyTakeBack (s : State) : Host.Outcome State Fault Refusal :=
  .next
    (match s.canopy.port.inbox with
     | .takeBack t :: _ => settle (canopyTakenBack t (popFlow .canopy s))
     | _ => s)

/-- CANOPY_FLOW_REFUSAL (R129): taken where its turn has come (R120). -/
def execCanopyFlowRefusal (s : State) : Host.Outcome State Fault Refusal :=
  .next
    (match s.canopy.port.inbox with
     | .refusal t :: _ => if s.arbiter.mayRefuse .canopy t then settle (canopyRefused t (popRefusal .canopy t s)) else s
     | _ => s)

/-- CANOPY_LOST (R130). -/
def execCanopyLost (s : State) : Host.Outcome State Fault Refusal :=
  .next (if canopyLostDue s then settle (canopyIsLost s) else s)

/-- CANOPY_LOWERED (R132). -/
def execCanopyLowered (s : State) : Host.Outcome State Fault Refusal :=
  .next (if canopyLoweredDue s then settle (canopyTo .lowered s) else s)

end Sys2Proof.Machine
end

