-- ==== Sys2Proof/Machine/Booms.lean ====
section
/-! DEFINITION. The boom sequencers: the host's requests on a boom and the events a boom takes (R48 to R54, R66 to R68,
R93 to R112, R117, R121, R134). -/

namespace Sys2Proof.Machine

/-! ### Requests -/

/-- The boom's state and the cell it holds, for the replies to BOOM_START and PROCEED (section 10.6). -/
def holdsReply (side : Side) (s : State) : List Byte :=
  byteOf (s.boom side).phase.code :: posBytes ((s.boom side).ctx.map fun c => c.pos)

/-- The functions a boom needs bound at BOOM_START (R48). -/
def requiredFns : List BoomFn :=
  [.feedUp, .feedDown, .rotation, .loader, .feedPosition, .rotationPressure, .deadman, .cartridgePass, .rotationPulse,
   .feedHome]

/-- BOOM_START (R48, R49). -/
def reqBoomStart (boom : Byte) (s : State) : Answer :=
  match sideOf boom with
  | none => refuse .refusedRange s
  | some side =>
    if (s.boom side).phase ≠ .idle ∧ (s.boom side).phase ≠ .stopped then refuse .refusedState s
    else if s.pattern.isNone then refuse .refusedState s
    else if !(s.bound .stopLoop && s.bound .pumpOk && requiredFns.all fun f => s.bound (.boom side f)) then
      refuse .refusedUnbound s
    else if s.loopOpen then refuse .refusedState s
    else
      let s := seek side (s.modBoom side fun b => { b with started := true, stopPending := false, holds := .empty })
      accept (holdsReply side s) s

/-- BOOM_STOP (R50). -/
def reqBoomStop (boom : Byte) (s : State) : Answer :=
  match sideOf boom with
  | none => refuse .refusedRange s
  | some side =>
    match (s.boom side).phase with
    | .idle => accept [] s
    | .seekWait | .halted | .stopped => accept [] (enterIdle side s)
    | .positioning => accept [] (enterIdle side (releaseClaim side s))
    | .collaring | .drilling | .steelChange | .assessing | .decisionWait | .retracting | .holeOpen | .inserting
    | .boltWait | .spinning | .holding | .torquing | .releasing | .suspended | .aborting =>
      accept [] (s.modBoom side fun b => { b with stopPending := true })

/-- The reply to BOOM_READ (section 10.6). -/
def boomBytes (side : Side) (b : Boom) : List Byte :=
  [byteOf b.phase.code, byteOf ((b.suspendedPhase.map Phase.code).getD 0),
   bitsByte [b.started, b.stopPending, b.port.view.isWaiting, b.backOff, b.ctx.isSome],
   byteOf ((b.waitReason.map WaitReason.code).getD 0)] ++ posBytes b.cursor ++
  [b.holds.byte, byteOf b.magazine.length] ++ kindBytes magazineSize b.magazine ++
  match b.ctx with
  | none => []
  | some c =>
    let feed := b.base.bind fun x => x.feed
    twoBytes ((b.base.map (·.depth)).getD 0) ++ twoBytes (feed.getD 0) ++
    [bitsByte [feed.isSome, b.holdEnd.isSome, c.inFlight.isSome]] ++ twoBytes (b.holdEnd.getD 0) ++
    twoBytes c.spinElapsed ++ [byteOf ((c.inFlight.map CartKind.code).getD 0)] ++ holeBytes side c.toHoleData

/-- BOOM_READ (R68). -/
def reqBoomRead (boom : Byte) (s : State) : Answer :=
  match sideOf boom with
  | none => refuse .refusedRange s
  | some side => accept (boomBytes side (s.boom side)) s

/-- At-hole confirmed becomes yes in POSITIONING (R52, R53). -/
def confirmAtHole (side : Side) (s : State) : State :=
  if (s.boom side).phase = .positioning then s.modCtx side fun c => { c with atHole := true } else s

/-- AT_HOLE (R53). -/
def reqAtHole (boom : Byte) (s : State) : Answer :=
  match sideOf boom with
  | none => refuse .refusedRange s
  | some side =>
    if (s.boom side).phase = .positioning then accept [] (confirmAtHole side s) else refuse .refusedState s

/-- PROCEED takes a boom past its wait, or makes a seek from HALTED; none where it is refused (R67). -/
def proceedFrom (side : Side) (s : State) : Option State :=
  let b := s.boom side
  match b.phase with
  | .steelChange => if b.waitReason = some .addSteel then some (addSteel side s) else none
  | .holeOpen => some (enterInserting side s)
  | .inserting =>
    if b.waitReason.isSome then
      some (selectCartridge side (s.modBoom side fun b => { b with waitReason := none }))
    else none
  | .boltWait => some (enterSpinning side s)
  | .halted => some (seek side s)
  | _ => none

/-- PROCEED (R63, R66, R67, R76, R78, R108). -/
def reqProceed (boom : Byte) (s : State) : Answer :=
  match sideOf boom with
  | none => refuse .refusedRange s
  | some side =>
    match proceedFrom side s with
    | some s' => accept (holdsReply side s') s'
    | none => refuse .refusedState s

/-- HOLD (R101). -/
def reqHold (boom : Byte) (s : State) : Answer :=
  match sideOf boom with
  | none => refuse .refusedRange s
  | some side =>
    if (s.boom side).recordsHolds then accept [] (addHold side (fun h => { h with host := true }) s)
    else refuse .refusedState s

/-- RESUME (R102). -/
def reqResume (boom : Byte) (s : State) : Answer :=
  match sideOf boom with
  | none => refuse .refusedRange s
  | some side =>
    if (s.boom side).recordsHolds then accept [] (removeHold side (fun h => { h with host := false }) s)
    else refuse .refusedState s

/-- The state an ABORT acts by: for a SUSPENDED boom its suspended phase (R103). -/
def Boom.abortPhase (b : Boom) : Phase :=
  match b.phase with
  | .suspended => b.suspendedPhase.getD .suspended
  | p => p

/-- ABORT (R103). -/
def reqAbort (boom : Byte) (s : State) : Answer :=
  match sideOf boom with
  | none => refuse .refusedRange s
  | some side =>
    match (s.boom side).abortPhase, (s.boom side).ctx with
    | .positioning, some c => accept [] (enterHalted side (some c.pos) 0 (releaseClaim side s))
    | .collaring, some _ | .drilling, some _ | .steelChange, some _ | .decisionWait, some _ | .retracting, some _
    | .holeOpen, some _ => accept [] (enterAborting side .abandoned none s)
    | .inserting, some c | .boltWait, some c => accept [] (enterAborting side (resinOutcome c) none s)
    | .spinning, some _ | .holding, some _ | .torquing, some _ => accept [] (enterAborting side .untensioned none s)
    | .releasing, _ => refuse .refusedLate s
    | _, _ => refuse .refusedState s

/-! ### Events at a boom -/

/-- An event that waits at a boom, the first of its class, is taken; otherwise nothing has happened (log 4, log 5). -/
def onEvent (side : Side) (e : BoomEvent) (effect : State → State) (s : State) : State :=
  if (s.boom side).hasNext e then settle (effect (s.takeEvent side e)) else s

/-- The conditions on which a deadman press starts the hole (R54). -/
def canStart (side : Side) (s : State) : Bool :=
  let b := s.boom side
  (b.ctx.map fun c => c.atHole).getD false && s.canopy.state == .set && s.reads1 .pumpOk && b.holds.onlyDeadman

/-- A SUSPENDED boom goes on in its suspended phase (R99). -/
def resumeBoom (side : Side) (s : State) : State :=
  match (s.boom side).suspendedPhase with
  | none => s
  | some ph =>
    let s := s.modBoom side fun b => { b with phase := ph, suspendedPhase := none }
    match ph with
    | .collaring | .drilling =>
      let m := (s.boom side).motion
      let s := askFlow side m.1 m.2 s
      if (s.boom side).port.view = .free then feedBegins side s else s
    | .steelChange | .retracting => askRetract side s
    | .inserting => resumeInserting side s
    | .spinning => askSpin side s
    | .torquing => askTorque side s
    | _ => s

/-- A rising deadman edge (R54, R95, R99). -/
def pressDeadman (side : Side) (s : State) : State :=
  let b := s.boom side
  let removed := removeHold side (fun h => { h with deadman := false }) s
  match b.phase with
  | .positioning => if canStart side s then startHole side s else removed
  | .suspended => if b.holds.onlyDeadman then resumeBoom side removed else removed
  | _ => removed

/-- The opening of the stop loop at a boom (R109, R110). -/
def boomStops (side : Side) (s : State) : State :=
  let b := s.boom side
  match b.phase with
  | .idle | .stopped => s
  | .seekWait | .halted => raiseFlag (.halt side) (some side) none 0 (enterStopped side s)
  | .positioning =>
    raiseFlag (.halt side) (some side) (b.ctx.map fun c => c.pos) 0 (enterStopped side (releaseClaim side s))
  | .collaring | .drilling | .steelChange | .assessing | .decisionWait | .retracting | .holeOpen | .inserting
  | .boltWait | .spinning | .holding | .torquing | .releasing | .suspended | .aborting => stopHole side .stopped s

/-- A rotation pressure handed on: below the stall pressure it zeroes the stall-pressure time (R59); while torquing is
active the torque is computed (R86). -/
def takePressureChange (side : Side) (bar : Nat) (s : State) : State :=
  let s :=
    if bar < (s.boom side).snap.stallPressure then s.modBoom side fun b => { b with stallTime := 0 } else s
  computeTorque side bar s

/-- A rising feed home edge completes a retraction that holds its grant or needs none (R62, R90, log 17), and the retraction of
ABORTING also while it awaits its flow (R64, R105). -/
def takeFeedHome (side : Side) (s : State) : State :=
  if (s.boom side).retractMoving ∨ (s.boom side).phase = .aborting then retractDone side s else s

/-- A bolt-present edge in BOLT_WAIT (R78). -/
def takeBoltPresent (side : Side) (s : State) : State :=
  if (s.boom side).phase = .boltWait then enterSpinning side s else s

/-! ### Meanings -/

/-- BOOM_STOP_LOOP_OPEN (R109, R110). -/
def execBoomStopLoopOpen (side : Side) (s : State) : Host.Outcome State Fault Refusal :=
  .next (onEvent side .stopLoop (boomStops side) s)

/-- DEADMAN_PRESS (R54, R95, R99). -/
def execDeadmanPress (side : Side) (s : State) : Host.Outcome State Fault Refusal :=
  .next (onEvent side (.deadman true) (pressDeadman side) s)

/-- DEADMAN_RELEASE (R94). -/
def execDeadmanRelease (side : Side) (s : State) : Host.Outcome State Fault Refusal :=
  .next (onEvent side (.deadman false) (addHold side fun h => { h with deadman := true }) s)

/-- AT_HOLE_RISE (R52). -/
def execAtHoleRise (side : Side) (s : State) : Host.Outcome State Fault Refusal :=
  .next (onEvent side .atHole (confirmAtHole side) s)

/-- FEED_POSITION_CHANGE (R55). -/
def execFeedPositionChange (side : Side) (s : State) : Host.Outcome State Fault Refusal :=
  .next
    (match (s.boom side).firstOf (BoomEvent.feedPosition 0).cls with
     | some (.feedPosition mm) => onEvent side (.feedPosition mm) (judgeFeed side mm) s
     | _ => s)

/-- ROTATION_PRESSURE_CHANGE (R59, R86). -/
def execRotationPressureChange (side : Side) (s : State) : Host.Outcome State Fault Refusal :=
  .next
    (match (s.boom side).firstOf (BoomEvent.rotationPressure 0).cls with
     | some (.rotationPressure bar) => onEvent side (.rotationPressure bar) (takePressureChange side bar) s
     | _ => s)

/-- PRESSURE_STALL (R59, R60): taken where the stall-pressure time has reached the stall time. -/
def execPressureStall (side : Side) (s : State) : Host.Outcome State Fault Refusal :=
  .next (if pressureStallDue side s then settle (takeStall side s) else s)

/-- PROGRESS_STALL (R59, R60): taken where the progress time has reached 10.0 s. -/
def execProgressStall (side : Side) (s : State) : Host.Outcome State Fault Refusal :=
  .next (if progressStallDue side s then settle (takeStall side s) else s)

/-- BACK_OFF_END (R61). -/
def execBackOffEnd (side : Side) (s : State) : Host.Outcome State Fault Refusal :=
  .next (if backOffDue side s then settle (endBackOff side s) else s)

/-- FEED_HOME_RISE (R62, R65, R91, R106). -/
def execFeedHomeRise (side : Side) (s : State) : Host.Outcome State Fault Refusal :=
  .next (onEvent side .feedHome (takeFeedHome side) s)

/-- RETRACT_TIMEOUT (R64). -/
def execRetractTimeout (side : Side) (s : State) : Host.Outcome State Fault Refusal :=
  .next
    (if retractTimeoutDue side s then settle (enterAborting side .abandoned (some .retractTimeout) s) else s)

/-- SECOND_FAILURE_TIMEOUT (R112). -/
def execSecondFailureTimeout (side : Side) (s : State) : Host.Outcome State Fault Refusal :=
  .next (if secondFailureDue side s then settle (secondFailure side .retractTimeout s) else s)

/-- CARTRIDGE_PASS (R74). -/
def execCartridgePass (side : Side) (s : State) : Host.Outcome State Fault Refusal :=
  .next (onEvent side .cartridgePass (completePush side) s)

/-- JAM (R75). -/
def execJam (side : Side) (s : State) : Host.Outcome State Fault Refusal :=
  .next (if jamDue side s then settle (takeJam side s) else s)

/-- BOLT_PRESENT_RISE (R78). -/
def execBoltPresentRise (side : Side) (s : State) : Host.Outcome State Fault Refusal :=
  .next (onEvent side .boltPresent (takeBoltPresent side) s)

/-- SPIN_END (R81). -/
def execSpinEnd (side : Side) (s : State) : Host.Outcome State Fault Refusal :=
  .next (if spinEndDue side s then settle (endSpin side s) else s)

/-- HOLD_END (R83, R85). -/
def execHoldEnd (side : Side) (s : State) : Host.Outcome State Fault Refusal :=
  .next (if holdEndDue side s then settle (enterTorquing side s) else s)

/-- TENSION_LATE (R84). -/
def execTensionLate (side : Side) (s : State) : Host.Outcome State Fault Refusal :=
  .next (if (s.boom side).late then settle (takeLate side s) else s)

/-- ROTATION_PULSE (R87). -/
def execRotationPulse (side : Side) (s : State) : Host.Outcome State Fault Refusal :=
  .next (onEvent side .rotationPulse (takePulse side) s)

/-- RE_SEEK (R15): taken by a boom in SEEK_WAIT that is due a seek. -/
def execReSeek (side : Side) (s : State) : Host.Outcome State Fault Refusal :=
  .next (if (s.boom side).phase = .seekWait ∧ (s.boom side).reseekDue then settle (seek side s) else s)

/-- BOOM_GRANT_TAKEN (R117). -/
def execBoomGrantTaken (side : Side) (s : State) : Host.Outcome State Fault Refusal :=
  .next
    (match (s.boom side).port.inbox with
     | .grant t :: _ => settle (takeGrant side t (popFlow (.boom side) s))
     | _ => s)

/-- BOOM_TAKE_BACK (R121). -/
def execBoomTakeBack (side : Side) (s : State) : Host.Outcome State Fault Refusal :=
  .next
    (match (s.boom side).port.inbox with
     | .takeBack t :: _ => settle (takeTakeBack side t (popFlow (.boom side) s))
     | _ => s)

/-- BOOM_FLOW_REFUSAL (R47, R89, R112): taken where its turn has come (R120). -/
def execBoomFlowRefusal (side : Side) (s : State) : Host.Outcome State Fault Refusal :=
  .next
    (match (s.boom side).port.inbox with
     | .refusal t :: _ =>
       if s.arbiter.mayRefuse (.boom side) t then settle (takeRefusal side t (popRefusal (.boom side) t s)) else s
     | _ => s)

/-- BOOM_PUMP_FALL (R94). -/
def execBoomPumpFall (side : Side) (s : State) : Host.Outcome State Fault Refusal :=
  .next (onEvent side (.pump false) (addHold side fun h => { h with pump := true }) s)

/-- BOOM_PUMP_RISE (R95). -/
def execBoomPumpRise (side : Side) (s : State) : Host.Outcome State Fault Refusal :=
  .next (onEvent side (.pump true) (removeHold side fun h => { h with pump := false }) s)

/-- CANOPY_LOSS_AT_BOOM (R94, R134). -/
def execCanopyLossAtBoom (side : Side) (s : State) : Host.Outcome State Fault Refusal :=
  .next (onEvent side (.canopy false) (addHold side fun h => { h with canopy := true }) s)

/-- CANOPY_REGAIN_AT_BOOM (R95, R134). -/
def execCanopyRegainAtBoom (side : Side) (s : State) : Host.Outcome State Fault Refusal :=
  .next (onEvent side (.canopy true) (removeHold side fun h => { h with canopy := false }) s)

end Sys2Proof.Machine
end

