-- ==== Sys2Proof/Machine/Kinds.lean ====
section
/-! DEFINITION. The request kinds and the body lengths each allows (section 10.6, R164). -/

namespace Sys2Proof.Machine

/-- The longest body a frame carries: N is at most 252 and counts kind and tag (R161). -/
def maxBody : Nat := 250

/-- The body lengths a kind allows, or none where the kind names no request. STRATA_WRITE's two lengths are tied to its
form byte by `lengthAllowed`. -/
def bodyLengths (kind : Nat) : Option (List Nat) :=
  match kind with
  | 0x01 => some [0] | 0x02 => some [2] | 0x03 => some [3] | 0x04 => some [0]
  | 0x08 => some [5] | 0x09 => some [6] | 0x0A => some [0] | 0x0B => some [2]
  | 0x10 => some [45] | 0x11 => some [1] | 0x12 => some [18, 3] | 0x13 => some [1] | 0x14 => some [16]
  | 0x18 => some [11] | 0x19 => some [5] | 0x1A => some [2] | 0x1B => some [0]
  | 0x20 => some [1] | 0x21 => some [1] | 0x22 => some [1] | 0x23 => some [1] | 0x24 => some [1]
  | 0x25 => some [5] | 0x26 => some [1] | 0x27 => some [1] | 0x28 => some [1] | 0x29 => some [3]
  | 0x2A => some [9] | 0x30 => some [1] | 0x31 => some [0] | 0x34 => some [1] | 0x35 => some [0]
  | 0x38 => some [1] | 0x39 => some [3]
  | _ => none

/-- A kind that names a request. -/
def kindNamed (kind : Byte) : Bool := (bodyLengths kind.toNat).isSome

/-- A body whose length its kind allows; a STRATA_WRITE of 3 bytes in row form or of 18 bytes in step form is not
(section 10.6). -/
def lengthAllowed (kind : Byte) (body : List Byte) : Bool :=
  match bodyLengths kind.toNat with
  | none => false
  | some ls =>
    ls.contains body.length &&
      !(kind == 0x12 && ((body.length == 3 && body.head? == some 1) || (body.length == 18 && body.head? == some 2)))

end Sys2Proof.Machine
end

