-- ==== Sys2Proof/Machine/Link.lean ====
section
/-! DEFINITION. The class store, line binding, record and service requests; the receiver, the receive queue, the taking of
requests, the uplink, RESTART and power-on (R22 to R29, R43 to R45, R144, R145, R150, R157, R158, R160 to R174). -/

namespace Sys2Proof.Machine

/-! ### Class store requests -/

/-- CLASS_WRITE (R23, R24). -/
def reqClassWrite (index : Byte) (record : List Byte) (s : State) : Answer :=
  match classIdxOf index, parseClass record with
  | some i, some c =>
    if c.valid index.toNat then accept [] { s with classes := s.classes.set i (some c) } else refuse .refusedRange s
  | _, _ => refuse .refusedRange s

/-- CLASS_READ (R25). -/
def reqClassRead (index : Byte) (s : State) : Answer :=
  match classIdxOf index with
  | none => refuse .refusedRange s
  | some i =>
    let r := s.classes[i]
    accept ([index, boolByte r.isSome] ++ (r.map classBytes).getD (List.replicate 44 0)) s

/-- A rate band 0 to 15. -/
def bandIdx (b : Byte) : Option (Fin 16) := if h : b.toNat < 16 then some ⟨b.toNat, h⟩ else none

/-- Sixteen class codes as a row of the table (R28). -/
def strataRow (codes : List Byte) : Option (Vector StrataClass 16) :=
  match codes.mapM strataOf with
  | some cs => if h : cs.length = 16 then some ⟨cs.toArray, by simp [h]⟩ else none
  | none => none

/-- STRATA_WRITE (R28). -/
def reqStrataWrite (form : Byte) (rest : List Byte) (s : State) : Answer :=
  match form.toNat, rest with
  | 1, band :: codes =>
    match bandIdx band, strataRow codes with
    | some i, some row => accept [] { s with strata := s.strata.set i row }
    | _, _ => refuse .refusedRange s
  | 2, [rate, pressure] =>
    if inRange 1 50 rate.toNat && inRange 1 30 pressure.toNat then
      accept [] { s with rateStep := rate.toNat, pressureStep := pressure.toNat }
    else refuse .refusedRange s
  | _, _ => refuse .refusedRange s

/-- STRATA_READ (R29). -/
def reqStrataRead (band : Byte) (s : State) : Answer :=
  match bandIdx band with
  | none => refuse .refusedRange s
  | some i =>
    accept (band :: (s.strata[i]).toList.map (fun c => byteOf c.code) ++ [byteOf s.rateStep, byteOf s.pressureStep]) s

/-- Two-byte fields of a body, in order. -/
def wordsOf : List Byte → List Nat
  | hi :: lo :: rest => fromTwo hi lo :: wordsOf rest
  | _ => []

/-- TEMP_WRITE (R44). -/
def reqTempWrite (body : List Byte) (s : State) : Answer :=
  let scales := wordsOf body
  if h : scales.length = 8 then
    if scales.all (inRange 50 300) then accept [] { s with temps := ⟨scales.toArray, by simp [h]⟩ }
    else refuse .refusedRange s
  else refuse .refusedRange s

/-! ### Record requests -/

/-- The code of a slot state (R151): EMPTY 1, HELD 2, FETCHED 3. -/
def slotCode : Option Slot → Nat
  | none => 1
  | some ⟨false, _⟩ => 2
  | some ⟨true, _⟩ => 3

/-- RECORD_FETCH (R157). -/
def reqRecordFetch (boom : Byte) (s : State) : Answer :=
  match sideOf boom with
  | none => refuse .refusedRange s
  | some side =>
    match s.slot side with
    | none => refuse .refusedState s
    | some x =>
      accept (byteOf (slotCode (some x)) :: holeBytes x.record.boom x.record.data)
        (s.setSlot side (some { x with fetched := true }))

/-- RECORD_RELEASE (R158). -/
def reqRecordRelease (boom col row : Byte) (s : State) : Answer :=
  match sideOf boom, posOf col.toNat row.toNat with
  | some side, some q =>
    match s.slot side with
    | none => refuse .refusedState s
    | some x => if x.record.data.pos = q then accept [] (s.setSlot side none) else refuse .refusedStale s
  | _, _ => refuse .refusedRange s

/-! ### LINE_BIND (R144, R145) -/

/-- The class of the events a boom input function hands over, if any. -/
def BoomFn.eventClass : BoomFn → Option Nat
  | .deadman => some (BoomEvent.deadman true).cls
  | .atHole => some BoomEvent.atHole.cls
  | .cartridgePass => some BoomEvent.cartridgePass.cls
  | .boltPresent => some BoomEvent.boltPresent.cls
  | .rotationPulse => some BoomEvent.rotationPulse.cls
  | .feedHome => some BoomEvent.feedHome.cls
  | .feedPosition => some (BoomEvent.feedPosition 0).cls
  | .rotationPressure => some (BoomEvent.rotationPressure 0).cls
  | .feedUp | .feedDown | .rotation | .loader => none

/-- The boom's untaken events of a class are dropped. -/
def State.dropEvents (s : State) (side : Side) (cls : Nat) : State :=
  s.modBoom side fun b => { b with events := b.events.filter fun e => e.cls != cls }

/-- An unbound line's changes no longer reach the former owner: those still on their way are dropped (R145, log 22). -/
def dropOnWay (fn : Fn) (s : State) : State :=
  match fn with
  | .boom side f =>
    match f.eventClass with
    | some k => s.dropEvents side k
    | none => s
  | .canopyPressure => s.modCanopy fun k => { k with events := k.events.filter fun e => e == .stopLoop }
  | .pumpOk =>
    let k := (BoomEvent.pump true).cls
    ({ s with arbiter := { s.arbiter with events := [] } }.dropEvents .a k).dropEvents .b k
  | _ => s

/-- What a new binding brings about beside the line (R145). -/
def bindEffect (fn : Fn) (s : State) : State :=
  match fn with
  | .canopyPressure => adopt s
  | .pumpOk => if s.reads1 .pumpOk then viewRises s else s
  | .stopLoop => if s.reads1 .stopLoop then s else openStopLoop s
  | _ => s

/-- What an unbinding brings about beside the line (R145). -/
def unbindEffect (fn : Fn) (s : State) : State :=
  match fn with
  | .canopyPressure => pressureUnbound s
  | .pumpOk => if s.arbiter.view = .ok then viewFalls s else s
  | .stopLoop => { s with holding := false }
  | _ => s

/-- LINE_BIND with the choice none (R144, R145). -/
def unbindLine (i : Fin 32) (s : State) : Answer :=
  let l := s.lines[i]
  match l.binding with
  | none => accept [] s
  | some b =>
    if !unbindAllowed s b.fn then refuse .refusedState s
    else
      let s := { s with lines := s.lines.set i { l with binding := none, outValue := 0 } }
      accept [] (unbindEffect b.fn (dropOnWay b.fn s))

/-- LINE_BIND of a function (R144, R145). An output line that was driving on falls to 0 and latches that edge by its sense at the
end of the event: the model's choice (log 14). -/
def bindLine (i : Fin 32) (fn : Fn) (sc : Scaling) (s : State) : Answer :=
  let l := s.lines[i]
  if fn.requiredMode ≠ l.mode then refuse .refusedRange s
  else if l.binding.isSome ∧ !l.boundTo fn then refuse .refusedOwned s
  else if s.bound fn ∧ !l.boundTo fn then refuse .refusedState s
  else if !bindAllowed s fn then refuse .refusedState s
  else if l.boundTo fn then accept [] { s with lines := s.lines.set i { l with binding := some ⟨fn, sc⟩ } }
  else
    accept [] (bindEffect fn { s with lines := s.lines.set i { l with binding := some ⟨fn, sc⟩, outValue := 0 } })

/-- LINE_BIND (R144, R145). -/
def reqLineBind (line fn fullHi fullLo off span : Byte) (s : State) : Answer :=
  match lineIdx line with
  | none => refuse .refusedRange s
  | some i =>
    if fn.toNat = 0 then unbindLine i s
    else
      match fnOf fn with
      | none => refuse .refusedRange s
      | some f =>
        match scalingOf f (fromTwo fullHi fullLo) off.toNat span.toNat with
        | none => refuse .refusedRange s
        | some sc => bindLine i f sc s

/-! ### Service requests -/

/-- The stop loop as STATUS reports it: OPEN 1, CLOSED 2, UNBOUND 3. -/
def loopCode (s : State) : Nat := if !s.bound .stopLoop then 3 else if s.loopOpen then 1 else 2

def boomStatus (b : Boom) : List Byte :=
  [byteOf b.phase.code, byteOf ((b.suspendedPhase.map Phase.code).getD 0), boolByte b.started, b.holds.byte]

/-- STATUS (R172). -/
def reqStatus (s : State) : Answer :=
  accept
    (twoBytes (flagSet s) ++ [byteOf s.link.lastError.code] ++ boomStatus s.boomA ++ boomStatus s.boomB ++
     [byteOf s.canopy.state.code, byteOf s.canopy.lastFailure.code, byteOf s.arbiter.view.code, byteOf (loopCode s),
      boolByte s.pattern.isSome, byteOf (slotCode s.slotA), byteOf (slotCode s.slotB)]) s

/-- CLEAR (R170). LINES is set again within the event where a masked latch is still set (R141). -/
def reqClear (hi lo : Byte) (s : State) : Answer :=
  let set := fromTwo hi lo
  if set % 2 = 1 then refuse .refusedRange s
  else
    let s := allFlags.foldl (fun s f => if set.testBit f.code then clearFlag f s else s) s
    let s := if s.lines.toList.any (·.flagged) then raiseFlag .lines none none 0 s else s
    accept (twoBytes (flagSet s)) s

/-- NOTICE_SET (R171). -/
def reqNoticeSet (flag enable level : Byte) (s : State) : Answer :=
  match flagOf flag.toNat, onOffOf enable with
  | some f, some on =>
    if 3 < level.toNat then refuse .refusedRange s
    else if (!on || level.toNat == 0) && (s.flag f).pending.isSome then refuse .refusedState s
    else accept [] (s.setFlagRec f { s.flag f with enable := on, level := level.toNat })
  | _, _ => refuse .refusedRange s

/-- RESTART: the OK reply is placed; the restart comes at the end of its sending (R173). -/
def reqRestart (s : State) : Answer := accept [] s

/-! ### The taking of requests (R164) -/

/-- A request of a named kind with an allowed length, handed to the block that owns it. -/
def ownerAnswer (kind : Nat) (body : List Byte) (s : State) : Answer :=
  match kind, body with
  | 0x01, [] => reqStatus s
  | 0x02, [hi, lo] => reqClear hi lo s
  | 0x03, [flag, enable, level] => reqNoticeSet flag enable level s
  | 0x04, [] => reqRestart s
  | 0x08, [line, mode, pull, sense, mask] => reqLineConfig line mode pull sense mask s
  | 0x09, [line, fn, fullHi, fullLo, off, span] => reqLineBind line fn fullHi fullLo off span s
  | 0x0A, [] => reqLineRead s
  | 0x0B, [line, value] => reqLineWrite line value s
  | 0x10, index :: record => reqClassWrite index record s
  | 0x11, [index] => reqClassRead index s
  | 0x12, form :: rest => reqStrataWrite form rest s
  | 0x13, [band] => reqStrataRead band s
  | 0x14, scales => reqTempWrite scales s
  | 0x18, [xs, xe, ys, ye, oA, xA, yA, oB, xB, yB, clr] => reqPatternDefine xs xe ys ye oA xA yA oB xB yB clr s
  | 0x19, [x1, x2, y1, y2, cls] => reqCellMark x1 x2 y1 y2 cls s
  | 0x1A, [x, y] => reqCellRead x y s
  | 0x1B, [] => reqTallyRead s
  | 0x20, [boom] => reqBoomStart boom s
  | 0x21, [boom] => reqBoomStop boom s
  | 0x22, [boom] => reqBoomRead boom s
  | 0x23, [boom] => reqAtHole boom s
  | 0x24, [boom] => reqProceed boom s
  | 0x25, [boom, choice, stepHi, stepLo, cls] => reqDecide boom choice stepHi stepLo cls s
  | 0x26, [boom] => reqHold boom s
  | 0x27, [boom] => reqResume boom s
  | 0x28, [boom] => reqAbort boom s
  | 0x29, [boom, x, y] => reqSkip boom x y s
  | 0x2A, boom :: purge :: count :: kinds => reqMagazineLoad boom purge count kinds s
  | 0x30, [budget] => reqPumpSet budget s
  | 0x31, [] => reqFlowRead s
  | 0x34, [demand] => reqCanopyRaise demand s
  | 0x35, [] => reqCanopyLower s
  | 0x38, [boom] => reqRecordFetch boom s
  | 0x39, [boom, col, row] => reqRecordRelease boom col row s
  | _, _ => refuse .badLength s

/-- The answer to a frame: its kind and body length are checked before it is handed on (R164). -/
def answer (kind : Byte) (body : List Byte) (s : State) : Answer :=
  if !kindNamed kind then refuse .unknownKind s
  else if !lengthAllowed kind body then refuse .badLength s
  else ownerAnswer kind.toNat body s

/-- The kind of the reply to a request kind (R164). -/
def replyKind (kind : Byte) : Byte := if inRange 0x01 0x3F kind.toNat then kind + 0x80 else 0x80

/-- A request is taken where the queue holds a frame and the reply slot is empty (R164). -/
def takeFrame (s : State) : State :=
  match s.link.queue, s.link.reply with
  | f :: rest, none =>
    let r := answer f.kind f.body { s with link := { s.link with queue := rest } }
    { r.1 with link := { r.1.link with reply := some ⟨replyKind f.kind, f.tag, r.2⟩ } }
  | _, _ => s

/-- A link error: the cause is recorded and LINK is set (R161, R163, R166). -/
def linkError (cause : LinkCause) (s : State) : State :=
  raiseFlag .link none none cause.code { s with link := { s.link with lastError := cause } }

/-- A complete frame joins the queue, and is taken where the slot is empty; a full queue drops it (R163, R164). -/
def frameArrives (f : Frame) (s : State) : State :=
  if s.link.queue.length < queueSize then takeFrame { s with link := { s.link with queue := s.link.queue ++ [f] } }
  else linkError .queueFull s

/-! ### The receiver (R160 to R162) -/

/-- One bit of the check: x^16 + x^12 + x^5 + 1, most significant bit first (R162). -/
def crcBit (r : BitVec 16) : BitVec 16 := if r.msb then (r <<< 1) ^^^ 0x1021#16 else r <<< 1

/-- One byte of the check. -/
def crcByte (r : BitVec 16) (b : Byte) : BitVec 16 :=
  (List.range 8).foldl (fun r _ => crcBit r) (r ^^^ (b.setWidth 16 <<< 8))

/-- The check over bytes 1 to N+1 of a frame (R162). -/
def crc (bytes : List Byte) : BitVec 16 := bytes.foldl crcByte 0xFFFF#16

/-- The bytes the check covers: length, kind, tag, body. -/
def coveredBytes (f : Frame) : List Byte := byteOf (f.body.length + 2) :: f.kind :: f.tag :: f.body

/-- A frame as it is sent: sync, covered bytes, check high byte first (section 10.6). -/
def frameBytes (f : Frame) : List Byte := 0xC3 :: coveredBytes f ++ wordBytes (crc (coveredBytes f))

/-- The parity bit does not make the count of ones even (R160). -/
def parityError (data : Byte) (parity : Bool) : Bool :=
  ((List.range 8).foldl (fun p i => p != data.getLsbD i) parity)

/-- The frame in reception is discarded with a cause; the receiver hunts (R161). -/
def discard (cause : LinkCause) (s : State) : State := linkError cause { s with link := { s.link with rx := none } }

/-- The bytes since the sync, with the new one: a bad length, an incomplete frame, or a complete one whose check is judged
(R161, R162). -/
def takeByte (bytes : List Byte) (s : State) : State :=
  match bytes with
  | [] => s
  | n :: rest =>
    if n.toNat < 2 ∨ 252 < n.toNat then discard .length s
    else if rest.length < n.toNat + 2 then { s with link := { s.link with rx := some bytes } }
    else if bytes.drop (n.toNat + 1) = wordBytes (crc (bytes.take (n.toNat + 1))) then
      match rest.take n.toNat with
      | kind :: tag :: body => frameArrives ⟨kind, tag, body⟩ { s with link := { s.link with rx := none } }
      | _ => discard .length s
    else discard .check s

/-- One incoming character (R160, R161). -/
def receive (data : Byte) (parity stop : Bool) (s : State) : State :=
  match s.link.rx with
  | none =>
    if data = 0xC3 ∧ !parityError data parity ∧ stop then { s with link := { s.link with rx := some [] } } else s
  | some bytes =>
    if parityError data parity then discard .parity s
    else if !stop then discard .framing s
    else takeByte (bytes ++ [data]) s

/-! ### RESTART and power-on (R173, R174) -/

/-- The arbiter after RESTART: its view is taken from the pump OK line (R113, R123). -/
def restartedArbiter (s : State) : Arbiter :=
  { Arbiter.powerOn with view := if s.bound .pumpOk && s.reads1 .pumpOk then .ok else .low }

/-- A flag after RESTART, before START is set: enable and level are kept (R167, R173). -/
def restartFlag (r : FlagRec) : FlagRec := { r with set := false, pending := none }

/-- The restart of the whole part as one event (R173). The class store, the lines' settings and bindings, and the flags'
settings are kept; what was on its way between blocks is gone (log 21). -/
def restartPart (s : State) : State :=
  let holding := s.loopOpen
  let s := { s with
    pattern := none, cells := .replicate 96 .blank, complete := false, tally := .zero
    boomA := .powerOn, boomB := .powerOn, arbiter := restartedArbiter s, canopy := .powerOn
    lines := s.lines.map (restartLine holding), holding := holding, stopOpenings := 0
    slotA := none, slotB := none, flags := s.flags.map restartFlag, link := ⟨none, [], none, .idle, .none⟩
    ticket := 0 }
  let s := raiseFlag .start none none 0 (adopt s)
  setLines (s.lines.map reevaluate) s

/-- The reply in the slot is the OK of a RESTART (R173). -/
def isRestartReply (f : Frame) : Bool := f.kind == 0x84 && f.body == [Status.ok.code]

/-- The RESTART reply is being sent. -/
def restartSending (s : State) : Bool := s.link.tx == .reply && (s.link.reply.map isRestartReply).getD false

/-- Sending of a frame ends: after a reply the slot empties, a queued request is taken, and the arbiter chooses (R165); after
the RESTART reply the part restarts instead (R173). -/
def sendingEnds (s : State) : State :=
  match s.link.tx with
  | .idle => s
  | .notice _ => uplinkChoose true s
  | .reply =>
    if restartSending s then restartPart s
    else uplinkChoose true (settleLines (takeFrame { s with link := { s.link with reply := none } }))

/-- Every block at its power-on values; what the outside presents at the terminals stays (R136, R174, log 28). -/
def powerUp (s : State) : State :=
  { State.reset with lines := s.lines.map fun l => LineRec.powerOn l.term, freeCount := s.freeCount, pending := s.pending }

/-- What the transmitter is sending. -/
def uplinkFrame (s : State) : Option Frame :=
  match s.link.tx with
  | .idle => none
  | .reply => s.link.reply
  | .notice n => some (noticeFrame n)

/-- The bytes of the frame being sent (R162). -/
def uplinkBytes (s : State) : List Byte := ((uplinkFrame s).map frameBytes).getD []

/-! ### Meanings of the link's own commands -/

/-- POWER_ON (R174). -/
def execPowerOn (s : State) : Host.Outcome State Fault Refusal := .next (powerUp s)

/-- CHARACTER_RECEIVED (R160, R161). -/
def execCharacterReceived (data : Byte) (parity stop : Bool) (s : State) : Host.Outcome State Fault Refusal :=
  .next (settle (receive data parity stop s))

/-- GAP (R161): only inside a frame. -/
def execGap (s : State) : Host.Outcome State Fault Refusal :=
  .next (if s.link.rx.isSome then settle (discard .gap s) else s)

/-- FRAME_SENT (R165). -/
def execFrameSent (s : State) : Host.Outcome State Fault Refusal := .next (settle (sendingEnds s))

/-- PART_RESTART (R173): at the end of sending the RESTART reply. -/
def execPartRestart (s : State) : Host.Outcome State Fault Refusal :=
  .next (if restartSending s then settle (restartPart s) else s)

/-- DIGITAL_EDGE (R137). -/
def execDigitalEdge (line : Fin 32) (level isOpen : Bool) (s : State) : Host.Outcome State Fault Refusal :=
  .next (settle (presentLevel line level isOpen s))

/-- ANALOG_CHANGE (R138). -/
def execAnalogChange (line : Fin 32) (count : BitVec 10) (s : State) : Host.Outcome State Fault Refusal :=
  .next (settle (presentCount line count.toNat s))

/-- STOP_LOOP_OPEN (R149, R110): taken where the field line unit has an opening to take (log 4). -/
def execStopLoopOpen (s : State) : Host.Outcome State Fault Refusal :=
  .next (if 0 < s.stopOpenings then settle (takeOpening s) else s)

end Sys2Proof.Machine
end

