-- ==== Sys2Proof/Machine/HostRequests.lean ====
section
/-! DEFINITION. The meanings of the host's requests: each is the arrival of its complete, checked frame (R161, R163, R164,
log 3). The layouts are those of section 10.6. -/

namespace Sys2Proof.Machine

/-- A complete frame of a kind arrives; it is taken at once where the queue and the reply slot are empty, waits in the
queue, or is dropped (R163, R164). -/
def hostSends (kind tag : Byte) (body : List Byte) (s : State) : State := settle (frameArrives ⟨kind, tag, body⟩ s)

/-- UNKNOWN_KIND (R164): a frame whose kind names no request. -/
def execUnknownKind (kind tag : Byte) (body : List Byte) (s : State) : Host.Outcome State Fault Refusal :=
  if maxBody < body.length then .fault .bodyTooLong else .next (hostSends kind tag body s)

/-- BAD_LENGTH (R164): a frame whose body length its kind does not allow. -/
def execBadLength (kind tag : Byte) (body : List Byte) (s : State) : Host.Outcome State Fault Refusal :=
  if maxBody < body.length then .fault .bodyTooLong else .next (hostSends kind tag body s)

/-- STATUS (R172). -/
def execStatus (tag : Byte) (s : State) : Host.Outcome State Fault Refusal :=
  .next (hostSends 0x01 tag [] s)

/-- CLEAR (R170). -/
def execClear (tag : Byte) (flags : Word) (s : State) : Host.Outcome State Fault Refusal :=
  .next (hostSends 0x02 tag (wordBytes flags) s)

/-- NOTICE_SET (R171). -/
def execNoticeSet (tag flag enable level : Byte) (s : State) : Host.Outcome State Fault Refusal :=
  .next (hostSends 0x03 tag [flag, enable, level] s)

/-- RESTART (R173). -/
def execRestart (tag : Byte) (s : State) : Host.Outcome State Fault Refusal :=
  .next (hostSends 0x04 tag [] s)

/-- LINE_CONFIG (R139). -/
def execLineConfig (tag line mode pull sense mask : Byte) (s : State) : Host.Outcome State Fault Refusal :=
  .next (hostSends 0x08 tag [line, mode, pull, sense, mask] s)

/-- LINE_BIND (R144, R145). -/
def execLineBind (tag line fn : Byte) (fullScale : Word) (tempOffset tempSpan : Byte) (s : State) :
    Host.Outcome State Fault Refusal :=
  .next (hostSends 0x09 tag ([line, fn] ++ wordBytes fullScale ++ [tempOffset, tempSpan]) s)

/-- LINE_READ (R142). -/
def execLineRead (tag : Byte) (s : State) : Host.Outcome State Fault Refusal :=
  .next (hostSends 0x0A tag [] s)

/-- LINE_WRITE (R148). -/
def execLineWrite (tag line value : Byte) (s : State) : Host.Outcome State Fault Refusal :=
  .next (hostSends 0x0B tag [line, value] s)

/-- CLASS_WRITE (R23, R24). -/
def execClassWrite (tag index : Byte) (record : Vector Byte 44) (s : State) : Host.Outcome State Fault Refusal :=
  .next (hostSends 0x10 tag (index :: record.toList) s)

/-- CLASS_READ (R25). -/
def execClassRead (tag index : Byte) (s : State) : Host.Outcome State Fault Refusal :=
  .next (hostSends 0x11 tag [index] s)

/-- STRATA_WRITE (R28). -/
def execStrataWrite (tag form : Byte) (rest : List Byte) (s : State) : Host.Outcome State Fault Refusal :=
  .next (hostSends 0x12 tag (form :: rest) s)

/-- STRATA_READ (R29). -/
def execStrataRead (tag band : Byte) (s : State) : Host.Outcome State Fault Refusal :=
  .next (hostSends 0x13 tag [band] s)

/-- TEMP_WRITE (R44). -/
def execTempWrite (tag : Byte) (scales : Vector Word 8) (s : State) : Host.Outcome State Fault Refusal :=
  .next (hostSends 0x14 tag (scales.toList.flatMap wordBytes) s)

/-- PATTERN_DEFINE (R4). -/
def execPatternDefine (tag xs xe ys ye orderA mirrorXA mirrorYA orderB mirrorXB mirrorYB clearance : Byte) (s : State) :
    Host.Outcome State Fault Refusal :=
  .next (hostSends 0x18 tag [xs, xe, ys, ye, orderA, mirrorXA, mirrorYA, orderB, mirrorXB, mirrorYB, clearance] s)

/-- CELL_MARK (R5 to R7). -/
def execCellMark (tag x1 x2 y1 y2 cls : Byte) (s : State) : Host.Outcome State Fault Refusal :=
  .next (hostSends 0x19 tag [x1, x2, y1, y2, cls] s)

/-- CELL_READ (R8). -/
def execCellRead (tag x y : Byte) (s : State) : Host.Outcome State Fault Refusal :=
  .next (hostSends 0x1A tag [x, y] s)

/-- TALLY_READ (R176). -/
def execTallyRead (tag : Byte) (s : State) : Host.Outcome State Fault Refusal :=
  .next (hostSends 0x1B tag [] s)

/-- BOOM_START (R48, R49). -/
def execBoomStart (tag boom : Byte) (s : State) : Host.Outcome State Fault Refusal :=
  .next (hostSends 0x20 tag [boom] s)

/-- BOOM_STOP (R50). -/
def execBoomStop (tag boom : Byte) (s : State) : Host.Outcome State Fault Refusal :=
  .next (hostSends 0x21 tag [boom] s)

/-- BOOM_READ (R68). -/
def execBoomRead (tag boom : Byte) (s : State) : Host.Outcome State Fault Refusal :=
  .next (hostSends 0x22 tag [boom] s)

/-- AT_HOLE (R53). -/
def execAtHole (tag boom : Byte) (s : State) : Host.Outcome State Fault Refusal :=
  .next (hostSends 0x23 tag [boom] s)

/-- PROCEED (R63, R66, R67, R76, R78, R108). -/
def execProceed (tag boom : Byte) (s : State) : Host.Outcome State Fault Refusal :=
  .next (hostSends 0x24 tag [boom] s)

/-- DECIDE (R40 to R42). -/
def execDecide (tag boom choice : Byte) (extStep : Word) (cls : Byte) (s : State) : Host.Outcome State Fault Refusal :=
  .next (hostSends 0x25 tag ([boom, choice] ++ wordBytes extStep ++ [cls]) s)

/-- HOLD (R101). -/
def execHold (tag boom : Byte) (s : State) : Host.Outcome State Fault Refusal :=
  .next (hostSends 0x26 tag [boom] s)

/-- RESUME (R102). -/
def execResume (tag boom : Byte) (s : State) : Host.Outcome State Fault Refusal :=
  .next (hostSends 0x27 tag [boom] s)

/-- ABORT (R103). -/
def execAbort (tag boom : Byte) (s : State) : Host.Outcome State Fault Refusal :=
  .next (hostSends 0x28 tag [boom] s)

/-- SKIP (R9, R107). -/
def execSkip (tag boom x y : Byte) (s : State) : Host.Outcome State Fault Refusal :=
  .next (hostSends 0x29 tag [boom, x, y] s)

/-- MAGAZINE_LOAD (R70). -/
def execMagazineLoad (tag boom purge count : Byte) (kinds : Vector Byte 6) (s : State) :
    Host.Outcome State Fault Refusal :=
  .next (hostSends 0x2A tag ([boom, purge, count] ++ kinds.toList) s)

/-- PUMP_SET (R119, R120). -/
def execPumpSet (tag budget : Byte) (s : State) : Host.Outcome State Fault Refusal :=
  .next (hostSends 0x30 tag [budget] s)

/-- FLOW_READ (R124). -/
def execFlowRead (tag : Byte) (s : State) : Host.Outcome State Fault Refusal :=
  .next (hostSends 0x31 tag [] s)

/-- CANOPY_RAISE (R127). -/
def execCanopyRaise (tag demand : Byte) (s : State) : Host.Outcome State Fault Refusal :=
  .next (hostSends 0x34 tag [demand] s)

/-- CANOPY_LOWER (R131). -/
def execCanopyLower (tag : Byte) (s : State) : Host.Outcome State Fault Refusal :=
  .next (hostSends 0x35 tag [] s)

/-- RECORD_FETCH (R157). -/
def execRecordFetch (tag boom : Byte) (s : State) : Host.Outcome State Fault Refusal :=
  .next (hostSends 0x38 tag [boom] s)

/-- RECORD_RELEASE (R158). -/
def execRecordRelease (tag boom col row : Byte) (s : State) : Host.Outcome State Fault Refusal :=
  .next (hostSends 0x39 tag [boom, col, row] s)

end Sys2Proof.Machine
end

