-- ==== Sys2Proof/Machine/Timers.lean ====
section
/-! DEFINITION. Time: what one tenth of a second adds to the running timers, and which limit event is due (R56, R59, R61,
R64, R75, R81, R84, R90, R105, R125 to R132). -/

namespace Sys2Proof.Machine

/-! ### A tenth of a second (log 8) -/

/-- A timer that runs on a condition and otherwise stands. -/
def runIf (on : Bool) (t : Nat) : Nat := if on then t + 1 else t

/-- A timer that runs on a condition and is 0 otherwise. -/
def runOrZero (on : Bool) (t : Nat) : Nat := if on then t + 1 else 0

/-- A hole context after a tenth: the gel clock runs from the spin start on, spin elapsed while the bolt spins (R81). -/
def tickCtx (b : Boom) (c : HoleCtx) : HoleCtx :=
  { c with gel := c.gel.map (· + 1),
           spinElapsed := runIf (b.phase == .spinning && b.port.view.moving && c.gel.isSome) c.spinElapsed }

/-- A push part (R72): a cartridge in flight in INSERTING. -/
def Boom.pushing (b : Boom) : Bool := b.phase == .inserting && (b.ctx.bind fun c => c.inFlight).isSome

/-- A boom after a tenth. The phase, progress and stall-pressure times run while it feeds (R56, R59), the back-off time in a
back-off that holds its grant (R61), the retract time in a retract part that holds it (R64, R90, R105), the push time in the
push part (R75). -/
def tickBoom (side : Side) (s : State) : Boom :=
  let b := s.boom side
  let fed := feeds side s
  let drilling := b.phase == .drilling
  { b with
    ctx := b.ctx.map (tickCtx b)
    phaseTime := runIf fed b.phaseTime
    progressTime := runIf (fed && drilling) b.progressTime
    stallTime := runOrZero (fed && drilling && b.snap.stallPressure ≤ s.rotPressure side) b.stallTime
    backOffTime := runIf (drilling && b.backOff && b.port.view.moving) b.backOffTime
    retractTime := runIf b.retractMoving b.retractTime
    pushTime := runIf b.pushing b.pushTime }

/-- The support controller after a tenth (R126, R128, R130, R132). -/
def tickCanopy (s : State) : Canopy :=
  let k := s.canopy
  let high := s.reads1 .canopyPressure
  match k.state with
  | .unknown => { k with settleTime := runOrZero (s.bound .canopyPressure && high) k.settleTime }
  | .raising => { k with raiseTime := k.raiseTime + 1, settleTime := runOrZero high k.settleTime }
  | .set => { k with lossTime := runOrZero (!high) k.lossTime }
  | .lowering => { k with lowerTime := runOrZero (!high) k.lowerTime }
  | .lowered | .lost => k

/-- A tenth of a second passes in every block. -/
def tick (s : State) : State :=
  { s with boomA := tickBoom .a s, boomB := tickBoom .b s, canopy := tickCanopy s }

/-! ### Limits reached -/

/-- The limit events, in the order in which a step on an empty queue looks for one that is due (log 8). -/
def limitCommands : List Instr :=
  ([.a, .b] : List Side).flatMap (fun side =>
    [.tensionLate side, .pressureStall side, .progressStall side, .backOffEnd side, .retractTimeout side,
     .secondFailureTimeout side, .jam side, .spinEnd side, .holdEnd side]) ++
  [.canopyAdoptSet, .canopySet, .raiseTimeout, .canopyLost, .canopyLowered]

/-- A limit event's time has come and its condition holds. -/
def limitDue (s : State) : Instr → Bool
  | .tensionLate side => (s.boom side).late
  | .pressureStall side => pressureStallDue side s
  | .progressStall side => progressStallDue side s
  | .backOffEnd side => backOffDue side s
  | .retractTimeout side => retractTimeoutDue side s
  | .secondFailureTimeout side => secondFailureDue side s
  | .jam side => jamDue side s
  | .spinEnd side => spinEndDue side s
  | .holdEnd side => holdEndDue side s
  | .canopyAdoptSet => adoptSetDue s
  | .canopySet => canopySetDue s
  | .raiseTimeout => raiseTimeoutDue s
  | .canopyLost => canopyLostDue s
  | .canopyLowered => canopyLoweredDue s
  | _ => false

/-- The limit event that a step on an empty queue takes, if one is due. -/
def dueCommand (s : State) : Option Instr := limitCommands.find? (limitDue s)

end Sys2Proof.Machine
end

