-- ==== Sys2Proof/Machine/Dispatch.lean ====
section
/-! DEFINITION. One arm per command, each a direct call of its meaning. -/

namespace Sys2Proof.Machine

def exec (i : Instr) (s : State) : Host.Outcome State Fault Refusal :=
  match i with
  | .powerOn => Sys2Proof.Machine.execPowerOn s
  | .characterReceived data parity stop => Sys2Proof.Machine.execCharacterReceived data parity stop s
  | .gap => Sys2Proof.Machine.execGap s
  | .unknownKind kind tag body => Sys2Proof.Machine.execUnknownKind kind tag body s
  | .badLength kind tag body => Sys2Proof.Machine.execBadLength kind tag body s
  | .frameSent => Sys2Proof.Machine.execFrameSent s
  | .status tag => Sys2Proof.Machine.execStatus tag s
  | .clear tag flags => Sys2Proof.Machine.execClear tag flags s
  | .noticeSet tag flag enable level => Sys2Proof.Machine.execNoticeSet tag flag enable level s
  | .restart tag => Sys2Proof.Machine.execRestart tag s
  | .partRestart => Sys2Proof.Machine.execPartRestart s
  | .lineConfig tag line mode pull sense mask => Sys2Proof.Machine.execLineConfig tag line mode pull sense mask s
  | .lineBind tag line fn fullScale tempOffset tempSpan => Sys2Proof.Machine.execLineBind tag line fn fullScale tempOffset tempSpan s
  | .lineRead tag => Sys2Proof.Machine.execLineRead tag s
  | .lineWrite tag line value => Sys2Proof.Machine.execLineWrite tag line value s
  | .classWrite tag index record => Sys2Proof.Machine.execClassWrite tag index record s
  | .classRead tag index => Sys2Proof.Machine.execClassRead tag index s
  | .strataWrite tag form rest => Sys2Proof.Machine.execStrataWrite tag form rest s
  | .strataRead tag band => Sys2Proof.Machine.execStrataRead tag band s
  | .tempWrite tag scales => Sys2Proof.Machine.execTempWrite tag scales s
  | .patternDefine tag xs xe ys ye orderA mirrorXA mirrorYA orderB mirrorXB mirrorYB clearance => Sys2Proof.Machine.execPatternDefine tag xs xe ys ye orderA mirrorXA mirrorYA orderB mirrorXB mirrorYB clearance s
  | .cellMark tag x1 x2 y1 y2 cls => Sys2Proof.Machine.execCellMark tag x1 x2 y1 y2 cls s
  | .cellRead tag x y => Sys2Proof.Machine.execCellRead tag x y s
  | .tallyRead tag => Sys2Proof.Machine.execTallyRead tag s
  | .boomStart tag boom => Sys2Proof.Machine.execBoomStart tag boom s
  | .boomStop tag boom => Sys2Proof.Machine.execBoomStop tag boom s
  | .boomRead tag boom => Sys2Proof.Machine.execBoomRead tag boom s
  | .atHole tag boom => Sys2Proof.Machine.execAtHole tag boom s
  | .proceed tag boom => Sys2Proof.Machine.execProceed tag boom s
  | .decide tag boom choice extStep cls => Sys2Proof.Machine.execDecide tag boom choice extStep cls s
  | .hold tag boom => Sys2Proof.Machine.execHold tag boom s
  | .resume tag boom => Sys2Proof.Machine.execResume tag boom s
  | .abort tag boom => Sys2Proof.Machine.execAbort tag boom s
  | .skip tag boom x y => Sys2Proof.Machine.execSkip tag boom x y s
  | .magazineLoad tag boom purge count kinds => Sys2Proof.Machine.execMagazineLoad tag boom purge count kinds s
  | .pumpSet tag budget => Sys2Proof.Machine.execPumpSet tag budget s
  | .flowRead tag => Sys2Proof.Machine.execFlowRead tag s
  | .canopyRaise tag demand => Sys2Proof.Machine.execCanopyRaise tag demand s
  | .canopyLower tag => Sys2Proof.Machine.execCanopyLower tag s
  | .recordFetch tag boom => Sys2Proof.Machine.execRecordFetch tag boom s
  | .recordRelease tag boom col row => Sys2Proof.Machine.execRecordRelease tag boom col row s
  | .digitalEdge line level isOpen => Sys2Proof.Machine.execDigitalEdge line level isOpen s
  | .analogChange line count => Sys2Proof.Machine.execAnalogChange line count s
  | .stopLoopOpen => Sys2Proof.Machine.execStopLoopOpen s
  | .boomStopLoopOpen side => Sys2Proof.Machine.execBoomStopLoopOpen side s
  | .canopyStopLoopOpen => Sys2Proof.Machine.execCanopyStopLoopOpen s
  | .deadmanPress side => Sys2Proof.Machine.execDeadmanPress side s
  | .deadmanRelease side => Sys2Proof.Machine.execDeadmanRelease side s
  | .atHoleRise side => Sys2Proof.Machine.execAtHoleRise side s
  | .feedPositionChange side => Sys2Proof.Machine.execFeedPositionChange side s
  | .rotationPressureChange side => Sys2Proof.Machine.execRotationPressureChange side s
  | .pressureStall side => Sys2Proof.Machine.execPressureStall side s
  | .progressStall side => Sys2Proof.Machine.execProgressStall side s
  | .backOffEnd side => Sys2Proof.Machine.execBackOffEnd side s
  | .feedHomeRise side => Sys2Proof.Machine.execFeedHomeRise side s
  | .retractTimeout side => Sys2Proof.Machine.execRetractTimeout side s
  | .secondFailureTimeout side => Sys2Proof.Machine.execSecondFailureTimeout side s
  | .cartridgePass side => Sys2Proof.Machine.execCartridgePass side s
  | .jam side => Sys2Proof.Machine.execJam side s
  | .boltPresentRise side => Sys2Proof.Machine.execBoltPresentRise side s
  | .spinEnd side => Sys2Proof.Machine.execSpinEnd side s
  | .holdEnd side => Sys2Proof.Machine.execHoldEnd side s
  | .tensionLate side => Sys2Proof.Machine.execTensionLate side s
  | .rotationPulse side => Sys2Proof.Machine.execRotationPulse side s
  | .reSeek side => Sys2Proof.Machine.execReSeek side s
  | .flowRequestArrival consumer => Sys2Proof.Machine.execFlowRequestArrival consumer s
  | .flowRelease consumer => Sys2Proof.Machine.execFlowRelease consumer s
  | .boomGrantTaken side => Sys2Proof.Machine.execBoomGrantTaken side s
  | .boomTakeBack side => Sys2Proof.Machine.execBoomTakeBack side s
  | .boomFlowRefusal side => Sys2Proof.Machine.execBoomFlowRefusal side s
  | .pumpFall => Sys2Proof.Machine.execPumpFall s
  | .pumpRise => Sys2Proof.Machine.execPumpRise s
  | .boomPumpFall side => Sys2Proof.Machine.execBoomPumpFall side s
  | .boomPumpRise side => Sys2Proof.Machine.execBoomPumpRise side s
  | .canopyPressureChange => Sys2Proof.Machine.execCanopyPressureChange s
  | .canopyAdoptSet => Sys2Proof.Machine.execCanopyAdoptSet s
  | .canopySet => Sys2Proof.Machine.execCanopySet s
  | .raiseTimeout => Sys2Proof.Machine.execRaiseTimeout s
  | .canopyGrantTaken => Sys2Proof.Machine.execCanopyGrantTaken s
  | .canopyTakeBack => Sys2Proof.Machine.execCanopyTakeBack s
  | .canopyFlowRefusal => Sys2Proof.Machine.execCanopyFlowRefusal s
  | .canopyLost => Sys2Proof.Machine.execCanopyLost s
  | .canopyLowered => Sys2Proof.Machine.execCanopyLowered s
  | .canopyLossAtBoom side => Sys2Proof.Machine.execCanopyLossAtBoom side s
  | .canopyRegainAtBoom side => Sys2Proof.Machine.execCanopyRegainAtBoom side s

end Sys2Proof.Machine
end

