-- ==== Sys2Proof/WellFormed.lean ====
section
/-! DEFINITION. The checks a command meets beyond its operands' types.
A request's fields may hold any value: the part answers a value out of range. What is checked is that a command says what
its row says: UNKNOWN_KIND names no request, BAD_LENGTH names one with a length it does not allow, both fit a frame, and
STRATA_WRITE has a length its kind and form allow. -/

namespace Sys2Proof

/-- A command that says what its row says. -/
def Instr.wellFormed : Instr → Bool
  | .unknownKind kind _ body => !Machine.kindNamed kind && body.length ≤ Machine.maxBody
  | .badLength kind _ body =>
    Machine.kindNamed kind && !Machine.lengthAllowed kind body && body.length ≤ Machine.maxBody
  | .strataWrite _ form rest => Machine.lengthAllowed 0x12 (form :: rest)
  | _ => true

end Sys2Proof
end

