-- ==== Sys2Proof/Safety.lean ====
section
/-! DEFINITION. What holds of the part between two commands, and what a safe run is.
Each invariant holds at reset and is kept by every step; none mentions how a state was reached. -/

namespace Sys2Proof.Machine

/-- Every bound output line has its owner's command as its output value, and every output line's digital state is what is
driven (R147, R149). -/
def State.linesSettled (s : State) : Prop := s.lines.map (refreshLine s) = s.lines

/-- A line's values agree with its mode (R136 to R138, R140). -/
def LineRec.sampled (l : LineRec) : Prop :=
  match l.mode with
  | .digitalIn => l.digital = l.terminalLevel ∧ l.analog = 0 ∧ l.outValue = 0
  | .analogIn => l.digital = false ∧ l.analog = l.term.count ∧ l.outValue = 0 ∧ l.latch = false
  | .switchedOut | .proportionalOut => l.analog = 0

/-- Every line's values agree with its mode. -/
def State.linesSampled (s : State) : Prop := ∀ i : Fin 32, s.lines[i].sampled

/-- The receive queue holds at most two frames and is empty while the slot is; a reply is being sent only from the slot; an
idle transmitter has nothing to send (R163 to R165). -/
abbrev State.uplinkSettled (s : State) : Prop :=
  s.link.queue.length ≤ queueSize ∧ (s.link.reply = none → s.link.queue = []) ∧
    (s.link.tx = .reply → s.link.reply ≠ none) ∧ (s.link.tx = .idle → s.link.reply = none ∧ nextNotice s = none)

/-- Both of the above. -/
def State.settled (s : State) : Prop := s.linesSettled ∧ s.uplinkSettled

/-- The sum of the flow grants never exceeds the budget, which is at most 200 units (R113). -/
abbrev State.budgetKept (s : State) : Prop := grantTotal s.arbiter.grants ≤ s.arbiter.budget ∧ s.arbiter.budget ≤ 200

/-- A consumer has at most one entry in the grant map and the request queue together (R113). -/
def State.consumersOnce (s : State) : Prop := ((s.arbiter.grants ++ s.arbiter.queue).map (·.consumer)).Nodup

/-- A cell is CLAIMED or WORKING exactly while a boom's hole context stands on it; it then names that boom, and is CLAIMED exactly
while the boom is in POSITIONING (R16, R17, R107). -/
def State.gridSound (s : State) : Prop :=
  ∀ q : Pos,
    ((s.cell q).state = .claimed ∨ (s.cell q).state = .working →
      ∃ x c, (s.cell q).boom = some x ∧ (s.boom x).ctx = some c ∧ c.pos = q) ∧
    ∀ x c, (s.boom x).ctx = some c → c.pos = q →
      (s.cell q).boom = some x ∧
        (s.cell q).state = if (s.boom x).phase = .positioning then .claimed else .working

/-- The states of a boom that hold a hole context (R45). -/
def Phase.hasContext (p : Phase) : Bool :=
  match p with
  | .idle | .seekWait | .halted | .stopped => false
  | _ => true

/-- A held phase, by its name (R96). -/
def Phase.isHeld : Phase → Bool
  | .collaring | .drilling | .steelChange | .retracting | .inserting | .spinning | .torquing => true
  | _ => false

/-- A hole has at most 16 strata runs, with lengths that sum to 25 mm times the increment count (R32), and one increment for each
25 mm of its depth, up to 3000 mm, so at most 120 (R30). -/
abbrev HoleCtx.runsSound (c : HoleCtx) : Prop :=
  c.runs.length ≤ 16 ∧ (c.runs.map (·.length)).sum = 25 * c.incCount ∧ c.incCount = min c.depth 3000 / 25

/-- The states whose motion takes pump flow (R47, R79, R85, R90, R104). -/
def Phase.usesFlow : Phase → Bool
  | .collaring | .drilling | .steelChange | .retracting | .spinning | .torquing | .releasing | .aborting => true
  | _ => false

/-- What the rules say of a boom between two events: its magazine (R69), its context and suspended phase (R45), its hold
reasons in a held phase (R96), its flow only in a motion's state (R47, R118), its strata runs and depth (R30, R32). ASSESSING
takes no time (R33). -/
def Boom.sound (b : Boom) : Prop :=
  b.magazine.length ≤ 6 ∧ b.phase ≠ .assessing ∧ b.ctx.isSome = b.phase.hasContext ∧
    (∀ p, b.suspendedPhase = some p → b.phase = .suspended ∧ p.isHeld) ∧
    (b.phase = .suspended → b.suspendedPhase ≠ none) ∧
    (b.heldPhase → b.holds = .empty) ∧ (b.port.view ≠ .none → b.phase.usesFlow) ∧ ∀ c, b.ctx = some c → c.runsSound

/-! ### What a command leaves alone -/

/-- From `s` to `t` the lines change only in what bound output lines command, drive and latch. -/
def outputsOnly (s t : State) : Prop :=
  ∀ i : Fin 32,
    (∃ v d x, t.lines[i] = { s.lines[i] with outValue := v, digital := d, latch := x }) ∧
      (s.lines[i].binding = none ∨ s.lines[i].mode.isOut = false → t.lines[i] = s.lines[i])

/-- From `s` to `t` the notice unit changes only in the flags named, and in LINES. -/
def flagsOnly (named : List Flag) (s t : State) : Prop := ∀ g, g ∉ named → g ≠ .lines → t.flag g = s.flag g

/-- From `s` to `t` the link changes only in what an idle transmitter begins to send. -/
def linkOnly (s t : State) : Prop :=
  t.link = { s.link with tx := t.link.tx } ∧ (s.link.tx ≠ .idle → t.link.tx = s.link.tx)

/-- What an event that sets at most the flags named leaves in lines, notice unit and link. -/
def surround (named : List Flag) (s t : State) : Prop := outputsOnly s t ∧ flagsOnly named s t ∧ linkOnly s t

/-! ### Requests that are taken at once -/

/-- The receive queue and the reply slot are empty: a request that arrives is taken at once (R164). -/
def State.ready (s : State) : Prop := s.settled ∧ s.link.queue = [] ∧ s.link.reply = none

/-- A reply is placed in the slot, and an idle transmitter begins to send it (R164, R165). Nothing else changes. -/
def State.withReply (s : State) (kind tag : Byte) (body : List Byte) : State :=
  { s with link := { s.link with reply := some ⟨kind, tag, body⟩, tx := if s.link.tx = .idle then .reply else s.link.tx } }

/-- From `s` to `t` a reply is placed, and lines and notice unit change as in an event that sets at most the flags named. -/
def answered (named : List Flag) (kind tag : Byte) (body : List Byte) (s t : State) : Prop :=
  outputsOnly s t ∧ flagsOnly named s t ∧
    t.link = { s.link with reply := some ⟨kind, tag, body⟩, tx := t.link.tx } ∧ t.link.tx ≠ .idle ∧
    (s.link.tx ≠ .idle → t.link.tx = s.link.tx)

/-! ### The end of an event -/

/-- From `s` to `t` LINES is set where a masked latch has become set or been uncovered, and else stays (R141). -/
def linesRaised (s t : State) : Prop :=
  (t.flag .lines).set = true ↔
    (s.flag .lines).set = true ∨
      ∃ i : Fin 32, (t.lines[i].mask = true ∧ t.lines[i].latch = true) ∧
        ¬ (s.lines[i].mask = true ∧ s.lines[i].latch = true)

/-- New line records are taken: LINES is set, with boom 0, cell 0 and reason 0, where a masked latch has become set or been
uncovered (R141, R168). -/
def State.withLines (s : State) (ls : Vector LineRec 32) : State :=
  { s with
    lines := ls
    flags := if ∃ i : Fin 32, (ls[i].mask = true ∧ ls[i].latch = true) ∧ ¬ (s.lines[i].mask = true ∧ s.lines[i].latch = true)
      then (raiseFlag .lines none none 0 s).flags else s.flags }

/-- A flag's notice is pending and its level is 1 to 3: it is offered to the uplink arbiter (R168). -/
def State.offers (s : State) (f : Flag) (n : Notice) : Prop :=
  (s.flag f).pending = some n ∧ 1 ≤ (s.flag f).level ∧ (s.flag f).level ≤ 3

/-- The notice of the highest level offered, and among equal levels of the lowest flag code (R165). -/
def State.chooses (s : State) (f : Flag) (n : Notice) : Prop :=
  s.offers f n ∧ ∀ g m, g ≠ f → s.offers g m →
    (s.flag g).level < (s.flag f).level ∨ ((s.flag g).level = (s.flag f).level ∧ f.code < g.code)

/-- The transmitter begins to send. -/
def State.sending (s : State) (x : Transmitter) : State := { s with link := { s.link with tx := x } }

/-- The transmitter begins to send a flag's notice, which loses its pending mark (R165). -/
def State.sendingNotice (s : State) (f : Flag) (n : Notice) : State :=
  (s.setFlagRec f { s.flag f with pending := none }).sending (.notice n)

/-- From `w` to `t` the uplink arbiter has chosen, if the transmitter was idle: the reply in the slot, or the notice chosen, or
nothing; a reply and a notice that came together go in either order (R165; the order is a free value, log 10). The count of free
choices is the model's own. -/
def uplinkTakes (w t : State) : Prop :=
  let becomes (u : State) : Prop := t = { u with freeCount := t.freeCount }
  (w.link.tx ≠ .idle → becomes w) ∧
    (w.link.tx = .idle →
      ((∀ f n, ¬ w.offers f n) → becomes (if w.link.reply = none then w else w.sending .reply)) ∧
      ∀ f n, w.chooses f n →
        (w.link.reply = none → becomes (w.sendingNotice f n)) ∧
        (w.link.reply ≠ none → becomes (w.sending .reply) ∨ becomes (w.sendingNotice f n)))

/-- An event that left `v` ends in `t`: the output lines follow their owners and the stop loop, latching their edges (R140, R147,
R149), LINES follows the latches (R141), and an idle transmitter takes what came (R165). Nothing else changes. -/
def settlesTo (v t : State) : Prop := uplinkTakes (v.withLines (v.lines.map (refreshLine v))) t

/-- A request that left `v` is answered, and the event ends in `t` (R164). -/
def settlesAnswered (kind tag : Byte) (body : List Byte) (v t : State) : Prop :=
  settlesTo { v with link := { v.link with reply := some ⟨kind, tag, body⟩ } } t

/-- From `s` to `t` LINES is set exactly where a masked latch has become set, and keeps its enable and level (R141, R171). -/
def linesKept (s t : State) : Prop :=
  linesRaised s t ∧ (t.flag .lines).enable = (s.flag .lines).enable ∧ (t.flag .lines).level = (s.flag .lines).level

/-- An event of `s` that left `v`, with the lines as they were, has ended in `t`; against `s` only bound outputs, the flags named and
LINES have changed beside the data of `v`. -/
def ends (named : List Flag) (s v t : State) : Prop :=
  settlesTo v t ∧ t.lines = v.lines.map (refreshLine v) ∧ surround named s t ∧ linesKept s t

/-- The same for a request that was answered. -/
def endsAnswered (named : List Flag) (kind tag : Byte) (body : List Byte) (s v t : State) : Prop :=
  settlesAnswered kind tag body v t ∧ t.lines = v.lines.map (refreshLine v) ∧ answered named kind tag body s t ∧ linesKept s t

/-- The flags the events of a hole can set. -/
def holeFlags (side : Side) : List Flag := [.holeDone side, .overrun side, .wait side, .halt side, .patternDone]

/-- A flag's settings and pending mark agree (R167, R170, R171). -/
def State.flagsSound (s : State) : Prop :=
  ∀ f, (s.flag f).level ≤ 3 ∧
    ∀ n, (s.flag f).pending = some n →
      n.flag = f ∧ (s.flag f).set = true ∧ (s.flag f).enable = true ∧ 1 ≤ (s.flag f).level

/-- A link error is taken: the receiver's bytes and the queue as given, the cause recorded, LINK set with it (R161, R163,
R166). -/
def linkErrorTaken (cause : LinkCause) (rx : Option (List Byte)) (s t : State) : Prop :=
  t = { s with flags := t.flags, link := { s.link with rx := rx, lastError := cause, tx := t.link.tx } } ∧
    (s.link.tx ≠ .idle → t.link.tx = s.link.tx) ∧ (t.flag .link).set = true ∧ (∀ g, g ≠ .link → t.flag g = s.flag g) ∧
    ((s.flag .link).set = false → (s.flag .link).enable = true → 1 ≤ (s.flag .link).level → (s.flag .link).level ≤ 3 →
      if s.link.tx = .idle then t.link.tx = .notice ⟨.link, none, none, cause.code⟩
      else (t.flag .link).pending = some ⟨.link, none, none, cause.code⟩) ∧
    uplinkTakes (raiseFlag .link none none cause.code { s with link := { s.link with rx := rx, lastError := cause } }) t

/-! ### Lines -/

/-- A line's latch after its digital state becomes `new` (R140): a change latches by the sense. -/
def LineRec.latchAfter (l : LineRec) (new : Bool) : Bool :=
  l.latch ||
    (new != l.digital &&
      match l.mode, l.sense with
      | .analogIn, _ => false
      | _, .rising | _, .highLevel => new
      | _, .falling | _, .lowLevel => !new
      | _, .anyChange => new != l.snapshot)

/-- A change of sense to one whose condition holds at once (R140); an ANALOG_IN line is not evaluated. -/
def LineRec.latchedBySense (l : LineRec) (sense : Sense) : Bool :=
  sense != l.sense &&
    match l.mode, sense with
    | .analogIn, _ => false
    | _, .highLevel => l.digital
    | _, .lowLevel => !l.digital
    | _, .anyChange => l.digital != l.snapshot
    | _, _ => false

/-- The range and the form of a function's scaling (R146). -/
def scalingGiven (fn : Fn) (full : Word) (off span : Byte) : Option Scaling :=
  match fn with
  | .boom _ .feedPosition => if 500 ≤ full.toNat ∧ full.toNat ≤ 3000 then some (.full full.toNat) else none
  | .boom _ .rotationPressure => if 100 ≤ full.toNat ∧ full.toNat ≤ 400 then some (.full full.toNat) else none
  | .temperature =>
    if off.toNat ≤ 40 ∧ 10 ≤ span.toNat ∧ span.toNat ≤ 200 then some (.temp off.toNat span.toNat) else none
  | _ => some .none

/-- A bound line is in the mode its function needs, and a function is bound to one line at most (R143, R144). -/
def State.bindingsSound (s : State) : Prop :=
  (∀ (i : Fin 32) (b : Binding), s.lines[i].binding = some b → s.lines[i].mode = b.fn.requiredMode) ∧
    ∀ (i j : Fin 32) (b c : Binding), s.lines[i].binding = some b → s.lines[j].binding = some c → b.fn = c.fn → i = j

/-- LINES is set while a masked latch is set (R141). -/
def State.linesFlagKept (s : State) : Prop :=
  (∃ i : Fin 32, s.lines[i].mask = true ∧ s.lines[i].latch = true) → (s.flag .lines).set = true

/-! ### Class records -/

/-- The ranges and relations of a class record written to an index (R22, R23). -/
abbrev ClassRec.allowed (c : ClassRec) (index : Nat) : Prop :=
  (300 ≤ c.target ∧ c.target ≤ 3000) ∧ (25 ≤ c.collar ∧ c.collar ≤ 200) ∧
    (300 ≤ c.steelLength ∧ c.steelLength ≤ 1200) ∧ (1 ≤ c.maxSteels ∧ c.maxSteels ≤ 5) ∧
    (100 ≤ c.anchorLength ∧ c.anchorLength ≤ 1200) ∧ c.weakLimit ≤ 1200 ∧ (25 ≤ c.extStep ∧ c.extStep ≤ 300) ∧
    c.fallback ≤ 8 ∧ (1 ≤ c.cartridges.length ∧ c.cartridges.length ≤ 4) ∧ (10 ≤ c.spinTime ∧ c.spinTime ≤ 150) ∧
    (20 ≤ c.holdTime ∧ c.holdTime ≤ 600) ∧ (30 ≤ c.windowEnd ∧ c.windowEnd ≤ 1800) ∧
    (50 ≤ c.torqueTarget ∧ c.torqueTarget ≤ 600) ∧ (1 ≤ c.torqueFactor ∧ c.torqueFactor ≤ 255) ∧
    (1 ≤ c.turnLimit ∧ c.turnLimit ≤ 255) ∧ (20 ≤ c.stallPressure ∧ c.stallPressure ≤ 250) ∧
    (5 ≤ c.stallTime ∧ c.stallTime ≤ 50) ∧
    (c.collarDemand ≤ 200 ∧ c.drillDemand ≤ 200 ∧ c.spinDemand ≤ 200 ∧ c.torqueDemand ≤ 200 ∧ c.retractDemand ≤ 200) ∧
    (c.collarFeed ≤ 15 ∧ c.drillFeed ≤ 15 ∧ c.drillRotation ≤ 15 ∧ c.pushFeed ≤ 15 ∧ c.spinRotation ≤ 15 ∧
      c.holdFeed ≤ 15 ∧ c.torqueRotation ≤ 15 ∧ c.retractFeed ≤ 15) ∧
    c.collar < c.target ∧ c.target ≤ c.steelLength * c.maxSteels ∧ c.anchorLength ≤ c.target ∧
    c.spinTime + c.holdTime < c.windowEnd ∧ c.fallback ≠ index

/-! ### Values after power-on and RESTART -/

/-- What both power-on and RESTART give, whatever stood before (R3, R11, R45, R69, R72, R93, R113, R125, R150, R151, R160,
R163, R164, R166). -/
def startedAnew (t : State) : Prop :=
  t.pattern = none ∧ (∀ p, t.cell p = ⟨.off, 0, none, 0, none, none, none, false⟩) ∧ t.complete = false ∧
    t.tally = ⟨0, 0, 0, 0, 0, 0, 0, 0, 0, 0, 0, 0, 0⟩ ∧
    (∀ x, (t.boom x).phase = .idle ∧ (t.boom x).suspendedPhase = none ∧ (t.boom x).started = false ∧
      (t.boom x).stopPending = false ∧ (t.boom x).port.view = .none ∧ (t.boom x).waitReason = none ∧
      (t.boom x).ctx = none ∧ (t.boom x).base = none ∧ (t.boom x).holdEnd = none ∧ (t.boom x).phaseTime = 0 ∧
      (t.boom x).progressTime = 0 ∧ (t.boom x).stallTime = 0 ∧ (t.boom x).backOffTime = 0 ∧
      (t.boom x).retractTime = 0 ∧ (t.boom x).pushTime = 0 ∧ (t.boom x).holds = .empty ∧ (t.boom x).magazine = [] ∧
      (t.boom x).cursor = none) ∧
    t.arbiter.budget = 120 ∧ t.arbiter.grants = [] ∧ t.arbiter.queue = [] ∧
    t.canopy.raiseDemand = none ∧ t.canopy.port.view = .none ∧ t.canopy.settleTime = 0 ∧ t.canopy.lossTime = 0 ∧
    t.canopy.raiseTime = 0 ∧ t.canopy.lowerTime = 0 ∧ t.canopy.lastFailure = .none ∧
    t.slotA = none ∧ t.slotB = none ∧ (∀ i : Fin 32, t.lines[i].outValue = 0 ∧ t.lines[i].snapshot = t.lines[i].digital) ∧
    t.link.rx = none ∧ t.link.queue = [] ∧ t.link.reply = none ∧ t.link.lastError = .none ∧ (t.flag .start).set = true

/-- What power-on alone gives beside that (R22, R27, R43, R113, R125, R136, R167): START's notice is being sent, and no other is
pending (R165, R174). -/
def poweredOn (t : State) : Prop :=
  startedAnew t ∧ t.link.tx = .notice ⟨.start, none, none, 0⟩ ∧ (∀ g, (t.flag g).pending = none) ∧
    (∀ i : Fin 8, t.classes[i] = none ∧ t.temps[i] = 100) ∧
    (∀ r k : Fin 16, (t.strata[r])[k] = .unset) ∧ t.rateStep = 5 ∧ t.pressureStep = 10 ∧ t.arbiter.view = .low ∧
    t.canopy.state = .unknown ∧ t.holding = false ∧
    (∀ i : Fin 32, t.lines[i].mode = .digitalIn ∧ t.lines[i].pull = .none ∧ t.lines[i].sense = .anyChange ∧
      t.lines[i].mask = false ∧ t.lines[i].binding = none ∧ t.lines[i].analog = 0 ∧ t.lines[i].latch = false) ∧
    (∀ g, (t.flag g).enable = true ∧ (g ≠ .start → (t.flag g).set = false)) ∧
    [Flag.start, .holeDone .a, .holeDone .b, .overrun .a, .overrun .b, .wait .a, .wait .b, .halt .a, .halt .b,
      .canopy, .stopLoop, .pump, .lines, .link, .patternDone].map (fun g => (t.flag g).level) =
      [3, 2, 2, 2, 2, 2, 2, 3, 3, 3, 3, 3, 1, 1, 2]

/-! ### Requests as frames -/

/-- The frame a request command carries (section 10.6). -/
def requestFrame : Instr → Option Frame
  | .unknownKind kind tag body | .badLength kind tag body => some ⟨kind, tag, body⟩
  | .status tag => some ⟨0x01, tag, []⟩
  | .clear tag flags => some ⟨0x02, tag, wordBytes flags⟩
  | .noticeSet tag flag enable level => some ⟨0x03, tag, [flag, enable, level]⟩
  | .restart tag => some ⟨0x04, tag, []⟩
  | .lineConfig tag line mode pull sense mask => some ⟨0x08, tag, [line, mode, pull, sense, mask]⟩
  | .lineBind tag line fn full off span => some ⟨0x09, tag, [line, fn] ++ wordBytes full ++ [off, span]⟩
  | .lineRead tag => some ⟨0x0A, tag, []⟩
  | .lineWrite tag line value => some ⟨0x0B, tag, [line, value]⟩
  | .classWrite tag index record => some ⟨0x10, tag, index :: record.toList⟩
  | .classRead tag index => some ⟨0x11, tag, [index]⟩
  | .strataWrite tag form rest => some ⟨0x12, tag, form :: rest⟩
  | .strataRead tag band => some ⟨0x13, tag, [band]⟩
  | .tempWrite tag scales => some ⟨0x14, tag, scales.toList.flatMap wordBytes⟩
  | .patternDefine tag xs xe ys ye oA xA yA oB xB yB clr =>
    some ⟨0x18, tag, [xs, xe, ys, ye, oA, xA, yA, oB, xB, yB, clr]⟩
  | .cellMark tag x1 x2 y1 y2 cls => some ⟨0x19, tag, [x1, x2, y1, y2, cls]⟩
  | .cellRead tag x y => some ⟨0x1A, tag, [x, y]⟩
  | .tallyRead tag => some ⟨0x1B, tag, []⟩
  | .boomStart tag boom => some ⟨0x20, tag, [boom]⟩
  | .boomStop tag boom => some ⟨0x21, tag, [boom]⟩
  | .boomRead tag boom => some ⟨0x22, tag, [boom]⟩
  | .atHole tag boom => some ⟨0x23, tag, [boom]⟩
  | .proceed tag boom => some ⟨0x24, tag, [boom]⟩
  | .decide tag boom choice step cls => some ⟨0x25, tag, [boom, choice] ++ wordBytes step ++ [cls]⟩
  | .hold tag boom => some ⟨0x26, tag, [boom]⟩
  | .resume tag boom => some ⟨0x27, tag, [boom]⟩
  | .abort tag boom => some ⟨0x28, tag, [boom]⟩
  | .skip tag boom x y => some ⟨0x29, tag, [boom, x, y]⟩
  | .magazineLoad tag boom purge count kinds => some ⟨0x2A, tag, [boom, purge, count] ++ kinds.toList⟩
  | .pumpSet tag budget => some ⟨0x30, tag, [budget]⟩
  | .flowRead tag => some ⟨0x31, tag, []⟩
  | .canopyRaise tag demand => some ⟨0x34, tag, [demand]⟩
  | .canopyLower tag => some ⟨0x35, tag, []⟩
  | .recordFetch tag boom => some ⟨0x38, tag, [boom]⟩
  | .recordRelease tag boom col row => some ⟨0x39, tag, [boom, col, row]⟩
  | _ => none

/-- The bytes of a frame taken one character at a time, each with its right parity bit and a high stop bit. -/
def takeBytes : List Byte → State → Host.Outcome State Fault Refusal
  | [], s => .next s
  | b :: bs, s =>
    match exec (.characterReceived b (((List.range 8).filter fun i => b.getLsbD i).length % 2 == 1) true) s with
    | .next t => takeBytes bs t
    | o => o

/-! ### Runs -/

/-- A step stops: it answers no next state. -/
def stops (s : State) : Prop := ∀ t, step s ≠ .next t

/-- A state from which no run stops: every command that waits is well formed. -/
def State.safe (s : State) : Prop := ∀ c ∈ s.pending, c.wellFormed

end Sys2Proof.Machine
end

