-- ==== Sys2Proof/Certificates/Slice0/Obligations.lean ====
section
/-! DEFINITION. The statements for the provers. A statement that rests on a choice of the model's says so and names the log
entry. -/

open Sys2Proof Sys2Proof.Machine

/-! ### Steps -/

/-- A step takes the command at the front of the queue (the task's form for a block; section 5 of 00_scope.md: one event at a
time). -/
def Obligations.StepTakesTheFrontCommand : Prop :=
  ∀ (c : Instr) (rest : List Instr) (s : State), s.pending = c :: rest → step s = exec c { s with pending := rest }

/-- On an empty queue a step takes a limit event that is due, else a tenth of a second passes: the model's choice (log 8). An event
command whose event has not come changes nothing: the model's choice (log 4); so does a refusal while an earlier one of its PUMP_SET
waits (R120). In a tenth the phase time runs while the boom feeds, progress and stall-pressure time in DRILLING (R56, R59), the
back-off time in a back-off (R61), the retract time in a retraction (R64, R90, R105), each where the motion holds its grant or needs
none; the push time in a push (R75), the gel clock from the spin start, spin elapsed in the spin (R81). The canopy's settle, raise,
loss-filter and lower time run in their states by the pressure line (R126, R128, R130, R132). Nothing else changes. -/
def Obligations.StepsWithoutAnEventAreTicksOrNothing : Prop :=
  (∀ s : State, s.pending = [] →
     ((∀ c ∈ limitCommands, limitDue s c = false) → step s = .next (tick s)) ∧
     (∀ c ∈ limitCommands, limitDue s c = true → ∃ d ∈ limitCommands, limitDue s d = true ∧ step s = exec d s)) ∧
  (∀ c : Instr, c ∈ limitCommands ↔
     c ∈ ([.canopyAdoptSet, .canopySet, .raiseTimeout, .canopyLost, .canopyLowered] : List Instr) ∨
       ∃ x : Side, c ∈ ([.tensionLate x, .pressureStall x, .progressStall x, .backOffEnd x, .retractTimeout x,
         .secondFailureTimeout x, .jam x, .spinEnd x, .holdEnd x] : List Instr)) ∧
  (∀ (x : Side) (s : State),
     (∀ (c : Instr) (e : BoomEvent),
       (c, e) ∈ ([(.boomStopLoopOpen x, .stopLoop), (.deadmanPress x, .deadman true), (.deadmanRelease x, .deadman false),
         (.atHoleRise x, .atHole), (.feedHomeRise x, .feedHome), (.cartridgePass x, .cartridgePass),
         (.boltPresentRise x, .boltPresent), (.rotationPulse x, .rotationPulse), (.boomPumpFall x, .pump false),
         (.boomPumpRise x, .pump true), (.canopyLossAtBoom x, .canopy false),
         (.canopyRegainAtBoom x, .canopy true)] : List (Instr × BoomEvent)) →
       (s.boom x).hasNext e = false → exec c s = .next s) ∧
     (∀ c ∈ limitCommands, limitDue s c = false → exec c s = .next s) ∧
     (s.stopOpenings = 0 → exec .stopLoopOpen s = .next s) ∧
     (s.link.rx = none → exec .gap s = .next s) ∧
     (s.arbiter.events.head? ≠ some false → exec .pumpFall s = .next s) ∧
     (s.arbiter.events.head? ≠ some true → exec .pumpRise s = .next s) ∧
     ((s.boom x).phase ≠ .seekWait ∨ (s.boom x).reseekDue = false → exec (.reSeek x) s = .next s) ∧
     (¬ (s.link.tx = .reply ∧ ∃ tag, s.link.reply = some ⟨0x84, tag, [0]⟩) → exec .partRestart s = .next s) ∧
     ((∀ mm, (s.boom x).hasNext (.feedPosition mm) = false) → exec (.feedPositionChange x) s = .next s) ∧
     ((∀ bar, (s.boom x).hasNext (.rotationPressure bar) = false) → exec (.rotationPressureChange x) s = .next s) ∧
     ((∀ tk, (s.boom x).port.inbox.head? ≠ some (.grant tk)) → exec (.boomGrantTaken x) s = .next s) ∧
     ((∀ tk, (s.boom x).port.inbox.head? ≠ some (.takeBack tk)) → exec (.boomTakeBack x) s = .next s) ∧
     ((∀ tk, (s.boom x).port.inbox.head? ≠ some (.refusal tk)) → exec (.boomFlowRefusal x) s = .next s) ∧
     ((∀ tk, s.canopy.port.inbox.head? ≠ some (.grant tk)) → exec .canopyGrantTaken s = .next s) ∧
     ((∀ tk, s.canopy.port.inbox.head? ≠ some (.takeBack tk)) → exec .canopyTakeBack s = .next s) ∧
     ((∀ tk, s.canopy.port.inbox.head? ≠ some (.refusal tk)) → exec .canopyFlowRefusal s = .next s) ∧
     (∀ (c : Instr) (k : Consumer) (tk : Nat) (late : List FlowMsg),
       (c, k) ∈ ([(.boomFlowRefusal x, .boom x), (.canopyFlowRefusal, .canopy)] : List (Instr × Consumer)) →
       (s.port k).inbox = .refusal tk :: late →
       (∃ l ∈ s.arbiter.refusing, (k, tk) ∈ l ∧ l.head? ≠ some (k, tk)) → exec c s = .next s) ∧
     (nextPressure s = none → exec .canopyPressureChange s = .next s) ∧
     (.stopLoop ∉ s.canopy.events → exec .canopyStopLoopOpen s = .next s) ∧
     (s.settled → ∀ k : Consumer,
       ((∀ d m tk, .request d m tk ∉ (s.port k).outbox) → exec (.flowRequestArrival k) s = .next s) ∧
       ((∀ tk, (s.port k).outbox.head? ≠ some (.release tk)) → exec (.flowRelease k) s = .next s))) ∧
  ∀ s : State,
    let runs (on : Prop) [Decidable on] (n : Nat) : Nat := if on then n + 1 else n
    let moving (x : Side) : Bool := match (s.boom x).port.view with | .held _ | .free => true | _ => false
    let inFlight (x : Side) : Bool := match (s.boom x).ctx with | some c => c.inFlight.isSome | none => false
    let boomAfter (x : Side) : Boom :=
      let b := s.boom x
      { b with
        phaseTime := runs (feeds x s) b.phaseTime
        progressTime := runs (feeds x s ∧ b.phase = .drilling) b.progressTime
        stallTime := match b.ctx with
          | some c =>
            if feeds x s ∧ b.phase = .drilling ∧ c.snap.stallPressure ≤ s.rotPressure x then b.stallTime + 1 else 0
          | none => 0
        backOffTime := runs (b.phase = .drilling ∧ b.backOff ∧ moving x) b.backOffTime
        retractTime := runs (b.ctx.isSome ∧ moving x ∧ ((b.phase = .steelChange ∧ b.waitReason = none) ∨
          b.phase = .retracting ∨ b.phase = .releasing ∨ b.phase = .aborting)) b.retractTime
        pushTime := runs (b.phase = .inserting ∧ inFlight x) b.pushTime
        ctx := match b.ctx with
          | some c => some { c with
              gel := match c.gel with | some g => some (g + 1) | none => none
              spinElapsed := runs (b.phase = .spinning ∧ moving x ∧ c.gel.isSome) c.spinElapsed }
          | none => none }
    let k := s.canopy
    let high := s.reads1 .canopyPressure
    (∀ x, feeds x s = true ↔ ((s.boom x).phase = .collaring ∨ (s.boom x).phase = .drilling) ∧ moving x ∧
      (s.boom x).backOff = false ∧ ∃ c d f, (s.boom x).ctx = some c ∧ (s.boom x).base = some ⟨d, some f⟩ ∧
        c.depth + f ≤ d + s.feedPos x) ∧
    tick s = { s with
      boomA := boomAfter .a, boomB := boomAfter .b
      canopy := match k.state with
        | .unknown => { k with settleTime := if s.bound .canopyPressure ∧ high then k.settleTime + 1 else 0 }
        | .raising => { k with raiseTime := k.raiseTime + 1, settleTime := if high then k.settleTime + 1 else 0 }
        | .set => { k with lossTime := if high then 0 else k.lossTime + 1 }
        | .lowering => { k with lowerTime := if high then 0 else k.lowerTime + 1 }
        | .lowered | .lost => k }

/-- Every command answers a next state, but for a body over 250 bytes, which no frame carries (R161; log 27). -/
def Obligations.OnlyAnOverlongBodyStops : Prop :=
  ∀ (c : Instr) (s : State),
    ((∃ t, exec c s = .next t) ∨
      (exec c s = .fault .bodyTooLong ∧
        ∃ k tag body, 250 < body.length ∧ (c = .unknownKind k tag body ∨ c = .badLength k tag body))) ∧
    (c.wellFormed → ∃ t, exec c s = .next t)

/-! ### Values at the start -/

/-- The state after reset holds the values the rules give for power-on, START's notice being sent (R165, R174), and the invariants of
Safety.lean. That the terminals are low and that State.reset is the state in which that notice has begun is the model's (logs 1, 2); so
are values the rules do not write out (log 29). -/
def Obligations.ResetHoldsPowerOnValuesAndInvariants : Prop :=
  poweredOn State.reset ∧ State.reset.pending = [] ∧ State.reset.settled ∧ State.reset.linesSampled ∧
    State.reset.budgetKept ∧ State.reset.consumersOnce ∧ State.reset.gridSound ∧
    ∀ x, (State.reset.boom x).sound

/-- POWER_ON brings every block to its power-on values, and START's notice begins to be sent within it, with boom 0, cell 0 and reason
0 (R165, R174; log 1). What the outside presents at the terminals and the commands that wait stay: the model's choice (log 28). -/
def Obligations.PowerOnGivesPowerOnValues : Prop :=
  ∀ s : State, ∃ t, exec .powerOn s = .next t ∧ poweredOn t ∧ t.pending = s.pending ∧
    ∀ i : Fin 32, t.lines[i].term = s.lines[i].term ∧ t.lines[i].digital = s.lines[i].term.level

/-- RESTART is answered OK; at the end of that reply the part restarts as one event, whether the command is PART_RESTART or
FRAME_SENT (log 30). The class store, the lines' settings and the flags' settings are kept (R22, R27, R43, R173). Each line's output
value is 0, its digital state and its snapshot are taken anew, and its latch is clear but where a condition sense holds; LINES is set
where such a latch is masked (R150, R141), and a flag set so has its notice pending or being sent: LINES first where its level is the
higher, else START (R165, R174). -/
def Obligations.RestartIsAnsweredThenRestartsThePart : Prop :=
  (∀ (tag : Byte) (s : State), s.ready → exec (.restart tag) s = .next (s.withReply 0x84 tag [0])) ∧
  ∀ (tag : Byte) (s : State), s.link.tx = .reply → s.link.reply = some ⟨0x84, tag, [0]⟩ →
    ∃ t, exec .partRestart s = .next t ∧ exec .frameSent s = .next t ∧ startedAnew t ∧ t.pending = s.pending ∧
      t.classes = s.classes ∧ t.strata = s.strata ∧ t.rateStep = s.rateStep ∧ t.pressureStep = s.pressureStep ∧
      t.temps = s.temps ∧ t.holding = s.loopOpen ∧
      (∀ i : Fin 32,
        let l := s.lines[i]
        let d := match l.mode with | .digitalIn => l.terminalLevel | _ => false
        t.lines[i] = { l with
          outValue := 0, digital := d, snapshot := d
          latch := match l.mode, l.sense with
            | .analogIn, _ => false
            | _, .lowLevel => !d
            | _, .highLevel => d
            | _, _ => false }) ∧
      ((t.flag .lines).set = true ↔ ∃ i : Fin 32, t.lines[i].mask = true ∧ t.lines[i].latch = true) ∧
      (∀ g, (t.flag g).set = true → (t.flag g).enable = true → 1 ≤ (t.flag g).level → (t.flag g).level ≤ 3 →
        (t.flag g).pending = some ⟨g, none, none, 0⟩ ∨ t.link.tx = .notice ⟨g, none, none, 0⟩) ∧
      (∀ g n, t.offers g n → ∃ f, t.link.tx = .notice ⟨f, none, none, 0⟩ ∧ ((t.flag g).level < (t.flag f).level ∨
        ((t.flag g).level = (t.flag f).level ∧ f.code < g.code))) ∧
      (t.link.tx = .idle ∨ ∃ f, t.link.tx = .notice ⟨f, none, none, 0⟩ ∧ (t.flag f).pending = none) ∧
      (t.arbiter.view = .ok ↔ s.bound .pumpOk ∧ s.reads1 .pumpOk) ∧
      (t.canopy.state = if t.bound .canopyPressure ∧ ¬ t.reads1 .canopyPressure then .lowered else .unknown) ∧
      ∀ g, (t.flag g).enable = (s.flag g).enable ∧ (t.flag g).level = (s.flag g).level ∧
        (g ≠ .start → g ≠ .lines → (t.flag g).set = false ∧ (t.flag g).pending = none)

/-! ### Invariants -/

/-- Every step leaves every bound output line with its owner's command and every output line's digital state as driven (R147,
R149). A boom commands feed up, feed down, rotation and loader by the tables of R46, R71 and R105, the canopy its two valves by that of
R125. A motion that needs no grant drives nothing (R47). Following its owner, an output line takes the command, drives it unless the
stop loop holds it, and latches the edge (R140). -/
def Obligations.StepKeepsOutputsAsCommanded : Prop :=
  (∀ s t : State, s.linesSettled → step s = .next t → t.linesSettled) ∧
  (∀ (s : State) (l : LineRec),
     (l.mode = .digitalIn ∨ l.mode = .analogIn → refreshLine s l = l) ∧
     (l.mode = .switchedOut ∨ l.mode = .proportionalOut →
       let v := match l.binding with | some b => (ownerCommand s b.fn).getD l.outValue | none => l.outValue
       let d : Bool := 0 < v ∧ ¬ (s.holding = true ∧ l.binding ≠ none)
       refreshLine s l = { l with outValue := v, digital := d, latch := l.latchAfter d })) ∧
  (∀ (s : State) (i : Fin 32), s.linesSettled → s.lines[i].mode.isOut = true →
     (∀ b v, s.lines[i].binding = some b → ownerCommand s b.fn = some v →
       s.lines[i].outValue = v ∧ (s.lines[i].digital = true ↔ 0 < v ∧ s.holding = false)) ∧
     (s.lines[i].binding = none → (s.lines[i].digital = true ↔ 0 < s.lines[i].outValue))) ∧
  (∀ (x : Side) (s : State),
     let b := s.boom x
     let granted := ∃ t, b.port.view = .held t
     let commands (up down rotation loader : Nat) : Prop :=
       ownerCommand s (.boom x .feedUp) = some up ∧ ownerCommand s (.boom x .feedDown) = some down ∧
         ownerCommand s (.boom x .rotation) = some rotation ∧ ownerCommand s (.boom x .loader) = some loader
     (∀ c, b.ctx = some c →
       (b.phase = .collaring → granted → commands c.snap.collarFeed 0 c.snap.drillRotation 0) ∧
       (b.phase = .drilling → granted → b.backOff = false → commands c.snap.drillFeed 0 c.snap.drillRotation 0) ∧
       (b.phase = .drilling → granted → b.backOff = true → commands 0 c.snap.retractFeed c.snap.drillRotation 0) ∧
       ((b.phase = .steelChange ∧ b.waitReason = none) ∨ b.phase = .retracting ∨ b.phase = .releasing ∨
         b.phase = .aborting → granted → commands 0 c.snap.retractFeed 0 0) ∧
       (b.phase = .inserting → c.inFlight ≠ none → commands 0 0 0 1) ∧
       (b.phase = .inserting → c.inFlight = none → commands 0 0 0 0) ∧
       (b.phase = .spinning → granted → commands c.snap.pushFeed 0 c.snap.spinRotation 0) ∧
       (b.phase = .torquing → granted → commands c.snap.holdFeed 0 c.snap.torqueRotation 0)) ∧
     (¬ granted → b.phase ≠ .inserting → commands 0 0 0 0) ∧
     (b.phase ≠ .collaring → b.phase ≠ .drilling → b.phase ≠ .steelChange → b.phase ≠ .retracting →
       b.phase ≠ .releasing → b.phase ≠ .aborting → b.phase ≠ .inserting → b.phase ≠ .spinning →
       b.phase ≠ .torquing → commands 0 0 0 0)) ∧
  ∀ s : State,
    (s.canopy.state = .raising → (∃ t, s.canopy.port.view = .held t) → ownerCommand s .canopyUp = some 1) ∧
    (s.canopy.state ≠ .raising ∨ (∀ t, s.canopy.port.view ≠ .held t) → ownerCommand s .canopyUp = some 0) ∧
    ownerCommand s .canopyDown = some (if s.canopy.state = .lowering then 1 else 0)

/-- Every step keeps each line's values to its mode: an input reads its terminal, the analog value is 0 outside ANALOG_IN, and an
ANALOG_IN line's latch stays clear (R136 to R140); and it keeps each binding on a line of the mode its function needs, and each
function on one line at most (R143, R144). -/
def Obligations.StepKeepsLinesToTheirModesAndBindings : Prop :=
  (∀ s t : State, s.linesSampled → step s = .next t → t.linesSampled) ∧
  (State.reset.bindingsSound ∧ ∀ s t : State, s.bindingsSound → step s = .next t → t.bindingsSound)

/-- Every step keeps the rules of the receive queue, the reply slot and the transmitter (R163 to R165). -/
def Obligations.StepKeepsTheUplinkRules : Prop :=
  ∀ s t : State, s.uplinkSettled → step s = .next t → t.uplinkSettled

/-- Every step keeps the sum of the flow grants within the budget, and the budget within 200 units; and it keeps each consumer to one
entry in the grant map and the request queue together (R113). -/
def Obligations.StepKeepsGrantsWithinBudget : Prop :=
  (∀ s t : State, s.budgetKept → step s = .next t → t.budgetKept) ∧
  ∀ s t : State, s.consumersOnce → step s = .next t → t.consumersOnce

/-- Every step keeps what the rules say of a boom: its magazine (R69), its context and suspended phase (R45), no hold reason in a
held phase (R96), flow asked for or held only in a motion's state (R47, R118), and the laws of its strata runs, increments and depth
(R30, R32: one increment for each 25 mm of depth, up to 3000 mm). It keeps the grid in agreement with the booms: a cell is CLAIMED
or WORKING exactly while the context of the boom it names stands on it, and CLAIMED exactly in POSITIONING (R16, R17, R107). -/
def Obligations.StepKeepsBoomsSound : Prop :=
  (∀ s t : State, (∀ x, (s.boom x).sound) → step s = .next t → ∀ x, (t.boom x).sound) ∧
  ∀ s t : State, (∀ x, (s.boom x).sound) → s.gridSound → step s = .next t → t.gridSound

/-! ### The link -/

/-- Outside a frame the receiver takes a good 0xC3 as a sync and any other character silently (R160). Inside a frame a parity
error, a framing error, a bad length byte, a gap, or a check that does not match discards the frame, records the cause and sets
LINK (R161), whose notice an idle transmitter begins to send (R165). -/
def Obligations.ReceiverHuntsAndDiscardsBadFrames : Prop :=
  (∀ (d : Byte) (parity stop : Bool) (s : State), s.settled → s.link.rx = none →
     exec (.characterReceived d parity stop) s =
       .next (if d = 0xC3 ∧ (((List.range 8).filter fun i => d.getLsbD i).length + if parity then 1 else 0) % 2 = 0 ∧
             stop = true
         then { s with link := { s.link with rx := some [] } } else s)) ∧
  (∀ (d : Byte) (parity stop : Bool) (bytes : List Byte) (s : State), s.settled → s.link.rx = some bytes →
     let odd := (((List.range 8).filter fun i => d.getLsbD i).length + if parity then 1 else 0) % 2 = 1
     (∃ t, exec .gap s = .next t ∧ linkErrorTaken .gap none s t) ∧
     (odd → ∃ t, exec (.characterReceived d parity stop) s = .next t ∧ linkErrorTaken .parity none s t) ∧
     (¬ odd → stop = false →
       ∃ t, exec (.characterReceived d parity stop) s = .next t ∧ linkErrorTaken .framing none s t) ∧
     (¬ odd → stop = true → bytes = [] → d.toNat < 2 ∨ 252 < d.toNat →
       ∃ t, exec (.characterReceived d parity stop) s = .next t ∧ linkErrorTaken .length none s t) ∧
     (∀ (n : Byte) (rest : List Byte), ¬ odd → stop = true → bytes = n :: rest → 2 ≤ n.toNat → n.toNat ≤ 252 →
       rest.length = n.toNat + 1 → (rest.drop n.toNat) ++ [d] ≠ wordBytes (crc (n :: rest.take n.toNat)) →
       ∃ t, exec (.characterReceived d parity stop) s = .next t ∧ linkErrorTaken .check none s t))

/-- The bytes of a frame, taken one character at a time by a hunting receiver, do what the arrival of the whole frame does, which
is what its request command does (log 3): the receiver reads what the layout of section 10.6 and the check of R162 send. The check
starts from 0xFFFF and takes each byte most significant bit first by the polynomial 0x1021. The transmitter sends the same bytes: those
of the reply in the slot, or of a notice, a frame of kind 0xC0 and tag 0 with the flag code, the boom, the cell and the reason (R169). -/
def Obligations.ReceiverReadsWhatAFrameSends : Prop :=
  (∀ f : Frame, frameBytes f =
     let covered := BitVec.ofNat 8 (f.body.length + 2) :: f.kind :: f.tag :: f.body
     0xC3 :: covered ++ wordBytes (crc covered)) ∧
  (crc [] = 0xFFFF ∧ (∀ w : Word, wordBytes w = [BitVec.ofNat 8 (w.toNat / 256), BitVec.ofNat 8 (w.toNat % 256)]) ∧
   ∀ (bytes : List Byte) (b : Byte), crc (bytes ++ [b]) =
     (List.range 8).foldl (fun r _ => if r.msb then (r <<< 1) ^^^ 0x1021 else r <<< 1)
       (crc bytes ^^^ (b.setWidth 16 <<< 8))) ∧
  (∀ s : State,
     (s.link.tx = .idle → uplinkFrame s = none ∧ uplinkBytes s = []) ∧
     (s.link.tx = .reply → uplinkFrame s = s.link.reply ∧ ∀ f, s.link.reply = some f → uplinkBytes s = frameBytes f) ∧
     ∀ n : Notice, s.link.tx = .notice n →
       let boom : Byte := match n.boom with | none => 0 | some .a => 1 | some .b => 2
       let cell : List Byte := match n.pos with
         | none => [0, 0]
         | some q => [BitVec.ofNat 8 (q.col.val + 1), BitVec.ofNat 8 (q.row.val + 1)]
       let f : Frame := ⟨0xC0, 0, [BitVec.ofNat 8 n.flag.code, boom] ++ cell ++ [BitVec.ofNat 8 n.reason]⟩
       uplinkFrame s = some f ∧ uplinkBytes s = frameBytes f) ∧
  (∀ (c : Instr) (f : Frame) (s : State), requestFrame c = some f → c.wellFormed →
     exec c s = .next (hostSends f.kind f.tag f.body s)) ∧
  ∀ (f : Frame) (s : State), s.settled → s.link.rx = none → f.body.length ≤ 250 →
    takeBytes (frameBytes f) s = .next (hostSends f.kind f.tag f.body s)

/-- A well-formed request that arrives while the reply slot is full joins the queue; behind two frames it is dropped with
cause QUEUE_FULL (R163). -/
def Obligations.RequestsWaitBehindAFullSlot : Prop :=
  ∀ (c : Instr) (f : Frame) (s : State), requestFrame c = some f → c.wellFormed → s.settled → s.link.reply ≠ none →
    (s.link.queue.length < 2 →
      exec c s = .next { s with link := { s.link with queue := s.link.queue ++ [f] } }) ∧
    (s.link.queue.length = 2 → ∃ t, exec c s = .next t ∧ linkErrorTaken .queueFull s.link.rx s t)

/-- A kind that names no request is answered UNKNOWN_KIND, a body of a length its kind does not allow BAD_LENGTH; the reply
holds the status alone and nothing else changes (R164). -/
def Obligations.UnknownKindAndBadLengthAreAnswered : Prop :=
  ∀ (kind tag : Byte) (body : List Byte) (s : State), s.ready →
    ((Instr.unknownKind kind tag body).wellFormed →
      exec (.unknownKind kind tag body) s =
        .next (s.withReply (if 1 ≤ kind.toNat ∧ kind.toNat ≤ 0x3F then kind + 0x80 else 0x80) tag [7])) ∧
    ((Instr.badLength kind tag body).wellFormed →
      exec (.badLength kind tag body) s = .next (s.withReply (kind + 0x80) tag [8]))

/-- A request taken at once is answered by its block: the answer's state is the request's effect, its bytes are sent in the reply
(R164), and the event ends as settlesTo says: the output lines follow and latch, LINES follows the latches (R140, R141, R147), and the
uplink arbiter makes the choice of the second and third moment of R165. Every next state of a command, but at power-on, at a restart and at
the end of sending, is such an end, of an event that left the transmitter as it was and every pending notice its flag's own, or leaves all
as it was. At the end of sending, the arbiter takes the reply in the slot first, then the pending notice of the highest
level, and among equal levels the one of the lower flag code; a chosen notice loses its pending mark. After a reply the slot empties and
a queued request is taken before the arbiter chooses (R164, R165): its block does what the request asks, the output lines follow, and
its reply is sent. -/
def Obligations.SendingEndsWithTheNextChoice : Prop :=
  (∀ kind : Byte, replyKind kind = if 1 ≤ kind.toNat ∧ kind.toNat ≤ 0x3F then kind + 0x80 else 0x80) ∧
  (∀ (c : Instr) (f : Frame) (s : State), s.ready → requestFrame c = some f → c.wellFormed →
     let a := answer f.kind f.body s
     ∃ t, exec c s = .next t ∧ linesRaised a.1 t ∧
       settlesTo { a.1 with link := { s.link with reply := some ⟨replyKind f.kind, f.tag, a.2⟩ } } t) ∧
  (∀ (c : Instr) (s t : State), c ≠ .powerOn → c ≠ .partRestart → c ≠ .frameSent → exec c s = .next t →
     t = s ∨ ∃ v : State, v.link.tx = s.link.tx ∧ (s.flagsSound → v.flagsSound) ∧ settlesTo v t) ∧
  ∀ s : State, s.settled →
    (∀ n f, s.link.tx = .notice n → s.link.reply = some f →
      exec .frameSent s = .next { s with link := { s.link with tx := .reply } }) ∧
    (∀ f g n, (s.link.tx = .reply ∧ s.link.reply = some f ∧ s.link.queue = [] ∧ ¬ (f.kind = 0x84 ∧ f.body = [0])) ∨
        (∃ m, s.link.tx = .notice m ∧ s.link.reply = none) → s.chooses g n →
      exec .frameSent s =
        .next { s.setFlagRec g { s.flag g with pending := none } with
          link := { s.link with reply := none, tx := .notice n } }) ∧
    (∀ f, (s.link.tx = .reply ∧ s.link.reply = some f ∧ s.link.queue = [] ∧ ¬ (f.kind = 0x84 ∧ f.body = [0])) ∨
        (∃ m, s.link.tx = .notice m ∧ s.link.reply = none) → (∀ g n, ¬ s.offers g n) →
      exec .frameSent s = .next { s with link := { s.link with reply := none, tx := .idle } }) ∧
    (∀ f q rest, s.link.tx = .reply → s.link.reply = some f → ¬ (f.kind = 0x84 ∧ f.body = [0]) →
      s.link.queue = q :: rest →
      let a := answer q.kind q.body { s with link := { s.link with queue := rest, reply := none } }
      let v : State := { a.1 with link := { s.link with
        queue := rest, reply := some ⟨replyKind q.kind, q.tag, a.2⟩, tx := .reply } }
      let t := v.withLines (v.lines.map (refreshLine v))
      exec .frameSent s = .next t ∧ linesRaised a.1 t)

/-- Every step keeps each flag's settings and pending mark in agreement: a level of at most 3, and a pending notice only of the
flag itself while it is set, enabled and of level 1 to 3 (R167, R170, R171); and it keeps LINES set while a masked latch is set
(R141). -/
def Obligations.StepKeepsFlagsSound : Prop :=
  (State.reset.flagsSound ∧ ∀ s t : State, s.flagsSound → step s = .next t → t.flagsSound) ∧
  (State.reset.linesFlagKept ∧ ∀ s t : State, s.linesFlagKept → step s = .next t → t.linesFlagKept)

/-- A cause sets a clear flag, with its notice pending where the flag is enabled with level 1 to 3; a set flag stays as it is
(R167, R168). -/
def Obligations.CausesSetFlagsOnce : Prop :=
  ∀ (f : Flag) (boom : Option Side) (pos : Option Pos) (reason : Nat) (s : State),
    ((s.flag f).set = true → raiseFlag f boom pos reason s = s) ∧
    ((s.flag f).set = false →
      raiseFlag f boom pos reason s = s.setFlagRec f { s.flag f with
        set := true
        pending := if (s.flag f).enable = true ∧ 0 < (s.flag f).level then some ⟨f, boom, pos, reason⟩ else none }) ∧
    (∀ r, (s.setFlagRec f r).flag f = r) ∧ ∀ g r, g ≠ f → (s.setFlagRec f r).flag g = s.flag g

/-! ### Service requests -/

/-- STATUS, TALLY_READ, FLOW_READ and BOOM_READ change nothing but the reply slot and answer OK with what they report, in the
layouts and codes of section 10.6 (R68, R124, R172, R176): BOOM_READ byte by byte up to the hole context, which stands in the form
of the hole record that RecordFetchReturnsTheRecord spells. That a set mark is sent as 1 and a clear one as 0, in a byte or a bit of
its own, and that FLOW_READ lists the grants in the order they were made, are the model's (logs 19, 36). -/
def Obligations.ReadsReportAndChangeNothing : Prop :=
  (∀ (tag boom : Byte) (s : State), s.ready →
    let bits (a b c d e : Bool) : Byte := byteOf ((if a then 1 else 0) + (if b then 2 else 0) + (if c then 4 else 0) +
      (if d then 8 else 0) + if e then 16 else 0)
    let holds (h : Holds) : Byte := bits h.canopy h.deadman h.pump h.host false
    let phase : Option Phase → Byte
      | some p => byteOf p.code
      | none => 0
    let kinds (n : Nat) (ks : List CartKind) : List Byte :=
      (ks.take n).map (fun k => byteOf k.code) ++ List.replicate (n - ks.length) 0
    let slot : Option Slot → Byte
      | none => 1
      | some ⟨false, _⟩ => 2
      | some ⟨true, _⟩ => 3
    let report (x : Side) : List Byte :=
      let b := s.boom x
      [byteOf b.phase.code, phase b.suspendedPhase,
        bits b.started b.stopPending (match b.port.view with | .waiting _ => true | _ => false) b.backOff b.ctx.isSome,
        match b.waitReason with | some r => byteOf r.code | none => 0] ++
      (match b.cursor with | some q => [byteOf (q.col.val + 1), byteOf (q.row.val + 1)] | none => [0, 0]) ++
      [holds b.holds, byteOf b.magazine.length] ++ kinds 6 b.magazine ++
      match b.ctx with
      | none => []
      | some c =>
        let feed := match b.base with | some base => base.feed | none => none
        twoBytes (match b.base with | some base => base.depth | none => 0) ++ twoBytes (feed.getD 0) ++
          [bits feed.isSome b.holdEnd.isSome c.inFlight.isSome false false] ++ twoBytes (b.holdEnd.getD 0) ++
          twoBytes c.spinElapsed ++ [match c.inFlight with | some k => byteOf k.code | none => 0] ++
          holeBytes x c.toHoleData
    (∀ f : Flag, (flagSet s).testBit f.code = (s.flag f).set) ∧ (flagSet s).testBit 0 = false ∧ flagSet s < 65536 ∧
    (s.windowCells.Nodup ∧ ∀ q, q ∈ s.windowCells ↔
      ∃ p, s.pattern = some p ∧ p.xs ≤ q.col ∧ q.col ≤ p.xe ∧ p.ys ≤ q.row ∧ q.row ≤ p.ye) ∧
    exec (.status tag) s = .next (s.withReply 0x81 tag
      ([0] ++ twoBytes (flagSet s) ++ [byteOf s.link.lastError.code] ++
        (([.a, .b] : List Side).flatMap fun x =>
          [byteOf (s.boom x).phase.code, phase (s.boom x).suspendedPhase,
            if (s.boom x).started then 1 else 0, holds (s.boom x).holds]) ++
        [byteOf s.canopy.state.code, byteOf s.canopy.lastFailure.code, byteOf s.arbiter.view.code,
          if s.bound .stopLoop = false then 3 else if s.reads1 .stopLoop then 2 else 1,
          if s.pattern.isSome then 1 else 0, slot s.slotA, slot s.slotB])) ∧
    exec (.tallyRead tag) s = .next (s.withReply 0x9B tag
      ([0] ++ twoBytes s.tally.installed ++ twoBytes s.tally.installedMarked ++ twoBytes s.tally.untensioned ++
        twoBytes s.tally.spinThrough ++ twoBytes s.tally.abandoned ++ twoBytes s.tally.resinLost ++
        twoBytes s.tally.stopped ++ twoBytes s.tally.skipped ++ twoBytes s.tally.inserted ++
        twoBytes s.tally.lostToJams ++ twoBytes s.tally.substitutions ++ twoBytes s.tally.extensions ++
        fourBytes s.tally.metres ++ [if s.pattern.isSome then 1 else 0, if s.complete then 1 else 0] ++
        ([.off, .planned, .claimed, .working, .done, .failed, .skipped] : List CellState).map fun st =>
          byteOf (s.windowCells.filter fun q => (s.cell q).state = st).length)) ∧
    exec (.flowRead tag) s = .next (s.withReply 0xB1 tag
      ([0, byteOf s.arbiter.budget, byteOf s.arbiter.view.code, byteOf (s.arbiter.grants.map (·.demand)).sum,
          byteOf s.arbiter.grants.length] ++
        ((s.arbiter.grants.map fun e : FlowEntry =>
          [byteOf (consumerCode e.consumer), byteOf e.demand, byteOf e.motion.code]) ++
            List.replicate 3 [0, 0, 0]).flatten.take 9 ++
        [byteOf s.arbiter.queue.length] ++
        ((s.arbiter.queue.map fun e : FlowEntry =>
          [byteOf (consumerCode e.consumer), byteOf e.demand, byteOf e.motion.code, byteOf e.motion.tier]) ++
            List.replicate 3 [0, 0, 0, 0]).flatten.take 12)) ∧
    exec (.boomRead tag boom) s = .next (s.withReply 0xA2 tag
      (if boom = 1 then 0 :: report .a else if boom = 2 then 0 :: report .b else [2]))) ∧
  ((∀ n, byteOf n = BitVec.ofNat 8 n ∧
     twoBytes n = [BitVec.ofNat 8 (min n 65535 / 256), BitVec.ofNat 8 (min n 65535 % 256)] ∧
     fourBytes n = [BitVec.ofNat 8 (n / 16777216), BitVec.ofNat 8 (n / 65536 % 256), BitVec.ofNat 8 (n / 256 % 256),
       BitVec.ofNat 8 (n % 256)]) ∧
   posBytes none = [0, 0] ∧ ∀ q : Pos, posBytes (some q) = [byteOf (q.col.val + 1), byteOf (q.row.val + 1)]) ∧
  (([.idle, .seekWait, .positioning, .collaring, .drilling, .steelChange, .assessing, .decisionWait, .retracting, .holeOpen,
      .inserting, .boltWait, .spinning, .holding, .torquing, .releasing, .suspended, .aborting, .halted, .stopped]
      : List Phase).map (·.code) = [1, 2, 3, 4, 5, 6, 7, 8, 9, 10, 11, 12, 13, 14, 15, 16, 17, 18, 19, 20] ∧
   ([.addSteel, .clearHole, .decision, .magEmpty, .magMismatch, .jam, .loadBolt] : List WaitReason).map (·.code) =
      [1, 2, 3, 4, 5, 6, 7] ∧
   ([.installed, .installedMarked, .untensioned, .spinThrough, .abandoned, .resinLost, .stopped]
      : List HoleOutcome).map (·.code) = [16, 17, 18, 19, 20, 21, 22] ∧
   ([.stall, .retractTimeout, .jamLimit, .flowExceedsBudget, .tensionLate] : List FaultCode).map (·.code) =
      [32, 33, 34, 35, 36] ∧
   ([.none, .parity, .framing, .gap, .length, .check, .queueFull] : List LinkCause).map (·.code) =
      [0, 48, 49, 50, 51, 52, 53] ∧
   ([.start, .holeDone .a, .holeDone .b, .overrun .a, .overrun .b, .wait .a, .wait .b, .halt .a, .halt .b, .canopy,
      .stopLoop, .pump, .lines, .link, .patternDone] : List Flag).map (·.code) =
      [1, 2, 3, 4, 5, 6, 7, 8, 9, 10, 11, 12, 13, 14, 15] ∧
   ([.fast, .medium, .slow] : List CartKind).map (·.code) = [1, 2, 3] ∧
   ([.unset, .competent, .laminated, .soft, .clay, .void, .hard, .broken] : List StrataClass).map (·.code) =
      [0, 1, 2, 3, 4, 5, 6, 7] ∧
   ([.off, .planned, .claimed, .working, .done, .failed, .skipped] : List CellState).map (·.code) =
      [1, 2, 3, 4, 5, 6, 7] ∧
   ([.unknown, .lowered, .raising, .set, .lost, .lowering] : List CanopyState).map (·.code) = [1, 2, 3, 4, 5, 6] ∧
   ([.none, .raiseTimeout, .pumpLost, .flowRefused, .loss] : List CanopyFailure).map (·.code) = [1, 2, 3, 4, 5] ∧
   ([.ok, .low] : List PumpView).map (·.code) = [1, 2] ∧
   ([.canopy, .boom .a, .boom .b] : List Consumer).map consumerCode = [1, 2, 3] ∧
   ([.raise, .collar, .drill, .spin, .torque, .retract] : List Motion).map (fun m => (m.code, m.tier)) =
      [(1, 1), (2, 3), (3, 3), (4, 3), (5, 2), (6, 3)])

/-- CLEAR clears the flags named and withdraws their notices; LINES is set again where a masked latch is set, with a new notice
pending or being sent where it is enabled with level 1 to 3; a set that marks bit 0 names no flag code and is refused (R170,
R141). NOTICE_SET replaces a flag's enable and level, and refuses to silence a pending notice (R171). -/
def Obligations.ClearAndNoticeSetActOnFlags : Prop :=
  (∀ (tag : Byte) (flags : Word) (s : State), s.ready →
     (flags.toNat.testBit 0 = true → exec (.clear tag flags) s = .next (s.withReply 0x82 tag [2])) ∧
     (flags.toNat.testBit 0 = false →
       ∃ t, exec (.clear tag flags) s = .next t ∧
         t = { s with flags := t.flags, link := t.link, freeCount := t.freeCount } ∧
         t.link = { s.link with reply := some ⟨0x82, tag, 0 :: twoBytes (flagSet t)⟩, tx := t.link.tx } ∧
         t.link.tx ≠ .idle ∧ (s.link.tx ≠ .idle → t.link.tx = s.link.tx) ∧
         (∀ f, f ≠ .lines →
           t.flag f = if flags.toNat.testBit f.code then { s.flag f with set := false, pending := none } else s.flag f) ∧
         (t.flag .lines).enable = (s.flag .lines).enable ∧ (t.flag .lines).level = (s.flag .lines).level ∧
         ((t.flag .lines).set = true ↔
           (∃ i : Fin 32, s.lines[i].mask = true ∧ s.lines[i].latch = true) ∨
             (s.flag .lines).set = true ∧ flags.toNat.testBit 13 = false) ∧
         (flags.toNat.testBit 13 = true → (∃ i : Fin 32, s.lines[i].mask = true ∧ s.lines[i].latch = true) →
           if (s.flag .lines).enable = true ∧ 1 ≤ (s.flag .lines).level ∧ (s.flag .lines).level ≤ 3 then
             (t.flag .lines).pending = some ⟨.lines, none, none, 0⟩ ∨
               (s.link.tx = .idle ∧ t.link.tx = .notice ⟨.lines, none, none, 0⟩)
           else (s.flag .lines).enable = false ∨ (s.flag .lines).level = 0 → (t.flag .lines).pending = none) ∧
         (flags.toNat.testBit 13 = true → (∀ i : Fin 32, ¬ (s.lines[i].mask = true ∧ s.lines[i].latch = true)) →
           (t.flag .lines).pending = none))) ∧
  (∀ (tag flag enable level : Byte) (s : State), s.ready → s.flagsSound →
     (flag.toNat = 0 ∨ 15 < flag.toNat ∨ 1 < enable.toNat ∨ 3 < level.toNat →
       exec (.noticeSet tag flag enable level) s = .next (s.withReply 0x83 tag [2])) ∧
     ∀ f : Flag, flag.toNat = f.code → enable.toNat ≤ 1 → level.toNat ≤ 3 →
       exec (.noticeSet tag flag enable level) s =
         .next (if (enable = 0 ∨ level = 0) ∧ (s.flag f).pending ≠ none then s.withReply 0x83 tag [1]
           else (s.setFlagRec f { s.flag f with enable := enable = 1, level := level.toNat }).withReply 0x83 tag [0]))

/-! ### The class store -/

/-- CLASS_WRITE takes a record that meets R22 and R23 and refuses any other; CLASS_READ answers with the record in the layout
of section 10.6, whose bytes are those that were written (unused cartridge positions as 0). A record is read as none where its
action, its cartridge count or a kind within the count names nothing. That the valid mark is sent as 1 when set and 0 when clear is
the model's (log 19). -/
def Obligations.ClassRecordsReadBackAsWritten : Prop :=
  ∀ (tag index : Byte) (record : Vector Byte 44) (s : State), s.ready →
    (∀ (i : Fin 8) (c : ClassRec), index.toNat = i.val + 1 → parseClass record.toList = some c → c.allowed index.toNat →
      exec (.classWrite tag index record) s =
        .next ({ s with classes := s.classes.set i (some c) }.withReply 0x90 tag [0])) ∧
    ((index.toNat = 0 ∨ 8 < index.toNat ∨ ∀ c, parseClass record.toList = some c → ¬ c.allowed index.toNat) →
      exec (.classWrite tag index record) s = .next (s.withReply 0x90 tag [2])) ∧
    (∀ i : Fin 8, index.toNat = i.val + 1 →
      exec (.classRead tag index) s = .next (s.withReply 0x91 tag
        ([0, index] ++ match s.classes[i] with
          | none => 0 :: List.replicate 44 0
          | some c => 1 :: classBytes c))) ∧
    (index.toNat = 0 ∨ 8 < index.toNat → exec (.classRead tag index) s = .next (s.withReply 0x91 tag [2])) ∧
    (parseClass record.toList = none ↔
      record[11] = 0 ∨ 4 < record[11].toNat ∨ record[15] = 0 ∨ 4 < record[15].toNat ∨
        ∃ i : Fin 4, i.val < record[15].toNat ∧ (record[16 + i.val] = 0 ∨ 3 < record[16 + i.val].toNat)) ∧
    ∀ c, parseClass record.toList = some c →
      classBytes c = (List.range 44).map fun k =>
        if 16 + (record.toList.getD 15 0).toNat ≤ k ∧ k < 20 then 0 else record.toList.getD k 0

/-- STRATA_WRITE replaces one row of the table, which STRATA_READ then reports as written, or the two steps; TEMP_WRITE replaces the
eight scales; a field out of range refuses the request whole (R28, R44). -/
def Obligations.TablesAreReplacedAsWritten : Prop :=
  (∀ (tag form : Byte) (rest : List Byte) (s : State), s.ready →
     (Instr.strataWrite tag form rest).wellFormed →
     (∀ (r : Fin 16) (band : Byte) (codes : List Byte), form = 1 → rest = band :: codes → band.toNat = r.val →
       (∀ c ∈ codes, c.toNat ≤ 7) →
       ∃ t, exec (.strataWrite tag form rest) s = .next t ∧
         t = { s with strata := t.strata }.withReply 0x92 tag [0] ∧ (∀ k : Fin 16, k ≠ r → t.strata[k] = s.strata[k]) ∧
         (t.strata[r]).toList.map (fun c => byteOf c.code) = codes) ∧
     (∀ rate pressure : Byte, form = 2 → rest = [rate, pressure] → 1 ≤ rate.toNat → rate.toNat ≤ 50 →
       1 ≤ pressure.toNat → pressure.toNat ≤ 30 →
       exec (.strataWrite tag form rest) s =
         .next ({ s with rateStep := rate.toNat, pressureStep := pressure.toNat }.withReply 0x92 tag [0])) ∧
     ((form ≠ 1 ∧ form ≠ 2) ∨
       (form = 1 ∧ ∀ band codes, rest = band :: codes → 15 < band.toNat ∨ ∃ c ∈ codes, 7 < c.toNat) ∨
       (form = 2 ∧ ∀ rate pressure : Byte, rest = [rate, pressure] →
         rate.toNat = 0 ∨ 50 < rate.toNat ∨ pressure.toNat = 0 ∨ 30 < pressure.toNat) →
       exec (.strataWrite tag form rest) s = .next (s.withReply 0x92 tag [2]))) ∧
  (∀ (tag : Byte) (scales : Vector Word 8) (s : State), s.ready →
     exec (.tempWrite tag scales) s =
       .next (if ∀ i : Fin 8, 50 ≤ scales[i].toNat ∧ scales[i].toNat ≤ 300
         then { s with temps := scales.map BitVec.toNat }.withReply 0x94 tag [0] else s.withReply 0x94 tag [2]))

/-- STRATA_READ answers with the rate band, its sixteen classes and the two steps, and changes nothing (R29). -/
def Obligations.StrataReadReportsARow : Prop :=
  ∀ (tag band : Byte) (s : State), s.ready →
    (∀ r : Fin 16, band.toNat = r.val →
      exec (.strataRead tag band) s = .next (s.withReply 0x93 tag
        ([0, band] ++ (s.strata[r]).toList.map (fun c => byteOf c.code) ++ [byteOf s.rateStep, byteOf s.pressureStep]))) ∧
    (15 < band.toNat → exec (.strataRead tag band) s = .next (s.withReply 0x93 tag [2]))

/-! ### Field lines -/

/-- LINE_READ reports every line as it stands, then takes each line's snapshot anew, clears the edge latches and sets a
condition latch again only where its condition holds (R142). That a set latch is a bit 1 is the model's (log 19). The codes are those
of section 10.6. -/
def Obligations.LineReadReportsAndTakesTheSnapshots : Prop :=
  ∀ (tag : Byte) (s : State), s.ready →
    let body : List Byte := 0 :: s.lines.toList.flatMap fun l =>
      [byteOf l.mode.code, byteOf (l.pull.code + 4 * l.sense.code + if l.mask then 32 else 0),
        byteOf ((l.binding.map (·.fn.code)).getD 0), byteOf l.outValue,
        byteOf ((if l.digital then 1 else 0) + (if l.latch then 2 else 0) + if l.snapshot then 4 else 0)] ++
      twoBytes l.analog
    ∃ t, exec (.lineRead tag) s = .next t ∧ settlesAnswered 0x8A tag body (s.withLines t.lines) t ∧
      answered [] 0x8A tag body { s with lines := t.lines } t ∧
      (([.digitalIn, .analogIn, .switchedOut, .proportionalOut] : List LineMode).map (·.code) = [1, 2, 3, 4] ∧
        ([.none, .up, .down] : List Pull).map (·.code) = [1, 2, 3] ∧
        ([.lowLevel, .highLevel, .anyChange, .rising, .falling] : List Sense).map (·.code) = [1, 2, 3, 4, 5] ∧
        (([.feedUp, .feedDown, .rotation, .loader, .feedPosition, .rotationPressure, .deadman, .atHole, .cartridgePass,
          .boltPresent, .rotationPulse, .feedHome] : List BoomFn).map fun f => ((Fn.boom .a f).code, (Fn.boom .b f).code)) =
          [(1, 13), (2, 14), (3, 15), (4, 16), (5, 17), (6, 18), (7, 19), (8, 20), (9, 21), (10, 22), (11, 23),
            (12, 24)] ∧
        ([.canopyUp, .canopyDown, .canopyPressure, .pumpOk, .stopLoop, .temperature] : List Fn).map (·.code) =
          [25, 26, 27, 28, 29, 30]) ∧
      (∀ i : Fin 32,
        t.lines[i] = { s.lines[i] with
          snapshot := s.lines[i].digital
          latch := match s.lines[i].mode, s.lines[i].sense with
            | .analogIn, _ => false
            | _, .lowLevel => !s.lines[i].digital
            | _, .highLevel => s.lines[i].digital
            | _, _ => false }) ∧
      linesRaised s t

/-- LINE_WRITE sets the output value of an unbound output line, whose digital state follows and latches by its sense; every
other line and value is refused as R148 orders it. -/
def Obligations.LineWriteSetsAnUnboundOutput : Prop :=
  ∀ (tag line value : Byte) (s : State), s.ready →
    (line.toNat = 0 ∨ 32 < line.toNat → exec (.lineWrite tag line value) s = .next (s.withReply 0x8B tag [2])) ∧
    ∀ i : Fin 32, line.toNat = i.val + 1 →
      (s.lines[i].mode = .digitalIn ∨ s.lines[i].mode = .analogIn →
        exec (.lineWrite tag line value) s = .next (s.withReply 0x8B tag [1])) ∧
      (s.lines[i].mode.isOut = true → s.lines[i].binding ≠ none →
        exec (.lineWrite tag line value) s = .next (s.withReply 0x8B tag [3])) ∧
      (s.lines[i].mode.isOut = true → s.lines[i].binding = none →
        (s.lines[i].mode = .switchedOut ∧ 1 < value.toNat) ∨ 15 < value.toNat →
        exec (.lineWrite tag line value) s = .next (s.withReply 0x8B tag [2])) ∧
      (s.lines[i].mode.isOut = true → s.lines[i].binding = none → (s.lines[i].mode = .switchedOut → value.toNat ≤ 1) →
        value.toNat ≤ 15 →
        ∃ t, exec (.lineWrite tag line value) s = .next t ∧
          settlesAnswered 0x8B tag [0]
            { s with lines := s.lines.set i { s.lines[i] with outValue := value.toNat } } t ∧
          answered [] 0x8B tag [0] { s with lines := t.lines } t ∧
          t.lines = s.lines.set i { s.lines[i] with
            outValue := value.toNat, digital := 0 < value.toNat, latch := s.lines[i].latchAfter (0 < value.toNat) } ∧
          linesRaised s t)

/-- LINE_CONFIG gives a line its settings. A new mode clears output value, latch and analog value and takes the digital state
and the snapshot anew, which is no edge; a new sense latches at once where its condition holds; a new pull can make an edge at an open
terminal; a bound line keeps its mode (R137, R139, R140). Where one request changes mode and sense, the clearing comes first; where it
changes sense and pull, the new sense is judged on the state before the edge of the new pull, which is then taken with the new sense,
both in one event: the model's choices (log 20). -/
def Obligations.LineConfigGivesALineItsSettings : Prop :=
  ∀ (tag line mode pull sense mask : Byte) (s : State), s.ready →
    let c := Instr.lineConfig tag line mode pull sense mask
    (line.toNat = 0 ∨ 32 < line.toNat ∨ mode.toNat = 0 ∨ 4 < mode.toNat ∨ pull.toNat = 0 ∨ 3 < pull.toNat ∨
        sense.toNat = 0 ∨ 5 < sense.toNat ∨ 1 < mask.toNat → exec c s = .next (s.withReply 0x88 tag [2])) ∧
    ∀ (i : Fin 32) (m : LineMode) (p : Pull) (q : Sense), line.toNat = i.val + 1 → mode.toNat = m.code →
      pull.toNat = p.code → sense.toNat = q.code → mask.toNat ≤ 1 →
      let l := s.lines[i]
      let d := { l with pull := p }.terminalLevel
      (m ≠ l.mode → l.binding ≠ none → exec c s = .next (s.withReply 0x88 tag [3])) ∧
      (m ≠ l.mode → l.binding = none →
        ∃ t, exec c s = .next t ∧ settlesAnswered 0x88 tag [0] (s.withLines t.lines) t ∧
          answered [] 0x88 tag [0] { s with lines := t.lines } t ∧ linesRaised s t ∧
          t.lines = s.lines.set i
            (let n := { l with
              mode := m, pull := p, mask := mask = 1, outValue := 0, latch := false
              analog := if m = LineMode.analogIn then l.term.count else 0
              digital := m = LineMode.digitalIn ∧ d, snapshot := m = LineMode.digitalIn ∧ d }
             { n with sense := q, latch := n.latchedBySense q })) ∧
      (m = l.mode → (m = .digitalIn → d = l.digital) →
        ∃ t, exec c s = .next t ∧ settlesAnswered 0x88 tag [0] (s.withLines t.lines) t ∧
          answered [] 0x88 tag [0] { s with lines := t.lines } t ∧ linesRaised s t ∧
          t.lines = s.lines.set i
            { l with pull := p, sense := q, mask := mask = 1, latch := l.latch || l.latchedBySense q }) ∧
      (m = l.mode → m = .digitalIn → d ≠ l.digital →
        let n := { l with pull := p, sense := q, mask := mask = 1, latch := l.latch || l.latchedBySense q }
        let u := s.withLines (s.lines.set i { n with digital := d, latch := n.latchAfter d })
        ∃ t, exec c s = .next t ∧ linesRaised s t ∧
          settlesAnswered 0x88 tag [0] (match l.binding with | none => u | some b => handEdge b.fn d u) t ∧
          answered [] 0x88 tag [0] { s with lines := t.lines } t ∧ t.lines = u.lines.map (refreshLine t))

/-- LINE_BIND binds a function to a line, rebinds it with a new scaling, or unbinds the line, with the refusals of R144 in
their order and the effects of R145. The modes are those of R143, the state conditions those of R144. Events of an unbound line that
are still on their way are dropped (log 22), an output that drove on makes its falling edge within the binding (log 14), and unbinding
canopy pressure in UNKNOWN sets the settle time to 0 (log 37): the model's choices. -/
def Obligations.LineBindBindsAndUnbinds : Prop :=
  (∀ x : Side,
     ([.feedUp, .feedDown, .rotation, .loader, .feedPosition, .rotationPressure, .deadman, .atHole, .cartridgePass,
       .boltPresent, .rotationPulse, .feedHome] : List BoomFn).map (fun f => (Fn.boom x f).requiredMode) =
       [.proportionalOut, .proportionalOut, .proportionalOut, .switchedOut, .analogIn, .analogIn, .digitalIn, .digitalIn,
         .digitalIn, .digitalIn, .digitalIn, .digitalIn] ∧
     ([.canopyUp, .canopyDown, .canopyPressure, .pumpOk, .stopLoop, .temperature] : List Fn).map (·.requiredMode) =
       [.switchedOut, .switchedOut, .digitalIn, .digitalIn, .digitalIn, .analogIn]) ∧
  (∀ s : State,
     (∀ x f, (bindAllowed s (.boom x f) = true ↔ (s.boom x).phase = .idle) ∧
       (unbindAllowed s (.boom x f) = true ↔ (s.boom x).phase = .idle)) ∧
     (∀ f, f = .canopyUp ∨ f = .canopyDown ∨ f = .canopyPressure →
       (bindAllowed s f = true ↔ s.canopy.state ≠ .raising ∧ s.canopy.state ≠ .lowering) ∧
       (unbindAllowed s f = true ↔ s.canopy.state ≠ .raising ∧ s.canopy.state ≠ .lowering)) ∧
     bindAllowed s .temperature = true ∧ unbindAllowed s .temperature = true ∧
     (∀ f, f = .stopLoop ∨ f = .pumpOk → bindAllowed s f = true ∧
       (unbindAllowed s f = true ↔ (s.boom .a).phase = .idle ∧ (s.boom .b).phase = .idle))) ∧
  (∀ s : State,
     let without (x : Side) (gone : BoomEvent → Bool) (u : State) : State :=
       u.setBoom x { u.boom x with events := (u.boom x).events.filter fun e => !gone e }
     let dropsPump (e : BoomEvent) : Bool := match e with | .pump _ => true | _ => false
     (∀ x,
       dropOnWay (.boom x .deadman) s = without x (fun e => match e with | .deadman _ => true | _ => false) s ∧
       dropOnWay (.boom x .atHole) s = without x (fun e => e == .atHole) s ∧
       dropOnWay (.boom x .cartridgePass) s = without x (fun e => e == .cartridgePass) s ∧
       dropOnWay (.boom x .boltPresent) s = without x (fun e => e == .boltPresent) s ∧
       dropOnWay (.boom x .rotationPulse) s = without x (fun e => e == .rotationPulse) s ∧
       dropOnWay (.boom x .feedHome) s = without x (fun e => e == .feedHome) s ∧
       dropOnWay (.boom x .feedPosition) s = without x (fun e => match e with | .feedPosition _ => true | _ => false) s ∧
       dropOnWay (.boom x .rotationPressure) s =
         without x (fun e => match e with | .rotationPressure _ => true | _ => false) s) ∧
     dropOnWay .pumpOk s =
       without .b dropsPump (without .a dropsPump { s with arbiter := { s.arbiter with events := [] } }) ∧
     dropOnWay .canopyPressure s =
       { s with canopy := { s.canopy with events := s.canopy.events.filter fun e => e == .stopLoop } } ∧
     ∀ f, f ∈ ([.canopyUp, .canopyDown, .stopLoop, .temperature] : List Fn) ∨
         (∃ x, f ∈ ([.boom x .feedUp, .boom x .feedDown, .boom x .rotation, .boom x .loader] : List Fn)) →
       dropOnWay f s = s) ∧
  ∀ (tag line fn : Byte) (full : Word) (off span : Byte) (s : State), s.ready →
    let c := Instr.lineBind tag line fn full off span
    (line.toNat = 0 ∨ 32 < line.toNat ∨ 30 < fn.toNat → exec c s = .next (s.withReply 0x89 tag [2])) ∧
    (∀ i : Fin 32, line.toNat = i.val + 1 → fn.toNat = 0 →
      (s.lines[i].binding = none → exec c s = .next (s.withReply 0x89 tag [0])) ∧
      ∀ b, s.lines[i].binding = some b →
        (unbindAllowed s b.fn = false → exec c s = .next (s.withReply 0x89 tag [1])) ∧
        (unbindAllowed s b.fn = true →
          let u := dropOnWay b.fn { s with lines := s.lines.set i { s.lines[i] with binding := none, outValue := 0 } }
          ∃ t, exec c s = .next t ∧
            t.lines = (s.lines.set i { s.lines[i] with binding := none, outValue := 0 }).map (refreshLine t) ∧
            answered [.pump] 0x89 tag [0] { s with lines := t.lines } t ∧ linesRaised s t ∧
            settlesAnswered 0x89 tag [0]
              (match b.fn with
               | .canopyPressure =>
                 if s.canopy.state = .set ∨ s.canopy.state = .lost ∨ s.canopy.state = .lowered
                 then canopyTo .unknown { u with canopy := { u.canopy with settleTime := 0 } }
                 else if s.canopy.state = .unknown then { u with canopy := { u.canopy with settleTime := 0 } } else u
               | .pumpOk => if s.arbiter.view = .ok then viewFalls u else u
               | .stopLoop => { u with holding := false }
               | _ => u) t)) ∧
    ∀ (i : Fin 32) (f : Fn), line.toNat = i.val + 1 → fn.toNat = f.code →
      let l := s.lines[i]
      (scalingGiven f full off span = none ∨ f.requiredMode ≠ l.mode → exec c s = .next (s.withReply 0x89 tag [2])) ∧
      ∀ sc, scalingGiven f full off span = some sc → f.requiredMode = l.mode →
        ((∃ b, l.binding = some b ∧ b.fn ≠ f) → exec c s = .next (s.withReply 0x89 tag [3])) ∧
        (l.binding = none → s.bound f = true → exec c s = .next (s.withReply 0x89 tag [1])) ∧
        ((l.binding = none ∧ s.bound f = false) ∨ (∃ b, l.binding = some b ∧ b.fn = f) → bindAllowed s f = false →
          exec c s = .next (s.withReply 0x89 tag [1])) ∧
        ((∃ b, l.binding = some b ∧ b.fn = f) → bindAllowed s f = true →
          exec c s = .next ({ s with lines := s.lines.set i { l with binding := some ⟨f, sc⟩ } }.withReply 0x89 tag [0])) ∧
        (l.binding = none → s.bound f = false → bindAllowed s f = true →
          let u : State := { s with lines := s.lines.set i { l with binding := some ⟨f, sc⟩, outValue := 0 } }
          ∃ t, exec c s = .next t ∧
            t.lines = (s.lines.set i { l with binding := some ⟨f, sc⟩, outValue := 0 }).map (refreshLine t) ∧
            answered [] 0x89 tag [0] { s with lines := t.lines } t ∧ linesRaised s t ∧
            settlesAnswered 0x89 tag [0]
              (match f with
               | .canopyPressure =>
                 if s.canopy.state = .unknown ∧ l.digital = false
                 then { u with canopy := { s.canopy with state := .lowered, settleTime := 0 } } else u
               | .pumpOk => if l.digital then grantCheck { u with arbiter := { s.arbiter with view := .ok } } else u
               | .stopLoop => if l.digital then u else openStopLoop u
               | _ => u) t)

/-- DIGITAL_EDGE: a DIGITAL_IN line reads the level presented, or at an open terminal its pull; a change latches by the sense and is
handed to the owners of its function, where an opening of the stop loop reaches the field line unit, the canopy and both booms,
and its closing ends the holding alone (R137, R140, R143, R145, R149). ANALOG_CHANGE: an ANALOG_IN line takes the count, and a bound
feed position or rotation pressure is handed to its boom as count × full scale / 1023, rounded down (R138, R146). In another mode
nothing is seen. A rule that reads a function reads its line as it stands: the model's reading (log 26). -/
def Obligations.TerminalChangesAreReadAndHandedOn : Prop :=
  (∀ s : State, s.bindingsSound →
     (∀ (i : Fin 32) (b : Binding), s.lines[i].binding = some b →
       s.lineOf b.fn = some s.lines[i] ∧ s.bound b.fn = true ∧ s.reads1 b.fn = s.lines[i].digital ∧
         (∀ x n, b = ⟨.boom x .feedPosition, .full n⟩ → s.feedPos x = s.lines[i].analog * n / 1023) ∧
         ∀ x n, b = ⟨.boom x .rotationPressure, .full n⟩ → s.rotPressure x = s.lines[i].analog * n / 1023) ∧
     (∀ f : Fn, (∀ (i : Fin 32) (b : Binding), s.lines[i].binding = some b → b.fn ≠ f) → s.bound f = false) ∧
     (s.loopOpen = true ↔ s.bound .stopLoop = true ∧ s.reads1 .stopLoop = false)) ∧
  (∀ (i : Fin 32) (level isOpen : Bool) (s : State), s.settled →
     let l := { s.lines[i] with term := { s.lines[i].term with level := level, isOpen := isOpen } }
     let d := if isOpen then (match l.pull with | .up => true | .down => false | .none => level) else level
     (l.mode ≠ .digitalIn ∨ d = l.digital →
       exec (.digitalEdge i level isOpen) s = .next { s with lines := s.lines.set i l }) ∧
     (l.mode = .digitalIn → d ≠ l.digital →
       let u := s.withLines (s.lines.set i { l with digital := d, latch := l.latchAfter d })
       ∃ t, exec (.digitalEdge i level isOpen) s = .next t ∧ linesRaised s t ∧ t.lines = u.lines.map (refreshLine t) ∧
         settlesTo (match l.binding with | none => u | some b => handEdge b.fn d u) t ∧
         surround [] { s with lines := t.lines } t)) ∧
  (∀ (x : Side) (high : Bool) (s : State),
     let give (y : Side) (e : BoomEvent) (u : State) : State :=
       u.setBoom y { u.boom y with events := (u.boom y).events ++ [e] }
     let canopyTakes (e : CanopyEvent) (u : State) : State :=
       { u with canopy := { u.canopy with events := u.canopy.events ++ [e] } }
     handEdge (.boom x .deadman) high s = give x (.deadman high) s ∧
     handEdge (.boom x .atHole) high s = (if high then give x .atHole s else s) ∧
     handEdge (.boom x .cartridgePass) high s = (if high then give x .cartridgePass s else s) ∧
     handEdge (.boom x .boltPresent) high s = (if high then give x .boltPresent s else s) ∧
     handEdge (.boom x .rotationPulse) high s = (if high then give x .rotationPulse s else s) ∧
     handEdge (.boom x .feedHome) high s = (if high then give x .feedHome s else s) ∧
     handEdge .canopyPressure high s = canopyTakes (.pressure high) s ∧
     handEdge .pumpOk high s =
       give .b (.pump high) (give .a (.pump high)
         { s with arbiter := { s.arbiter with events := s.arbiter.events ++ [high] } }) ∧
     handEdge .stopLoop true s = { s with holding := false } ∧
     handEdge .stopLoop false s = openStopLoop s ∧
     openStopLoop s =
       give .b .stopLoop (give .a .stopLoop (canopyTakes .stopLoop { s with stopOpenings := s.stopOpenings + 1 }))) ∧
  (∀ (i : Fin 32) (count : BitVec 10) (s : State), s.settled →
     let l := { s.lines[i] with term := { s.lines[i].term with count := count.toNat } }
     (l.mode ≠ .analogIn ∨ count.toNat = l.analog →
       exec (.analogChange i count) s = .next { s with lines := s.lines.set i l }) ∧
     (l.mode = .analogIn → count.toNat ≠ l.analog →
       let t := { s with lines := s.lines.set i { l with analog := count.toNat } }
       (∀ x f, l.binding = some ⟨.boom x .feedPosition, .full f⟩ →
         exec (.analogChange i count) s = .next (t.setBoom x
           { s.boom x with events := (s.boom x).events ++ [.feedPosition (count.toNat * f / 1023)] })) ∧
       (∀ x f, l.binding = some ⟨.boom x .rotationPressure, .full f⟩ →
         exec (.analogChange i count) s = .next (t.setBoom x
           { s.boom x with events := (s.boom x).events ++ [.rotationPressure (count.toNat * f / 1023)] })) ∧
       ((∀ x f, l.binding ≠ some ⟨.boom x .feedPosition, f⟩ ∧ l.binding ≠ some ⟨.boom x .rotationPressure, f⟩) →
         exec (.analogChange i count) s = .next t)))

/-- STOP_LOOP_OPEN: the field line unit sets STOP_LOOP and drives every bound output line at 0 while the loop is open, whatever
its output value; unbound lines go on (R149, R110). Where the loop has closed since, the lines fall and the holding has ended again
(log 23). -/
def Obligations.StopLoopOpeningDrivesBoundOutputsToZero : Prop :=
  ∀ s : State, s.settled → s.bindingsSound → 0 < s.stopOpenings →
    let u := raiseFlag .stopLoop none none 0 { s with stopOpenings := s.stopOpenings - 1, holding := true }
    ∃ t, exec .stopLoopOpen s = .next t ∧ surround [.stopLoop] { s with lines := t.lines } t ∧ linesKept s t ∧
      settlesTo { u.withLines (u.lines.map (refreshLine u)) with holding := s.loopOpen } t ∧
      ∀ i : Fin 32,
        (s.lines[i].binding = none ∨ s.lines[i].mode.isOut = false → t.lines[i] = s.lines[i]) ∧
        (s.loopOpen = true → s.lines[i].mode.isOut = true → s.lines[i].binding ≠ none → t.lines[i].digital = false) ∧
        ∃ d x, t.lines[i] = { s.lines[i] with digital := d, latch := x }

/-! ### The pattern table -/

/-- PATTERN_DEFINE stores window, walks and clearance, empties grid and tally and sets both cursors before start, while both
booms are IDLE (R4). -/
def Obligations.PatternDefineEmptiesTheGrid : Prop :=
  ∀ (tag xs xe ys ye oA xA yA oB xB yB clr : Byte) (s : State), s.ready →
    let c := Instr.patternDefine tag xs xe ys ye oA xA yA oB xB yB clr
    (xs.toNat = 0 ∨ 8 < xs.toNat ∨ xe.toNat = 0 ∨ 8 < xe.toNat ∨ ys.toNat = 0 ∨ 12 < ys.toNat ∨ ye.toNat = 0 ∨
        12 < ye.toNat ∨ xe.toNat < xs.toNat ∨ ye.toNat < ys.toNat ∨ oA.toNat = 0 ∨ 2 < oA.toNat ∨ oB.toNat = 0 ∨
        2 < oB.toNat ∨ 1 < xA.toNat ∨ 1 < yA.toNat ∨ 1 < xB.toNat ∨ 1 < yB.toNat ∨ 3 < clr.toNat →
      exec c s = .next (s.withReply 0x98 tag [2])) ∧
    ∀ (lo hi : Pos), xs.toNat = lo.col.val + 1 → xe.toNat = hi.col.val + 1 → ys.toNat = lo.row.val + 1 →
      ye.toNat = hi.row.val + 1 → lo.col ≤ hi.col → lo.row ≤ hi.row → (oA = 1 ∨ oA = 2) → (oB = 1 ∨ oB = 2) →
      xA.toNat ≤ 1 → yA.toNat ≤ 1 → xB.toNat ≤ 1 → yB.toNat ≤ 1 → clr.toNat ≤ 3 →
      exec c s = .next (if s.boomA.phase ≠ .idle ∨ s.boomB.phase ≠ .idle then s.withReply 0x98 tag [1]
        else { s with
          pattern := some ⟨lo.col, hi.col, lo.row, hi.row, ⟨if oA = 1 then .row else .column, xA = 1, yA = 1⟩,
            ⟨if oB = 1 then .row else .column, xB = 1, yB = 1⟩, clr.toNat⟩
          cells := .replicate 96 ⟨.off, 0, none, 0, none, none, none, false⟩
          tally := ⟨0, 0, 0, 0, 0, 0, 0, 0, 0, 0, 0, 0, 0⟩
          complete := false
          boomA := { s.boomA with cursor := none }
          boomB := { s.boomB with cursor := none } }.withReply 0x98 tag [0])

/-- CELL_MARK plans or clears a rectangle whole or not at all, with the checks of R5 in their order; a FAILED cell planned again
gains an attempt; planned cells clear the completion mark; booms in SEEK_WAIT seek again and the completion check follows
(R5 to R7). -/
def Obligations.CellMarkPlansARectangle : Prop :=
  ∀ (tag x1 x2 y1 y2 cls : Byte) (s : State), s.ready →
    let c := Instr.cellMark tag x1 x2 y1 y2 cls
    (s.pattern = none → exec c s = .next (s.withReply 0x99 tag [1])) ∧
    ∀ p, s.pattern = some p →
      (x1.toNat = 0 ∨ 8 < x1.toNat ∨ x2.toNat = 0 ∨ 8 < x2.toNat ∨ y1.toNat = 0 ∨ 12 < y1.toNat ∨ y2.toNat = 0 ∨
          12 < y2.toNat ∨ x2.toNat < x1.toNat ∨ y2.toNat < y1.toNat ∨ 8 < cls.toNat →
        exec c s = .next (s.withReply 0x99 tag [2])) ∧
      ∀ lo hi : Pos, x1.toNat = lo.col.val + 1 → x2.toNat = hi.col.val + 1 → y1.toNat = lo.row.val + 1 →
        y2.toNat = hi.row.val + 1 → lo.col ≤ hi.col → lo.row ≤ hi.row → cls.toNat ≤ 8 →
        let inside (q : Pos) : Prop := lo.col ≤ q.col ∧ q.col ≤ hi.col ∧ lo.row ≤ q.row ∧ q.row ≤ hi.row
        let outOfWindow := ∃ q, inside q ∧ ¬ (p.xs ≤ q.col ∧ q.col ≤ p.xe ∧ p.ys ≤ q.row ∧ q.row ≤ p.ye)
        let inUse := ∃ q, inside q ∧ ((s.cell q).state = .claimed ∨ (s.cell q).state = .working ∨
          (s.cell q).state = .done ∨ (cls = 0 ∧ (s.cell q).state = .failed))
        let noClass := cls ≠ 0 ∧ classAt s.classes cls.toNat = none
        let worn := cls ≠ 0 ∧ ∃ q, inside q ∧ (s.cell q).state = .failed ∧ 3 ≤ (s.cell q).attempts
        (outOfWindow → exec c s = .next (s.withReply 0x99 tag [2])) ∧
        (¬ outOfWindow → inUse → exec c s = .next (s.withReply 0x99 tag [1])) ∧
        (¬ outOfWindow → ¬ inUse → noClass ∨ worn → exec c s = .next (s.withReply 0x99 tag [2])) ∧
        (¬ outOfWindow → ¬ inUse → ¬ noClass → ¬ worn →
          ∃ u t, exec c s = .next t ∧
            u = { s with cells := u.cells, complete := if cls = 0 then s.complete else false } ∧
            (∀ q, ¬ inside q → u.cell q = s.cell q) ∧
            (∀ q, inside q → u.cell q =
              if cls = 0 then ⟨.off, 0, none, (s.cell q).attempts, none, none, none, (s.cell q).detailLost⟩
              else ⟨.planned, cls.toNat, none,
                if (s.cell q).state = .failed then (s.cell q).attempts + 1 else (s.cell q).attempts,
                none, none, none, (s.cell q).detailLost⟩) ∧
            endsAnswered [.patternDone] 0x99 tag [0] s (completionCheck (reseekBoth u)) t)

/-- CELL_READ answers with the cell's fields, absent ones as 0, and changes nothing (R8). That the detail-lost mark is sent as 1 when
set and 0 when clear is the model's (log 19). -/
def Obligations.CellReadReportsTheCell : Prop :=
  ∀ (tag x y : Byte) (s : State), s.ready →
    (x.toNat = 0 ∨ 8 < x.toNat ∨ y.toNat = 0 ∨ 12 < y.toNat →
      exec (.cellRead tag x y) s = .next (s.withReply 0x9A tag [2])) ∧
    ∀ q : Pos, x.toNat = q.col.val + 1 → y.toNat = q.row.val + 1 →
      let c := s.cell q
      exec (.cellRead tag x y) s = .next (s.withReply 0x9A tag
        ([0, x, y, match s.pattern with
          | none => 0
          | some p => if p.xs ≤ q.col ∧ q.col ≤ p.xe ∧ p.ys ≤ q.row ∧ q.row ≤ p.ye then 1 else 0,
          byteOf c.state.code, byteOf c.classIdx,
          byteOf ((if c.boom.isSome then 1 else 0) + if c.outcome.isSome then 2 else 0),
          match c.boom with | none => 0 | some .a => 1 | some .b => 2, byteOf c.attempts,
          byteOf ((c.outcome.map HoleOutcome.code).getD 0)] ++
          twoBytes (c.finalDepth.getD 0) ++ twoBytes (c.torque.getD 0) ++ [if c.detailLost then 1 else 0]))

/-- SKIP makes a PLANNED cell SKIPPED, or gives up the selected boom's own claim, which seeks again; where the other boom is in
SEEK_WAIT either seek may come first (a free value, log 11); every other cell refuses it (R9, R107, R175). -/
def Obligations.SkipTakesAPlannedCellOrAClaim : Prop :=
  ∀ (tag boom x y : Byte) (s : State), s.ready →
    let c := Instr.skip tag boom x y
    ((boom ≠ 1 ∧ boom ≠ 2) ∨ x.toNat = 0 ∨ 8 < x.toNat ∨ y.toNat = 0 ∨ 12 < y.toNat →
      exec c s = .next (s.withReply 0xA9 tag [2])) ∧
    ∀ (side : Side) (q : Pos), boom = (match side with | .a => 1 | .b => 2) → x.toNat = q.col.val + 1 →
      y.toNat = q.row.val + 1 →
      (s.pattern = none → exec c s = .next (s.withReply 0xA9 tag [1])) ∧
      ∀ p, s.pattern = some p →
        let inside := p.xs ≤ q.col ∧ q.col ≤ p.xe ∧ p.ys ≤ q.row ∧ q.row ≤ p.ye
        (¬ inside → exec c s = .next (s.withReply 0xA9 tag [2])) ∧
        (inside →
          let counted := { s with tally := { s.tally with skipped := min (s.tally.skipped + 1) 65535 } }
          ((s.cell q).state = .planned →
            ∃ t, exec c s = .next t ∧ endsAnswered [.patternDone] 0xA9 tag [0] s
              (completionCheck (reseekBoth (counted.setCell q { s.cell q with state := .skipped, boom := none }))) t) ∧
          ((s.cell q).state = .claimed → (s.cell q).boom = some side →
            ∃ n v t, exec c s = .next t ∧
              (let u := completionCheck (endContext side (counted.setCell q { s.cell q with state := .skipped }))
               v = seek side { u with freeCount := n } ∨ v = seek side (reseek side.other { u with freeCount := n })) ∧
              endsAnswered [.patternDone] 0xA9 tag [0] s (completionCheck (reseekBoth v)) t) ∧
          ((s.cell q).state ≠ .planned → ¬ ((s.cell q).state = .claimed ∧ (s.cell q).boom = some side) →
            exec c s = .next (s.withReply 0xA9 tag [1])))

/-- A walk holds every window cell once: in ROW order position i stands i mod w columns and i div w rows from its start, in
COLUMN order i div h columns and i mod h rows, each direction reversed by its mirror (R10). A seek begins after the cursor,
wraps, and visits the cursor's own position last (R12). -/
def Obligations.WalksAndSeeksVisitTheWindowInOrder : Prop :=
  (∀ (p : PatternDef) (x : Side), p.xs ≤ p.xe → p.ys ≤ p.ye →
    let w := p.xe.val - p.xs.val + 1
    let h := p.ye.val - p.ys.val + 1
    (p.walkCells x).length = w * h ∧ (p.walkCells x).Nodup ∧
      ∀ (i : Nat) (q : Pos), (p.walkCells x)[i]? = some q →
        let dx := if (p.walk x).order = .row then i % w else i / h
        let dy := if (p.walk x).order = .row then i / w else i % h
        q.col.val = (if (p.walk x).mirrorX then p.xe.val - dx else p.xs.val + dx) ∧
          q.row.val = (if (p.walk x).mirrorY then p.ye.val - dy else p.ys.val + dy)) ∧
  ∀ (walk : List Pos) (k i : Nat) (q : Pos), walk.Nodup → walk[k]? = some q → i < walk.length →
    seekOrder walk none = walk ∧ (seekOrder walk (some q)).length = walk.length ∧
      (seekOrder walk (some q))[i]? = walk[(k + 1 + i) % walk.length]?

/-- A seek claims the first PLANNED cell of its order that is not within the clearance of the other boom's cell, with a fresh hole
context from the class record as it stands; having met only blocked PLANNED cells it ends in SEEK_WAIT; having met none, in IDLE
with a completion check. A claim is an event for another boom in SEEK_WAIT (R12 to R16, R26, R52). A re-seek is the seek of a boom
in SEEK_WAIT and leaves a boom in any other state as it is; CELL_MARK and SKIP make one for each boom, where both wait in either
order (R7, R9, R15, R16; log 11). The completion check sets the completion mark and PATTERN_DONE where a window cell is not OFF and none is
PLANNED, CLAIMED or WORKING (R20). -/
def Obligations.SeeksClaimTheFirstFreeCellAndChecksFindCompletion : Prop :=
  (∀ (x : Side) (s : State) (p : PatternDef), s.pattern = some p →
     let order := seekOrder (p.walkCells x) (s.boom x).cursor
     let planned (q : Pos) : Prop := (s.cell q).state = .planned
     let blocked (q : Pos) : Prop := ∃ o, (s.boom x.other).ctx = some o ∧
       q.col.val ≤ o.pos.col.val + p.clearance ∧ o.pos.col.val ≤ q.col.val + p.clearance ∧
       q.row.val ≤ o.pos.row.val + p.clearance ∧ o.pos.row.val ≤ q.row.val + p.clearance
     (∀ (pre post : List Pos) (q : Pos) (r : ClassRec), order = pre ++ q :: post → planned q → ¬ blocked q →
       (∀ o ∈ pre, planned o → blocked o) → classAt s.classes (s.cell q).classIdx = some r →
       let h := newContext q (s.cell q).classIdx r
       seek x s =
         (let u := (s.setCell q { s.cell q with state := .claimed, boom := some x }).setBoom x { s.boom x with
             phase := .positioning, cursor := some q, ctx := some h, reseekDue := false }
          if (s.boom x.other).phase = .seekWait then u.setBoom x.other { s.boom x.other with reseekDue := true } else u) ∧
       h.pos = q ∧ h.snapIdx = (s.cell q).classIdx ∧ h.snap = r ∧ h.targetDepth = r.target ∧
       h.required = r.cartridges ∧ h.nextIdx = 1 ∧ h.origClass = none ∧ h.atHole = false ∧ h.depth = 0 ∧
       h.steelCount = 1 ∧ h.incCount = 0 ∧ h.runs = [] ∧ h.truncated = false ∧ h.stallCount = 0 ∧ h.extensions = 0 ∧
       h.substituted = false ∧ h.hostDecided = false ∧ h.acceptedWeak = false ∧ h.weakLength = 0 ∧
       h.inFlight = none ∧ h.inserted = [] ∧ h.jamCount = 0 ∧ h.tempBand = none ∧ h.resin = none ∧ h.gel = none ∧
       h.tensionOffset = none ∧ h.spinElapsed = 0 ∧ h.torque = 0 ∧ h.turns = 0 ∧ h.suspensions = 0 ∧
       h.fault = none ∧ h.outcome = none) ∧
     ((∃ q ∈ order, planned q) → (∀ q ∈ order, planned q → blocked q) →
       seek x s = s.setBoom x { s.boom x with phase := .seekWait, reseekDue := false }) ∧
     ((∀ q ∈ order, ¬ planned q) →
       seek x s = completionCheck (s.setBoom x { s.boom x with
         phase := .idle, started := false, stopPending := false, holds := .empty, waitReason := none,
         reseekDue := false }))) ∧
  (∀ s : State,
     let inside (q : Pos) : Prop :=
       ∃ p, s.pattern = some p ∧ p.xs ≤ q.col ∧ q.col ≤ p.xe ∧ p.ys ≤ q.row ∧ q.row ≤ p.ye
     let found := s.complete = false ∧ (∃ q, inside q ∧ (s.cell q).state ≠ .off) ∧
       ∀ q, inside q → (s.cell q).state ≠ .planned ∧ (s.cell q).state ≠ .claimed ∧ (s.cell q).state ≠ .working
     (found → completionCheck s = raiseFlag .patternDone none none 0 { s with complete := true }) ∧
     (¬ found → completionCheck s = s)) ∧
  (∀ (x : Side) (s : State),
     ((s.boom x).phase = .seekWait → reseek x s = seek x s) ∧ ((s.boom x).phase ≠ .seekWait → reseek x s = s) ∧
     ((s.boom .a).phase = .seekWait → (s.boom .b).phase ≠ .seekWait → reseekBoth s = seek .a s) ∧
     ((s.boom .a).phase ≠ .seekWait → (s.boom .b).phase = .seekWait → reseekBoth s = seek .b s) ∧
     ((s.boom .a).phase ≠ .seekWait → (s.boom .b).phase ≠ .seekWait → reseekBoth s = s) ∧
     ((s.boom .a).phase = .seekWait → (s.boom .b).phase = .seekWait →
       reseekBoth s = reseek .b (seek .a s) ∨ reseekBoth s = reseek .a (seek .b s))) ∧
  ∀ classes : Vector (Option ClassRec) 8,
    (∀ i : Fin 8, classAt classes (i.val + 1) = classes[i]) ∧ ∀ n, n = 0 ∨ 8 < n → classAt classes n = none

/-! ### The shared events of a hole -/

/-- A released claim returns its cell to PLANNED and ends the context; a hole end hands outcome, contributions and record on and
ends the context; both are events for another boom in SEEK_WAIT (R18, R19, R91, R106, R109, R156). A record placed in an EMPTY slot
makes it HELD and sets HOLE_DONE; over another record it is an overrun, which marks the old record's cell and sets OVERRUN (R152,
R153). -/
def Obligations.ClaimsAndHolesEndWithTheirContext : Prop :=
  (∀ (x : Side) (c : HoleCtx) (o : HoleOutcome) (s : State),
     let noted (u : State) : State :=
       if (u.boom x.other).phase = .seekWait then u.setBoom x.other { u.boom x.other with reseekDue := true } else u
     let ended (u : State) : State := u.setBoom x { u.boom x with
       ctx := none, base := none, holdEnd := none, waitReason := none, suspendedPhase := none, backOff := false,
       stallTime := 0, port := (u.boom x).port.drop }
     let one (k : HoleOutcome) : Nat := if o = k then 1 else 0
     ((s.boom x).ctx = some c →
       releaseClaim x s = noted (ended (s.setCell c.pos { s.cell c.pos with state := .planned, boom := none }))) ∧
     handHole x c o s = noted (ended (placeRecord x { c.toHoleData with outcome := some o } (completionCheck
       { s.setCell c.pos { s.cell c.pos with
           state := if o = .installed ∨ o = .installedMarked then .done else .failed
           outcome := some o, finalDepth := some c.depth, torque := some c.torque } with
         tally :=
           { installed := s.tally.installed + one .installed
             installedMarked := s.tally.installedMarked + one .installedMarked
             untensioned := s.tally.untensioned + one .untensioned
             spinThrough := s.tally.spinThrough + one .spinThrough
             abandoned := s.tally.abandoned + one .abandoned
             resinLost := s.tally.resinLost + one .resinLost
             stopped := s.tally.stopped + one .stopped
             skipped := s.tally.skipped
             inserted := s.tally.inserted + c.inserted.length
             lostToJams := s.tally.lostToJams + c.jamCount
             substitutions := s.tally.substitutions + if c.substituted then 1 else 0
             extensions := s.tally.extensions + c.extensions
             metres := s.tally.metres + c.depth } }))) ∧
     endContext x s = ended s ∧
     (∀ p : FlowPort, (∀ d m t, p.ask d m t = ⟨.waiting t, p.outbox ++ [.request d m t], p.inbox⟩) ∧
       (∀ t, p.view = .held t ∨ p.view = .waiting t → p.drop = ⟨.none, p.outbox ++ [.release t], p.inbox⟩) ∧
       (p.view = .none ∨ p.view = .free → p.drop = ⟨.none, p.outbox, p.inbox⟩))) ∧
  (∀ (x : Side) (d : HoleData) (s : State),
     (s.slot x = none →
       placeRecord x d s = raiseFlag (.holeDone x) (some x) (some d.pos) 0 (s.setSlot x (some ⟨false, ⟨x, d⟩⟩))) ∧
     ∀ old, s.slot x = some old →
       let q := old.record.data.pos
       placeRecord x d s = raiseFlag (.overrun x) (some x) (some q) 0
         ((s.setCell q { s.cell q with detailLost := true }).setSlot x (some ⟨false, ⟨x, d⟩⟩)))

/-- A retraction of RELEASING ends the hole in a seek, or in IDLE with a stop pending; one of ABORTING ends it in HALTED with its
HALT flag, and a pending stop then leads to IDLE; the stop loop and a second failure end it where it stands, in STOPPED (R51, R91,
R106, R109, R112). -/
def Obligations.HoleEndsLeadOn : Prop :=
  ∀ (x : Side) (c : HoleCtx) (o : HoleOutcome) (s : State), (s.boom x).ctx = some c →
    let u := handHole x c (c.outcome.getD o) s
    let reason := match c.fault with | some f => f.code | none => (c.outcome.getD o).code
    let idle (v : State) : State := v.setBoom x { v.boom x with
      phase := .idle, started := false, stopPending := false, holds := .empty, waitReason := none, reseekDue := false }
    let halted := raiseFlag (.halt x) (some x) (some c.pos) reason (u.setBoom x { u.boom x with phase := .halted })
    ((s.boom x).stopPending = true → o = .abandoned → releaseDone x s = idle u ∧ abortDone x s = idle halted) ∧
    ((s.boom x).stopPending = false → o = .abandoned →
      abortDone x s = halted ∧
      ∃ n, releaseDone x s = seek x { u with freeCount := n } ∨
        ((u.boom x.other).phase = .seekWait ∧ releaseDone x s = seek x (reseek x.other { u with freeCount := n }))) ∧
    stopHole x o s = raiseFlag (.halt x) (some x) (some c.pos) reason (u.setBoom x { u.boom x with
      phase := .stopped, holds := .empty, stopPending := false, waitReason := none, suspendedPhase := none,
      reseekDue := false }) ∧
    ∀ f, secondFailure x f s = stopHole x .abandoned (s.setBoom x { s.boom x with ctx := some { c with fault := some f } })

/-- A motion entered with no hold reason asks for its demand; at demand 0 it begins on entry: the base feed position is taken, feed
home is read, the spin starts, torquing begins, its torque computed there by the model's choice (log 39). With a reason present the
boom is SUSPENDED before any request. RELEASING and ABORTING ask whatever the reasons; ABORTING with feed home at 1 ends at once
(R47, R55, R57, R62, R65, R79, R85, R90, R96, R104). A move after an assessment enters DRILLING, STEEL_CHANGE, RETRACTING or
DECISION_WAIT with WAIT (R33, R39); where a wait ends in a DRILLING without demand, a reach past the depth is judged at the entry:
the model's choice (log 18). INSERTING is entered with its first selection (R66, R72, R73). -/
def Obligations.MotionsAskForTheirDemand : Prop :=
  ∀ (x : Side) (c : HoleCtx) (s : State), (s.boom x).ctx = some c →
    let b := s.boom x
    let r := c.snap.retractDemand
    let asks (u : Boom) (m : Motion) (d : Nat) : State :=
      { s.setBoom x { u with port := u.port.ask d m s.ticket } with ticket := s.ticket + 1 }
    let free (u : Boom) : Boom := { u with port := { u.port with view := .free } }
    let dropped : Boom := { b with port := b.port.drop, stallTime := 0 }
    let drilling : Boom := { b with phase := .drilling, progressTime := 0, backOff := false, waitReason := none }
    let steel : Boom := { dropped with phase := .steelChange, retractTime := 0, backOff := false, waitReason := none }
    let retracting : Boom := { dropped with phase := .retracting, retractTime := 0, backOff := false, waitReason := none }
    let releasing : Boom :=
      { dropped with phase := .releasing, waitReason := none, suspendedPhase := none, retractTime := 0 }
    let aborting (o : HoleOutcome) (f : Option FaultCode) : Boom :=
      { dropped with
        phase := .aborting, waitReason := none, suspendedPhase := none, retractTime := 0, backOff := false
        ctx := some { c with outcome := some o, fault := if f = none then c.fault else f } }
    (b.holds = .empty →
      (c.snap.drillDemand ≠ 0 → enterDrilling x s = asks drilling .drill c.snap.drillDemand) ∧
      (r ≠ 0 → enterSteelChange x s = asks steel .retract r ∧ enterRetracting x s = asks retracting .retract r) ∧
      (c.snap.spinDemand ≠ 0 →
        enterSpinning x s = asks { b with phase := .spinning, waitReason := none } .spin c.snap.spinDemand) ∧
      (c.snap.torqueDemand ≠ 0 → ({ b with phase := .torquing } : Boom).late = false →
        enterTorquing x s = asks { b with phase := .torquing } .torque c.snap.torqueDemand) ∧
      (c.snap.drillDemand = 0 → enterDrilling x s = s.setBoom x { free drilling with
        base := match b.base with | some ⟨d, none⟩ => some ⟨d, some (s.feedPos x)⟩ | o => o }) ∧
      (r = 0 → s.reads1 (.boom x .feedHome) = false →
        enterSteelChange x s = s.setBoom x (free steel) ∧ enterRetracting x s = s.setBoom x (free retracting)) ∧
      (r = 0 → s.reads1 (.boom x .feedHome) = true →
        enterSteelChange x s = raiseFlag (.wait x) (some x) (some c.pos) 1
          (s.setBoom x { steel with waitReason := some .addSteel }) ∧
        enterRetracting x s = raiseFlag (.wait x) (some x) (some c.pos) 2
          (s.setBoom x { retracting with phase := .holeOpen, waitReason := some .clearHole })) ∧
      (c.snap.spinDemand = 0 →
        enterSpinning x s = startSpin x (s.setBoom x (free { b with phase := .spinning, waitReason := none }))) ∧
      (c.snap.torqueDemand = 0 → ({ b with phase := .torquing } : Boom).late = false →
        enterTorquing x s = torqueBegins x (s.setBoom x (free { b with phase := .torquing })))) ∧
    (b.holds = .empty →
      enterInserting x s = selectCartridge x (s.setBoom x { b with phase := .inserting, waitReason := none })) ∧
    (b.holds ≠ .empty →
      enterDrilling x s = suspend x (s.setBoom x drilling) ∧ enterSteelChange x s = suspend x (s.setBoom x steel) ∧
      enterRetracting x s = suspend x (s.setBoom x retracting) ∧
      enterInserting x s = suspend x (s.setBoom x { b with phase := .inserting, waitReason := none }) ∧
      enterSpinning x s = suspend x (s.setBoom x { b with phase := .spinning, waitReason := none }) ∧
      (({ b with phase := .torquing } : Boom).late = false →
        enterTorquing x s = suspend x (s.setBoom x { b with phase := .torquing }))) ∧
    (r ≠ 0 → enterReleasing x s = asks releasing .retract r) ∧
    (∀ o f, (s.reads1 (.boom x .feedHome) = true →
        enterAborting x o f s = abortDone x (s.setBoom x (aborting o f))) ∧
      (s.reads1 (.boom x .feedHome) = false → r ≠ 0 → enterAborting x o f s = asks (aborting o f) .retract r) ∧
      (s.reads1 (.boom x .feedHome) = false → r = 0 →
        enterAborting x o f s = s.setBoom x { aborting o f with port := { b.port.drop with view := .free } })) ∧
    (r = 0 → s.reads1 (.boom x .feedHome) = false →
      enterReleasing x s = s.setBoom x { releasing with port := { b.port.drop with view := .free } }) ∧
    (r = 0 → s.reads1 (.boom x .feedHome) = true →
      enterReleasing x s = releaseDone x (s.setBoom x { releasing with port := { b.port.drop with view := .free } })) ∧
    ∀ h : HoleCtx,
      let u := s.setBoom x { dropped with ctx := some h, backOff := false }
      moveOn x (h, .drill) s = enterDrilling x u ∧ moveOn x (h, .steelChange) s = enterSteelChange x u ∧
      moveOn x (h, .retract) s = enterRetracting x u ∧
      moveOn x (h, .decide) s = raiseFlag (.wait x) (some x) (some h.pos) 3 (s.setBoom x { dropped with
        ctx := some h, backOff := false, phase := .decisionWait, waitReason := some .decision }) ∧
      ∀ m, goOn x (h, m) s =
        (let v := moveOn x (h, m) s
         if (v.boom x).phase = .drilling ∧ (v.boom x).port.view = .free then judgeFeed x (s.feedPos x) v else v)

/-- A boom entering SUSPENDED records its phase, drops its flow and counts the suspension (R97); from the spin start until an
outcome is set, a gel clock past W′ while torquing is not active makes the hole UNTENSIONED with fault TENSION_LATE, and the boom
enters RELEASING (R84; taken within the suspension, log 31). -/
def Obligations.SuspensionAndLateness : Prop :=
  ∀ (x : Side) (c : HoleCtx) (s : State), (s.boom x).ctx = some c →
    let b := s.boom x
    let d : Boom := { b with
      phase := .suspended, suspendedPhase := some b.phase, port := b.port.drop, stallTime := 0
      ctx := some { c with suspensions := c.suspensions + 1 } }
    let pastDeadline := c.outcome = none ∧ ∃ g r, c.gel = some g ∧ c.resin = some r ∧ r.w < g
    (¬ (pastDeadline ∧ (b.phase = .spinning ∨ b.phase = .torquing)) → suspend x s = s.setBoom x d) ∧
    (pastDeadline → b.phase = .spinning ∨ b.phase = .torquing → suspend x s = takeLate x (s.setBoom x d)) ∧
    takeLate x s = enterReleasing x (s.setBoom x { b with
      ctx := some { c with outcome := some .untensioned, fault := some .tensionLate } }) ∧
    (b.late = true ↔ pastDeadline ∧
      (b.phase = .spinning ∨ b.phase = .holding ∨
        (b.phase = .torquing ∧ ∀ t, b.port.view ≠ .held t ∧ b.port.view ≠ .free) ∨
        (b.phase = .suspended ∧ (b.suspendedPhase = some .spinning ∨ b.suspendedPhase = some .torquing))))

/-! ### Requests on a boom -/

/-- BOOM_START makes its checks in the order of R48, then sets the started mark and seeks; its reply carries the state after the
seek and the claimed cell (R48, R49). RE_SEEK is the seek of a boom in SEEK_WAIT after an event of R15. -/
def Obligations.BoomStartAndReSeekSeek : Prop :=
  ∀ (tag boom : Byte) (s : State),
    (s.ready → boom ≠ 1 ∧ boom ≠ 2 → exec (.boomStart tag boom) s = .next (s.withReply 0xA0 tag [2])) ∧
    (∀ x : Side, boom = (match x with | .a => 1 | .b => 2) → s.ready →
      let inState := (s.boom x).phase = .idle ∨ (s.boom x).phase = .stopped
      let allBound := (∀ f ∈ [Fn.stopLoop, .pumpOk, .boom x .feedUp, .boom x .feedDown, .boom x .rotation, .boom x .loader,
        .boom x .feedPosition, .boom x .rotationPressure, .boom x .deadman, .boom x .cartridgePass,
        .boom x .rotationPulse, .boom x .feedHome], s.bound f = true)
      (¬ inState ∨ s.pattern = none → exec (.boomStart tag boom) s = .next (s.withReply 0xA0 tag [1])) ∧
      (inState → s.pattern ≠ none → ¬ allBound → exec (.boomStart tag boom) s = .next (s.withReply 0xA0 tag [4])) ∧
      (inState → s.pattern ≠ none → allBound → s.reads1 .stopLoop = false →
        exec (.boomStart tag boom) s = .next (s.withReply 0xA0 tag [1])) ∧
      (inState → s.pattern ≠ none → allBound → s.reads1 .stopLoop = true →
        ∃ v t, v = seek x (s.setBoom x { s.boom x with started := true, stopPending := false, holds := .empty }) ∧
          exec (.boomStart tag boom) s = .next t ∧
          endsAnswered [.patternDone] 0xA0 tag
            ([0, byteOf (v.boom x).phase.code] ++ posBytes ((v.boom x).ctx.map fun c => c.pos)) s v t)) ∧
    ∀ x : Side, s.settled → (s.boom x).phase = .seekWait → (s.boom x).reseekDue = true →
      ∃ t, exec (.reSeek x) s = .next t ∧ ends [.patternDone] s (seek x s) t

/-- BOOM_STOP acts by state: none in IDLE, IDLE from SEEK_WAIT, HALTED and STOPPED, the claim released from POSITIONING, and a
stop pending in a hole (R50). -/
def Obligations.BoomStopActsByState : Prop :=
  ∀ (tag boom : Byte) (s : State), s.ready →
    (boom ≠ 1 ∧ boom ≠ 2 → exec (.boomStop tag boom) s = .next (s.withReply 0xA1 tag [2])) ∧
    ∀ x : Side, boom = (match x with | .a => 1 | .b => 2) →
      let idle (u : State) : State := u.setBoom x { u.boom x with
        phase := .idle, started := false, stopPending := false, holds := .empty, waitReason := none, reseekDue := false }
      exec (.boomStop tag boom) s = .next (match (s.boom x).phase with
        | .idle => s.withReply 0xA1 tag [0]
        | .seekWait | .halted | .stopped => (idle s).withReply 0xA1 tag [0]
        | .positioning => (idle (releaseClaim x s)).withReply 0xA1 tag [0]
        | _ => (s.setBoom x { s.boom x with stopPending := true }).withReply 0xA1 tag [0])

/-- AT_HOLE and a rising at-hole edge confirm the position in POSITIONING (R52, R53). HOLD adds HOST to the hold reasons, which
suspends a boom in a held phase, and RESUME removes it, which resumes nothing; IDLE and STOPPED refuse both (R94 to R97, R101,
R102). -/
def Obligations.AtHoleHoldAndResume : Prop :=
  (∀ (x : Side) (tag boom : Byte) (s : State),
     let confirmed (b : Boom) : Boom :=
       if b.phase = .positioning then { b with ctx := b.ctx.map fun c => { c with atHole := true } } else b
     (s.ready → boom ≠ 1 ∧ boom ≠ 2 → exec (.atHole tag boom) s = .next (s.withReply 0xA3 tag [2])) ∧
     (s.ready → boom = (match x with | .a => 1 | .b => 2) →
       exec (.atHole tag boom) s = .next (if (s.boom x).phase = .positioning
         then (s.setBoom x (confirmed (s.boom x))).withReply 0xA3 tag [0] else s.withReply 0xA3 tag [1])) ∧
     (s.settled → (s.boom x).hasNext .atHole = true →
       exec (.atHoleRise x) s =
         .next (s.setBoom x (confirmed { s.boom x with events := (s.boom x).events.erase .atHole })))) ∧
  (∀ (tag boom : Byte) (s : State), s.ready →
     (boom ≠ 1 ∧ boom ≠ 2 → exec (.hold tag boom) s = .next (s.withReply 0xA6 tag [2]) ∧
       exec (.resume tag boom) s = .next (s.withReply 0xA7 tag [2])) ∧
     ∀ x : Side, boom = (match x with | .a => 1 | .b => 2) →
       let b := s.boom x
       let out := b.phase = .idle ∨ b.phase = .stopped
       let held := b.phase = .collaring ∨ b.phase = .drilling ∨ (b.phase = .steelChange ∧ b.waitReason = none) ∨
         b.phase = .retracting ∨ b.phase = .inserting ∨ b.phase = .spinning ∨ b.phase = .torquing
       let added := s.setBoom x { b with holds := { b.holds with host := true } }
       (out → exec (.hold tag boom) s = .next (s.withReply 0xA6 tag [1]) ∧
         exec (.resume tag boom) s = .next (s.withReply 0xA7 tag [1])) ∧
       (¬ out → ¬ held → exec (.hold tag boom) s = .next (added.withReply 0xA6 tag [0])) ∧
       (held → ∃ t, exec (.hold tag boom) s = .next t ∧
         endsAnswered (holeFlags x) 0xA6 tag [0] s (suspend x added) t) ∧
       (¬ out → exec (.resume tag boom) s =
         .next ((s.setBoom x { b with holds := { b.holds with host := false } }).withReply 0xA7 tag [0])))

/-- PROCEED takes a boom past its wait: a steel added, INSERTING, a new selection, SPINNING, or a seek from HALTED; elsewhere it is
refused (R63, R66, R67, R76, R78, R108). That the checks on entry to DRILLING after a steel come before the hold reasons is the model's
choice (log 16), and so is the judging of the reach at an entry without demand (log 18). -/
def Obligations.ProceedTakesTheBoomPastItsWait : Prop :=
  ∀ (tag boom : Byte) (s : State), s.ready →
    (boom ≠ 1 ∧ boom ≠ 2 → exec (.proceed tag boom) s = .next (s.withReply 0xA4 tag [2])) ∧
    ∀ x : Side, boom = (match x with | .a => 1 | .b => 2) →
      let b := s.boom x
      let taken (v : State) : Prop := ∃ t, exec (.proceed tag boom) s = .next t ∧
        endsAnswered (holeFlags x) 0xA4 tag
          ([0, byteOf (v.boom x).phase.code] ++ posBytes ((v.boom x).ctx.map fun c => c.pos)) s v t
      (∀ c, b.phase = .steelChange → b.waitReason = some .addSteel → b.ctx = some c →
        taken (goOn x (drillEntry (assess s.classes assessFuel) { c with steelCount := c.steelCount + 1 })
          (s.setBoom x { b with
            base := some ⟨c.steelCount * c.snap.steelLength, none⟩, waitReason := none
            holds := if s.reads1 (.boom x .deadman) then b.holds else { b.holds with deadman := true } }))) ∧
      (b.phase = .holeOpen → taken (enterInserting x s)) ∧
      (b.phase = .inserting → b.waitReason ≠ none → taken (selectCartridge x (s.setBoom x { b with waitReason := none }))) ∧
      (b.phase = .boltWait → taken (enterSpinning x s)) ∧
      (b.phase = .halted → taken (seek x s)) ∧
      (¬ (b.phase = .steelChange ∧ b.waitReason = some .addSteel) → b.phase ≠ .holeOpen →
        ¬ (b.phase = .inserting ∧ b.waitReason ≠ none) → b.phase ≠ .boltWait → b.phase ≠ .halted →
        exec (.proceed tag boom) s = .next (s.withReply 0xA4 tag [1]))

/-- DECIDE makes its checks in the order of R40, then acts by its choice: PROCEED marks and retracts, EXTEND deepens the target,
SUBSTITUTE changes the class, ABANDON aborts (R37, R38, R40 to R42). Checks come before hold reasons on entry to DRILLING (log 16),
and an entry without demand judges the reach (log 18): the model's choices. -/
def Obligations.DecideActsByItsChoice : Prop :=
  ∀ (tag boom choice : Byte) (step : Word) (cls : Byte) (s : State), s.ready →
    let d := Instr.decide tag boom choice step cls
    ((boom ≠ 1 ∧ boom ≠ 2) ∨ choice.toNat = 0 ∨ 4 < choice.toNat ∨
        (choice = 2 ∧ (step.toNat < 25 ∨ 300 < step.toNat)) ∨ (choice = 3 ∧ (cls.toNat = 0 ∨ 8 < cls.toNat)) →
      exec d s = .next (s.withReply 0xA5 tag [2])) ∧
    ∀ x : Side, boom = (match x with | .a => 1 | .b => 2) → 1 ≤ choice.toNat → choice.toNat ≤ 4 →
      (choice = 2 → 25 ≤ step.toNat ∧ step.toNat ≤ 300) → (choice = 3 → 1 ≤ cls.toNat ∧ cls.toNat ≤ 8) →
      ((s.boom x).phase ≠ .decisionWait → exec d s = .next (s.withReply 0xA5 tag [1])) ∧
      ∀ c, (s.boom x).phase = .decisionWait → (s.boom x).ctx = some c →
        let h := { c with hostDecided := true }
        let u := s.setBoom x { s.boom x with waitReason := none, ctx := some h }
        let taken (v : State) : Prop := ∃ t, exec d s = .next t ∧ endsAnswered (holeFlags x) 0xA5 tag [0] s v t
        let deepest := min 3000 (c.snap.steelLength * c.snap.maxSteels)
        (choice = 1 → taken (moveOn x ({ h with acceptedWeak := true }, .retract) u)) ∧
        (choice = 4 → taken (enterAborting x .abandoned none u)) ∧
        (choice = 2 → deepest < c.targetDepth + step.toNat → exec d s = .next (s.withReply 0xA5 tag [2])) ∧
        (choice = 2 → c.targetDepth + step.toNat ≤ deepest →
          taken (goOn x (drillEntry (assess s.classes assessFuel)
            { h with targetDepth := c.targetDepth + step.toNat }) u)) ∧
        (choice = 3 → c.substituted = true → exec d s = .next (s.withReply 0xA5 tag [1])) ∧
        (choice = 3 → c.substituted = false → classAt s.classes cls.toNat = none →
          exec d s = .next (s.withReply 0xA5 tag [2])) ∧
        ∀ r, choice = 3 → c.substituted = false → classAt s.classes cls.toNat = some r →
          taken (goOn x (afterSubstitution (assess s.classes assessFuel)
            { h with
              origClass := some c.snapIdx, snapIdx := cls.toNat, snap := r, substituted := true
              targetDepth := r.target, required := r.cartridges, nextIdx := 1 }) u)

/-- ABORT acts by the boom's state, or by its suspended phase: the claim released into HALTED, or ABORTING with the outcome of the
phase; RELEASING refuses it as late, and states without a hole to abort refuse it (R103, R104, R108). -/
def Obligations.AbortActsByState : Prop :=
  ∀ (tag boom : Byte) (s : State), s.ready →
    (boom ≠ 1 ∧ boom ≠ 2 → exec (.abort tag boom) s = .next (s.withReply 0xA8 tag [2])) ∧
    ∀ x : Side, boom = (match x with | .a => 1 | .b => 2) →
      let b := s.boom x
      let taken (v : State) : Prop := ∃ t, exec (.abort tag boom) s = .next t ∧
        endsAnswered (holeFlags x) 0xA8 tag [0] s v t
      (∀ c, b.phase = .positioning → b.ctx = some c → b.stopPending = false →
        taken (raiseFlag (.halt x) (some x) (some c.pos) 0
          ((releaseClaim x s).setBoom x { (releaseClaim x s).boom x with phase := .halted }))) ∧
      (∀ ph c, b.phase = ph ∨ (b.phase = .suspended ∧ b.suspendedPhase = some ph) → b.ctx = some c →
        (ph = .collaring ∨ ph = .drilling ∨ ph = .steelChange ∨ ph = .decisionWait ∨ ph = .retracting ∨ ph = .holeOpen →
          taken (enterAborting x .abandoned none s)) ∧
        (ph = .inserting ∨ ph = .boltWait →
          taken (enterAborting x (if c.inserted = [] then .abandoned else .resinLost) none s)) ∧
        (ph = .spinning ∨ ph = .holding ∨ ph = .torquing → taken (enterAborting x .untensioned none s))) ∧
      (b.phase = .releasing → exec (.abort tag boom) s = .next (s.withReply 0xA8 tag [6])) ∧
      (b.phase = .aborting ∨ b.phase = .halted ∨ b.phase = .stopped ∨ b.phase = .idle ∨ b.phase = .seekWait →
        exec (.abort tag boom) s = .next (s.withReply 0xA8 tag [1]))

/-- MAGAZINE_LOAD adds kinds behind those in the magazine, or behind none after a purge, where six fit (R70). -/
def Obligations.MagazineLoadAddsBehind : Prop :=
  ∀ (tag boom purge count : Byte) (kinds : Vector Byte 6) (s : State), s.ready →
    let c := Instr.magazineLoad tag boom purge count kinds
    ((boom ≠ 1 ∧ boom ≠ 2) ∨ 1 < purge.toNat ∨ 6 < count.toNat ∨
        (∃ i : Fin 6, i.val < count.toNat ∧ (kinds[i] = 0 ∨ 3 < (kinds[i]).toNat)) →
      exec c s = .next (s.withReply 0xAA tag [2])) ∧
    ∀ (x : Side) (ks : List CartKind), boom = (match x with | .a => 1 | .b => 2) → purge.toNat ≤ 1 →
      ks.length = count.toNat → (∀ (i : Fin 6) (k : CartKind), ks[i.val]? = some k → (kinds[i]).toNat = k.code) →
      count.toNat ≤ 6 →
      let m := (if purge = 1 then [] else (s.boom x).magazine) ++ ks
      (6 < m.length → exec c s = .next (s.withReply 0xAA tag [2])) ∧
      (m.length ≤ 6 → exec c s = .next ((s.setBoom x { s.boom x with magazine := m }).withReply 0xAA tag
        ([0, byteOf m.length] ++ m.map (fun k => byteOf k.code) ++ List.replicate (6 - m.length) 0)))

/-! ### Events at a boom -/

/-- Losses of the deadman, pump OK and the canopy add their reason, which suspends a boom in a held phase; a rise of pump OK and a
regained canopy remove theirs, which resumes nothing; IDLE and STOPPED record none (R93 to R97). An event is next at a boom where no
other of its function waits before it: the model's order (log 5). -/
def Obligations.LossesAddHoldReasonsAndRegainsRemoveThem : Prop :=
  (∀ (b : Boom) (e : BoomEvent),
     let same (y : BoomEvent) : Prop := match e, y with
       | .deadman _, .deadman _ | .pump _, .pump _ | .canopy _, .canopy _ | .feedPosition _, .feedPosition _
       | .rotationPressure _, .rotationPressure _ => True
       | _, _ => e = y
     b.hasNext e = true ↔ ∃ front rest, b.events = front ++ e :: rest ∧ ∀ y ∈ front, ¬ same y) ∧
  ∀ (x : Side) (s : State), s.settled →
    let b := s.boom x
    let held := b.phase = .collaring ∨ b.phase = .drilling ∨ (b.phase = .steelChange ∧ b.waitReason = none) ∨
      b.phase = .retracting ∨ b.phase = .inserting ∨ b.phase = .spinning ∨ b.phase = .torquing
    (∀ (c : Instr) (e : BoomEvent) (h : Holds),
      (c = .deadmanRelease x ∧ e = .deadman false ∧ h = { b.holds with deadman := true }) ∨
        (c = .boomPumpFall x ∧ e = .pump false ∧ h = { b.holds with pump := true }) ∨
        (c = .canopyLossAtBoom x ∧ e = .canopy false ∧ h = { b.holds with canopy := true }) →
      b.hasNext e = true →
      let added := s.setBoom x { b with events := b.events.erase e, holds := h }
      (b.phase = .idle ∨ b.phase = .stopped →
        exec c s = .next (s.setBoom x { b with events := b.events.erase e })) ∧
      (b.phase ≠ .idle → b.phase ≠ .stopped → ¬ held → exec c s = .next added) ∧
      (held → ∃ t, exec c s = .next t ∧ ends (holeFlags x) s (suspend x added) t)) ∧
    (b.hasNext (.pump true) = true →
      exec (.boomPumpRise x) s = .next (s.setBoom x { b with
        events := b.events.erase (.pump true), holds := { b.holds with pump := false } })) ∧
    (b.hasNext (.canopy true) = true →
      exec (.canopyRegainAtBoom x) s = .next (s.setBoom x { b with
        events := b.events.erase (.canopy true), holds := { b.holds with canopy := false } }))

/-- A deadman press removes DEADMAN. In POSITIONING it starts the hole where the position is confirmed, the canopy SET, pump OK at 1
and no other reason stands: COLLARING, the cell WORKING, the collar demand asked for. In SUSPENDED it resumes the boom where no
other reason stands: the phase's demand is asked for again, a push restarts, an insertion's wait goes on (R17, R54, R77, R82, R88,
R95, R99). In TORQUING a gel clock past the deadline makes the hole late instead (R84, R88; log 24). That a resumption without
demand judges the reach, or computes the torque, is the model's (logs 18, 39). -/
def Obligations.DeadmanPressStartsOrResumes : Prop :=
  ∀ (x : Side) (s : State), s.settled → (s.boom x).hasNext (.deadman true) = true →
    let b := { s.boom x with events := (s.boom x).events.erase (.deadman true) }
    let alone := b.holds.canopy = false ∧ b.holds.pump = false ∧ b.holds.host = false
    let starts := (∃ c, b.ctx = some c ∧ c.atHole = true) ∧ s.canopy.state = .set ∧ s.reads1 .pumpOk = true ∧ alone
    let asks (u : State) (m : Motion) (d : Nat) : State :=
      { u.setBoom x { u.boom x with port := (u.boom x).port.ask d m s.ticket } with ticket := s.ticket + 1 }
    (¬ (b.phase = .positioning ∧ starts) → ¬ (b.phase = .suspended ∧ alone) →
      exec (.deadmanPress x) s = .next (s.setBoom x { b with holds := { b.holds with deadman := false } })) ∧
    (∀ c, b.phase = .positioning → starts → b.ctx = some c →
      ∃ t, exec (.deadmanPress x) s = .next t ∧
        ends [] s
          (let u := (s.setCell c.pos { s.cell c.pos with state := .working }).setBoom x { b with
              phase := .collaring, holds := .empty, base := some ⟨0, none⟩, phaseTime := 0 }
           if c.snap.collarDemand = 0 then
             u.setBoom x { u.boom x with
               base := some ⟨0, some (s.feedPos x)⟩, port := { b.port with view := .free } }
           else asks u .collar c.snap.collarDemand) t) ∧
    ∀ c ph, b.phase = .suspended → alone → b.ctx = some c → b.suspendedPhase = some ph →
      let u := s.setBoom x { b with
        phase := ph, suspendedPhase := none, holds := { b.holds with deadman := false } }
      let next (v : State) : Prop := ∃ t, exec (.deadmanPress x) s = .next t ∧ ends (holeFlags x) s v t
      (ph = .collaring → c.snap.collarDemand ≠ 0 → next (asks u .collar c.snap.collarDemand)) ∧
      (ph = .drilling → c.snap.drillDemand ≠ 0 → next (asks u .drill c.snap.drillDemand)) ∧
      (ph = .steelChange ∨ ph = .retracting → c.snap.retractDemand ≠ 0 → next (asks u .retract c.snap.retractDemand)) ∧
      (ph = .spinning → c.snap.spinDemand ≠ 0 → next (asks u .spin c.snap.spinDemand)) ∧
      (ph = .torquing → (u.boom x).late = true → next (takeLate x u)) ∧
      (ph = .torquing → (u.boom x).late = false → c.snap.torqueDemand ≠ 0 →
        next (asks u .torque c.snap.torqueDemand)) ∧
      (ph = .inserting → c.inFlight ≠ none → next (u.setBoom x { u.boom x with pushTime := 0 })) ∧
      (ph = .inserting → c.inFlight = none → b.waitReason ≠ none → next u) ∧
      (ph = .inserting → c.inFlight = none → b.waitReason = none → next (selectCartridge x u)) ∧
      ((ph = .collaring ∧ c.snap.collarDemand = 0) ∨ (ph = .drilling ∧ c.snap.drillDemand = 0) →
        next (feedBegins x (u.setBoom x { u.boom x with port := { b.port with view := .free } }))) ∧
      ((ph = .steelChange ∨ ph = .retracting) ∧ c.snap.retractDemand = 0 →
        next (retractBegins x (u.setBoom x { u.boom x with port := { b.port with view := .free } }))) ∧
      (ph = .spinning ∧ c.snap.spinDemand = 0 →
        next (startSpin x (u.setBoom x { u.boom x with port := { b.port with view := .free } }))) ∧
      (ph = .torquing ∧ (u.boom x).late = false ∧ c.snap.torqueDemand = 0 →
        next (torqueBegins x (u.setBoom x { u.boom x with port := { b.port with view := .free } })))

/-- Where a motion begins, the base feed position is taken where it is still to be taken, and the reach is judged (R55; log 18). A feed
position handed on is judged in COLLARING and DRILLING once the base feed position is taken: a reach past the depth is a
depth rise; a reach short of it, which may be negative, only stops the stall-pressure time (R55, R59). -/
def Obligations.FeedPositionChangeIsJudged : Prop :=
  (∀ (x : Side) (mm : Nat) (s : State),
     let b := s.boom x
     let based (d : Nat) : State := s.setBoom x { b with base := some ⟨d, some (s.feedPos x)⟩ }
     (∀ d, b.base = some ⟨d, none⟩ → feedBegins x s = judgeFeed x (s.feedPos x) (based d)) ∧
     (∀ d f, b.base = some ⟨d, some f⟩ → feedBegins x s = judgeFeed x (s.feedPos x) s) ∧
     ∀ c d f, b.phase = .collaring ∨ b.phase = .drilling → b.base = some ⟨d, some f⟩ → b.ctx = some c →
       (c.depth + f < d + mm → judgeFeed x mm s = afterRise x (raiseDepth x (d + mm - f) s)) ∧
       (d + mm < c.depth + f → judgeFeed x mm s = s.setBoom x { b with stallTime := 0 }) ∧
       (d + mm = c.depth + f → judgeFeed x mm s = s)) ∧
  ∀ (x : Side) (mm : Nat) (s : State), s.settled → (s.boom x).hasNext (.feedPosition mm) = true →
    let b := { s.boom x with events := (s.boom x).events.erase (.feedPosition mm) }
    let next (v : State) : Prop := ∃ t, exec (.feedPositionChange x) s = .next t ∧ ends (holeFlags x) s v t
    ((b.phase ≠ .collaring ∧ b.phase ≠ .drilling) ∨ b.base = none ∨ (∃ d, b.base = some ⟨d, none⟩) →
      exec (.feedPositionChange x) s = .next (s.setBoom x b)) ∧
    ∀ c d f, b.phase = .collaring ∨ b.phase = .drilling → b.base = some ⟨d, some f⟩ → b.ctx = some c →
      (c.depth + f < d + mm → next (afterRise x (raiseDepth x (d + mm - f) (s.setBoom x b)))) ∧
      (d + mm < c.depth + f → next (s.setBoom x { b with stallTime := 0 })) ∧
      (d + mm = c.depth + f → next (s.setBoom x b))

/-- A depth rise sets the depth to the reach (R55; past 3000 mm too: log 15), and completes one increment for each multiple of 25 mm
passed, up to 3000 mm: the first takes the phase time that had run, the others 0, all with one pressure sample; phase and
progress time restart (R30, R55). Each is classified by its rate, 250 over its time in tenths, and the pressure, by their steps
and capped at band 15 (R31), and joins the strata runs as the table of R32 gives. The collar depth leads to DRILLING (R57); the
target depth to an assessment, else the end of the steels to STEEL_CHANGE (R58). -/
def Obligations.DepthRisesCompleteIncrementsAndLeadOn : Prop :=
  (∀ (x : Side) (c : HoleCtx) (depth : Nat) (s : State), (s.boom x).ctx = some c →
     let b := s.boom x
     let n := min depth 3000 / 25 - c.incCount
     (n = 0 → raiseDepth x depth s = s.setBoom x { b with ctx := some { c with depth := depth } }) ∧
     (0 < n → raiseDepth x depth s = s.setBoom x { b with
       phaseTime := 0, progressTime := 0
       ctx := some ((List.range n).foldl (fun h k =>
           addIncrement (classify s (s.rotPressure x) (if k = 0 then b.phaseTime else 0)) h)
         { c with depth := depth }) }) ∧
     (b.phase = .collaring → c.depth < c.snap.collar → afterRise x s = s) ∧
     (b.phase = .collaring → c.snap.collar ≤ c.depth →
       afterRise x s = enterDrilling x (s.setBoom x { b with port := b.port.drop, stallTime := 0 })) ∧
     (b.phase = .drilling → c.targetDepth ≤ c.depth →
       afterRise x s = moveOn x (assess s.classes assessFuel c) s) ∧
     (b.phase = .drilling → c.depth < c.targetDepth → c.steelCount * c.snap.steelLength ≤ c.depth →
       afterRise x s = enterSteelChange x s) ∧
     (b.phase = .drilling → c.depth < c.targetDepth → c.depth < c.steelCount * c.snap.steelLength → afterRise x s = s)) ∧
  ((∀ (s : State) (pressure time : Nat) (i j : Fin 16),
     i.val = min (250 / (if time = 0 then 1 else time) / s.rateStep) 15 →
     j.val = min (pressure / s.pressureStep) 15 → classify s pressure time = (s.strata[i])[j]) ∧
   ∀ (k : StrataClass) (c : HoleCtx), c.runs.length ≤ 16 →
     let h := addIncrement k c
     h.incCount = c.incCount + 1 ∧
     (c.runs = [] → h.runs = [⟨k, 25 * c.incCount, 25⟩] ∧ h.truncated = c.truncated) ∧
     ∀ (front : List StrataRun) (last : StrataRun), c.runs = front ++ [last] →
       (last.cls = k → h.runs = front ++ [{ last with length := last.length + 25 }] ∧ h.truncated = c.truncated) ∧
       (last.cls ≠ k → c.runs.length < 16 →
         h.runs = c.runs ++ [⟨k, 25 * c.incCount, 25⟩] ∧ h.truncated = c.truncated) ∧
       (last.cls ≠ k → c.runs.length = 16 →
         h.runs = front ++ [{ last with cls := .broken, length := last.length + 25 }] ∧ h.truncated = true))

/-- The weak length is 25 mm for each completed increment that starts in the anchor zone and lies in a weak run (R33). A weak
length within the limit retracts (R34); past it the class action marks and retracts (R35), extends at most twice and within the
depth capacity (R36), substitutes a valid fallback once (R37, R38), or waits for a decision (R39). The assessments one event can
hold are at most four, so the model's count of them is never used up. -/
def Obligations.AssessmentActsByTheClass : Prop :=
  (∀ (classes : Vector (Option ClassRec) 8) (n : Nat) (c : HoleCtx),
     let weak (r : StrataRun) : Bool := r.cls = .soft ∨ r.cls = .clay ∨ r.cls = .void ∨ r.cls = .broken
     let starts (r : StrataRun) : List Nat := (List.range (r.length / 25)).map fun j => r.start + 25 * j
     let w := 25 * (c.runs.map fun r =>
       if weak r then ((starts r).filter fun d => c.depth - c.snap.anchorLength ≤ d).length else 0).sum
     let h := { c with weakLength := w }
     let deepest (r : ClassRec) : Nat := min 3000 (r.steelLength * r.maxSteels)
     (w ≤ c.snap.weakLimit → assess classes (n + 1) c = (h, .retract)) ∧
     (c.snap.weakLimit < w → c.snap.action = .proceed →
       assess classes (n + 1) c = ({ h with acceptedWeak := true }, .retract)) ∧
     (c.snap.weakLimit < w → c.snap.action = .stop → assess classes (n + 1) c = (h, .decide)) ∧
     (c.snap.weakLimit < w → c.snap.action = .extend →
       assess classes (n + 1) c =
         if c.extensions < 2 ∧ c.targetDepth + c.snap.extStep ≤ deepest c.snap then
           drillEntry (assess classes n)
             { h with targetDepth := c.targetDepth + c.snap.extStep, extensions := c.extensions + 1 }
         else (h, .decide)) ∧
     (c.snap.weakLimit < w → c.snap.action = .substitute → c.substituted = true ∨ classAt classes c.snap.fallback = none →
       assess classes (n + 1) c = (h, .decide)) ∧
     (∀ r, c.snap.weakLimit < w → c.snap.action = .substitute → c.substituted = false →
       classAt classes c.snap.fallback = some r →
       let g := { h with
         origClass := some c.snapIdx, snapIdx := c.snap.fallback, snap := r, substituted := true
         targetDepth := r.target, required := r.cartridges, nextIdx := 1 }
       assess classes (n + 1) c =
         if r.target ≤ c.depth then assess classes n g
         else if c.steelCount ≤ r.maxSteels ∧ r.target ≤ deepest r then drillEntry (assess classes n) g
         else (g, .decide)) ∧
     ∀ f : HoleCtx → HoleCtx × NextMove,
       (drillEntry f c =
         if c.targetDepth ≤ c.depth then f c
         else if c.steelCount * c.snap.steelLength ≤ c.depth then (c, .steelChange) else (c, .drill)) ∧
       afterSubstitution f c =
         if c.targetDepth ≤ c.depth then f c
         else if c.steelCount ≤ c.snap.maxSteels ∧ c.targetDepth ≤ deepest c.snap then drillEntry f c
         else (c, .decide)) ∧
  (∀ (classes : Vector (Option ClassRec) 8) (n : Nat) (c : HoleCtx), c.extensions ≤ 2 →
     assess classes (assessFuel + n) c = assess classes assessFuel c)

/-- A stall aborts the hole at the third and begins a back-off at the others; the back-off ends after 2.0 s (R56, R59 to R61). A
retraction ends at the feed home edge, each phase in its own way (R62, R65, R91, R106), in ABORTING also while it awaits its flow (R64,
R105), or fails at 30.0 s, in RELEASING and ABORTING as a second failure (R64, R90, R105, R112). Below its limit, or outside its state,
a stall, a back-off's end or a timeout changes nothing; a feed home edge at a boom that is not retracting, with a hole or without one, is
taken and changes nothing else. That an edge before the grant changes nothing in RELEASING, and that a limit
may be taken after it was reached, are the model's (logs 17, 33). -/
def Obligations.StallsBackOffsAndRetractions : Prop :=
  (∀ (x : Side) (s : State),
     let b := s.boom x
     let moving := (∃ t, b.port.view = .held t) ∨ b.port.view = .free
     let only (i : Instr) (due : Prop) : Prop := (limitDue s i = true ↔ due) ∧ (¬ due → exec i s = .next s)
     only (.pressureStall x)
       (b.phase = .drilling ∧ feeds x s = true ∧ ∃ c, b.ctx = some c ∧ c.snap.stallTime ≤ b.stallTime) ∧
     only (.progressStall x) (b.phase = .drilling ∧ feeds x s = true ∧ 100 ≤ b.progressTime) ∧
     only (.backOffEnd x) (b.phase = .drilling ∧ b.backOff = true ∧ moving ∧ 20 ≤ b.backOffTime) ∧
     only (.retractTimeout x)
       (b.ctx ≠ none ∧ ((b.phase = .steelChange ∧ b.waitReason = none) ∨ b.phase = .retracting) ∧ moving ∧
         300 ≤ b.retractTime) ∧
     only (.secondFailureTimeout x)
       (b.ctx ≠ none ∧ (b.phase = .releasing ∨ b.phase = .aborting) ∧ moving ∧ 300 ≤ b.retractTime)) ∧
  (∀ (x : Side) (s : State), s.settled → (s.boom x).hasNext .feedHome = true →
     let b := s.boom x
     let retracting := b.phase = .aborting ∨ (((∃ t, b.port.view = .held t) ∨ b.port.view = .free) ∧
       ((b.phase = .steelChange ∧ b.waitReason = none) ∨ b.phase = .retracting ∨ b.phase = .releasing))
     ¬ retracting ∨ b.ctx = none →
       exec (.feedHomeRise x) s = .next (s.setBoom x { b with events := b.events.erase .feedHome })) ∧
  (∀ (x : Side) (c : HoleCtx) (s : State), (s.boom x).ctx = some c →
     let b := s.boom x
     let d : Boom := { b with port := b.port.drop, stallTime := 0 }
     (retractBegins x s = if s.reads1 (.boom x .feedHome) then retractDone x s else s) ∧
     (b.phase = .steelChange → retractDone x s =
       raiseFlag (.wait x) (some x) (some c.pos) 1 (s.setBoom x { d with waitReason := some .addSteel })) ∧
     (b.phase = .retracting → retractDone x s = raiseFlag (.wait x) (some x) (some c.pos) 2
       (s.setBoom x { d with phase := .holeOpen, waitReason := some .clearHole })) ∧
     (b.phase = .releasing → retractDone x s = releaseDone x s) ∧
     (b.phase = .aborting → retractDone x s = abortDone x s)) ∧
  ∀ (x : Side) (c : HoleCtx) (s : State), s.settled → (s.boom x).ctx = some c →
    let b := s.boom x
    let moving := (∃ t, b.port.view = .held t) ∨ b.port.view = .free
    let next (i : Instr) (v : State) : Prop := ∃ t, exec i s = .next t ∧ ends (holeFlags x) s v t
    let stalled : Boom := { b with
      progressTime := 0, stallTime := 0, ctx := some { c with stallCount := c.stallCount + 1 } }
    (feeds x s = true ↔ (b.phase = .collaring ∨ b.phase = .drilling) ∧ moving ∧ b.backOff = false ∧
      ∃ d f, b.base = some ⟨d, some f⟩ ∧ c.depth + f ≤ d + s.feedPos x) ∧
    (∀ i, (i = .pressureStall x ∧ c.snap.stallTime ≤ b.stallTime) ∨ (i = .progressStall x ∧ 100 ≤ b.progressTime) →
      b.phase = .drilling → feeds x s = true →
      (c.stallCount < 2 → next i (s.setBoom x { stalled with backOff := true, backOffTime := 0 })) ∧
      (2 ≤ c.stallCount → next i (enterAborting x .abandoned (some .stall) (s.setBoom x stalled)))) ∧
    (b.phase = .drilling → b.backOff = true → moving → 20 ≤ b.backOffTime →
      next (.backOffEnd x) (s.setBoom x { b with backOff := false, progressTime := 0, stallTime := 0 })) ∧
    (b.hasNext .feedHome = true →
      let e : Boom := { b with events := b.events.erase .feedHome }
      let d : Boom := { e with port := b.port.drop, stallTime := 0 }
      let retracting := b.phase = .aborting ∨
        (moving ∧ ((b.phase = .steelChange ∧ b.waitReason = none) ∨ b.phase = .retracting ∨ b.phase = .releasing))
      (retracting → b.phase = .steelChange → next (.feedHomeRise x)
        (raiseFlag (.wait x) (some x) (some c.pos) 1 (s.setBoom x { d with waitReason := some .addSteel }))) ∧
      (retracting → b.phase = .retracting → next (.feedHomeRise x) (raiseFlag (.wait x) (some x) (some c.pos) 2
        (s.setBoom x { d with phase := .holeOpen, waitReason := some .clearHole }))) ∧
      (retracting → b.phase = .releasing → next (.feedHomeRise x) (releaseDone x (s.setBoom x e))) ∧
      (retracting → b.phase = .aborting → next (.feedHomeRise x) (abortDone x (s.setBoom x e)))) ∧
    (moving → 300 ≤ b.retractTime →
      ((b.phase = .steelChange ∧ b.waitReason = none) ∨ b.phase = .retracting →
        next (.retractTimeout x) (enterAborting x .abandoned (some .retractTimeout) s)) ∧
      (b.phase = .releasing ∨ b.phase = .aborting →
        next (.secondFailureTimeout x) (secondFailure x .retractTimeout s)))

/-- Selection compares the front of the magazine with the next required kind: a push, a wait, or BOLT_WAIT (R73, R78). A cartridge
pass completes the push (R74), a push of 5.0 s is a jam, the third of which ends the hole (R75), and a bolt-present edge moves
BOLT_WAIT to SPINNING (R78). A push of less than 5.0 s, and a boom outside the push part, takes no jam. A limit may be taken after it
was reached (log 33). -/
def Obligations.InsertionFollowsTheRequiredSequence : Prop :=
  (∀ (x : Side) (s : State),
     let due := (s.boom x).phase = .inserting ∧ (∃ c, (s.boom x).ctx = some c ∧ c.inFlight ≠ none) ∧
       50 ≤ (s.boom x).pushTime
     (limitDue s (.jam x) = true ↔ due) ∧ (¬ due → exec (.jam x) s = .next s)) ∧
  (∀ (x : Side) (s : State), s.settled →
     let b := s.boom x
     (b.hasNext .cartridgePass = true →
       (b.phase ≠ .inserting ∨ ∀ c k, b.ctx = some c → c.inFlight ≠ some k) →
       exec (.cartridgePass x) s = .next (s.setBoom x { b with events := b.events.erase .cartridgePass })) ∧
     (b.hasNext .boltPresent = true → b.phase ≠ .boltWait →
       exec (.boltPresentRise x) s = .next (s.setBoom x { b with events := b.events.erase .boltPresent }))) ∧
  ∀ (x : Side) (c : HoleCtx) (s : State), (s.boom x).ctx = some c →
    let b := s.boom x
    let waits (u : State) (r : WaitReason) (code : Nat) : State :=
      raiseFlag (.wait x) (some x) (some c.pos) code (u.setBoom x { u.boom x with waitReason := some r })
    let next (i : Instr) (v : State) : Prop := ∃ t, exec i s = .next t ∧ ends (holeFlags x) s v t
    let lost : HoleCtx := { c with inFlight := none, jamCount := c.jamCount + 1 }
    (c.required.length ≤ c.nextIdx - 1 →
      selectCartridge x s = waits (s.setBoom x { b with phase := .boltWait }) .loadBolt 7) ∧
    (∀ k, c.required[c.nextIdx - 1]? = some k →
      (b.magazine = [] → selectCartridge x s = waits s .magEmpty 4) ∧
      (∀ front rest, b.magazine = front :: rest → front ≠ k → selectCartridge x s = waits s .magMismatch 5) ∧
      ∀ rest, b.magazine = k :: rest →
        selectCartridge x s = s.setBoom x { b with
          magazine := rest, pushTime := 0, ctx := some { c with inFlight := some k } }) ∧
    (s.settled → b.hasNext .cartridgePass = true →
      let e : Boom := { b with events := b.events.erase .cartridgePass }
      ∀ k, b.phase = .inserting → c.inFlight = some k →
        next (.cartridgePass x) (selectCartridge x (s.setBoom x { e with
          ctx := some { c with inserted := c.inserted ++ [k], inFlight := none, nextIdx := c.nextIdx + 1 } }))) ∧
    (s.settled → b.phase = .inserting → c.inFlight ≠ none → 50 ≤ b.pushTime →
      (c.jamCount < 2 → next (.jam x) (waits (s.setBoom x { b with ctx := some lost }) .jam 6)) ∧
      (2 ≤ c.jamCount → next (.jam x)
        (enterAborting x (if c.inserted = [] then .abandoned else .resinLost) (some .jamLimit)
          (s.setBoom x { b with ctx := some lost })))) ∧
    (s.settled → b.hasNext .boltPresent = true →
      let e : Boom := { b with events := b.events.erase .boltPresent }
      (b.phase = .boltWait → next (.boltPresentRise x) (enterSpinning x (s.setBoom x e))))

/-- The spin start latches band and resin times once: H′ = H × P / 100, W′ = S + (W − S) × P / 100, P from the roof temperature's
band (R43, R80, R146). The spin ends into HOLDING with the hold end (R81), the hold into TORQUING (R83, R85), lateness into
RELEASING (R84). While torquing is active the torque is pressure × factor / 10; the target installs the bolt, the turn limit spins
it through (R86, R87); that the torque is computed as torquing begins without a grant too is the model's choice (log 39). Before its
limit, or outside its state, the spin's end, the hold's end and lateness change nothing. A limit may be taken after it was reached
(log 33). -/
def Obligations.SpinHoldAndTorque : Prop :=
  (∀ (x : Side) (s : State),
     let b := s.boom x
     let moving := (∃ t, b.port.view = .held t) ∨ b.port.view = .free
     let only (i : Instr) (due : Prop) : Prop := (limitDue s i = true ↔ due) ∧ (¬ due → exec i s = .next s)
     only (.spinEnd x) (b.phase = .spinning ∧ moving ∧
       ∃ c r, b.ctx = some c ∧ c.gel ≠ none ∧ c.resin = some r ∧ r.s ≤ c.spinElapsed) ∧
     only (.holdEnd x) (b.phase = .holding ∧ ∃ c g e, b.ctx = some c ∧ c.gel = some g ∧ b.holdEnd = some e ∧ e ≤ g) ∧
     only (.tensionLate x) ((b.phase = .spinning ∨ b.phase = .holding ∨ (b.phase = .torquing ∧ ¬ moving) ∨
         (b.phase = .suspended ∧ (b.suspendedPhase = some .spinning ∨ b.suspendedPhase = some .torquing))) ∧
       ∃ c g r, b.ctx = some c ∧ c.outcome = none ∧ c.gel = some g ∧ c.resin = some r ∧ r.w < g)) ∧
  (∀ (x : Side) (s : State), s.settled →
     let b := s.boom x
     let active := b.phase = .torquing ∧ ((∃ t, b.port.view = .held t) ∨ b.port.view = .free)
     (b.hasNext .rotationPulse = true → ¬ active ∨ b.ctx = none →
       exec (.rotationPulse x) s = .next (s.setBoom x { b with events := b.events.erase .rotationPulse })) ∧
     ∀ bar, b.hasNext (.rotationPressure bar) = true → b.ctx = none →
       exec (.rotationPressureChange x) s =
         .next (s.setBoom x { b with events := b.events.erase (.rotationPressure bar) })) ∧
  ∀ (x : Side) (c : HoleCtx) (s : State), (s.boom x).ctx = some c →
    let b := s.boom x
    let active := b.phase = .torquing ∧ ((∃ t, b.port.view = .held t) ∨ b.port.view = .free)
    let next (i : Instr) (v : State) : Prop := ∃ t, exec i s = .next t ∧ ends (holeFlags x) s v t
    let band (t : Int) : Fin 8 := if t < -10 then 0 else if t < 0 then 1 else if t < 10 then 2 else if t < 20 then 3
      else if t < 30 then 4 else if t < 40 then 5 else if t < 50 then 6 else 7
    let times (p : Nat) : ResinTimes :=
      ⟨c.snap.spinTime, c.snap.holdTime * p / 100, c.snap.spinTime + (c.snap.windowEnd - c.snap.spinTime) * p / 100⟩
    (∀ l off span, s.lineOf .temperature = some l → l.binding = some ⟨.temperature, .temp off span⟩ →
      s.temperature = some ((l.analog * span / 1023 : Nat) - (off : Int))) ∧
    (s.lineOf .temperature = none → s.temperature = none) ∧
    (c.gel ≠ none → startSpin x s = s) ∧
    (c.gel = none → s.temperature = none → startSpin x s = s.setBoom x { b with
      ctx := some { c with tempBand := none, resin := some (times 100), gel := some 0, spinElapsed := 0 } }) ∧
    (∀ t, c.gel = none → s.temperature = some t → startSpin x s = s.setBoom x { b with
      ctx := some { c with
        tempBand := some ((band t).val + 1), resin := some (times s.temps[band t]), gel := some 0, spinElapsed := 0 } }) ∧
    (∀ g r, s.settled → b.phase = .spinning → (∃ t, b.port.view = .held t) ∨ b.port.view = .free → c.gel = some g →
      c.resin = some r → r.s ≤ c.spinElapsed →
      next (.spinEnd x) (s.setBoom x { b with
        phase := .holding, holdEnd := some (g + r.h), port := b.port.drop, stallTime := 0 })) ∧
    (∀ g e, s.settled → b.phase = .holding → c.gel = some g → b.holdEnd = some e → e ≤ g →
      (({ b with phase := .torquing } : Boom).late = true →
        next (.holdEnd x) (takeLate x (s.setBoom x { b with phase := .torquing }))) ∧
      (({ b with phase := .torquing } : Boom).late = false → next (.holdEnd x) (enterTorquing x s))) ∧
    (s.settled → b.late = true → next (.tensionLate x) (takeLate x s)) ∧
    (active →
      let bar := s.rotPressure x
      let k : HoleCtx := { c with
        tensionOffset := if c.tensionOffset = none then c.gel else c.tensionOffset
        turns := if c.tensionOffset = none then 0 else c.turns
        torque := max c.torque (bar * c.snap.torqueFactor / 10) }
      (bar * c.snap.torqueFactor / 10 < c.snap.torqueTarget →
        torqueBegins x s = s.setBoom x { b with ctx := some k }) ∧
      (c.snap.torqueTarget ≤ bar * c.snap.torqueFactor / 10 →
        torqueBegins x s = enterReleasing x (s.setBoom x { b with
          ctx := some { k with outcome := some (if c.acceptedWeak then .installedMarked else .installed) } }))) ∧
    (∀ bar, s.settled → b.hasNext (.rotationPressure bar) = true →
      let e : Boom := { b with
        events := b.events.erase (.rotationPressure bar)
        stallTime := if bar < c.snap.stallPressure then 0 else b.stallTime }
      let h : HoleCtx := { c with torque := max c.torque (bar * c.snap.torqueFactor / 10) }
      (¬ active → exec (.rotationPressureChange x) s = .next (s.setBoom x e)) ∧
      (active → bar * c.snap.torqueFactor / 10 < c.snap.torqueTarget →
        next (.rotationPressureChange x) (s.setBoom x { e with ctx := some h })) ∧
      (active → c.snap.torqueTarget ≤ bar * c.snap.torqueFactor / 10 →
        next (.rotationPressureChange x) (enterReleasing x (s.setBoom x { e with
          ctx := some { h with outcome := some (if c.acceptedWeak then .installedMarked else .installed) } })))) ∧
    (s.settled → b.hasNext .rotationPulse = true →
      let e : Boom := { b with events := b.events.erase .rotationPulse }
      let h : HoleCtx := { c with turns := c.turns + 1 }
      (active → c.turns + 1 < c.snap.turnLimit → next (.rotationPulse x) (s.setBoom x { e with ctx := some h })) ∧
      (active → c.snap.turnLimit ≤ c.turns + 1 →
        next (.rotationPulse x) (enterReleasing x (s.setBoom x { e with
          ctx := some { h with outcome := some .spinThrough } }))))

/-- A boom takes the arbiter's hand-overs. A grant it waits for begins its motion (R55, R62, R80, R85, R99, R117), or finds it late
(log 24); a take-back asks again for the same demand with the outputs at 0 (R121); a refusal aborts, or is a second failure in
RELEASING and ABORTING, once those of its PUMP_SET from ahead in the queue are taken (R47, R89, R112, R120). One for a request it no
longer has is discarded, in a hole or after its end (R117). That a reach past the depth is judged at each grant, and that a take-back
can bring lateness, are the model's readings (logs 18, 31). -/
def Obligations.BoomsTakeTheArbitersHandOvers : Prop :=
  (∀ (x : Side) (tk : Nat) (rest : List FlowMsg) (s : State), s.settled →
     let b := s.boom x
     let discarded : State := s.setBoom x { b with port := { b.port with inbox := rest } }
     (b.port.inbox = .grant tk :: rest → b.port.view ≠ .waiting tk → exec (.boomGrantTaken x) s = .next discarded) ∧
     (b.port.inbox = .takeBack tk :: rest → b.port.view ≠ .held tk → b.port.view ≠ .waiting tk →
       exec (.boomTakeBack x) s = .next discarded) ∧
     (b.port.inbox = .refusal tk :: rest → b.port.view ≠ .waiting tk →
       (∀ l ∈ s.arbiter.refusing, (.boom x, tk) ∈ l → l.head? = some (.boom x, tk)) →
       exec (.boomFlowRefusal x) s = .next { discarded with arbiter := { s.arbiter with
         refusing := (s.arbiter.refusing.map fun l => l.erase (.boom x, tk)).filter fun l => l ≠ [] } })) ∧
  ∀ (x : Side) (c : HoleCtx) (tk : Nat) (rest : List FlowMsg) (s : State), s.settled → (s.boom x).ctx = some c →
    let b := s.boom x
    let p : FlowPort := { b.port with inbox := rest }
    let mine := b.port.view = .held tk ∨ b.port.view = .waiting tk
    let next (i : Instr) (v : State) : Prop := ∃ t, exec i s = .next t ∧ ends (holeFlags x) s v t
    (b.port.inbox = .grant tk :: rest →
      let g : State := s.setBoom x { b with port := { p with view := .held tk } }
      let home := s.reads1 (.boom x .feedHome)
      (b.port.view = .waiting tk → b.late = true →
        next (.boomGrantTaken x) (takeLate x (s.setBoom x { b with port := p }))) ∧
      (b.port.view = .waiting tk → b.late = false →
        (∀ d, b.phase = .collaring ∨ b.phase = .drilling → b.base = some ⟨d, none⟩ →
          let based : Boom := { g.boom x with base := some ⟨d, some (s.feedPos x)⟩ }
          (d = c.depth → next (.boomGrantTaken x) (g.setBoom x based)) ∧
          (d < c.depth → next (.boomGrantTaken x) (g.setBoom x { based with stallTime := 0 })) ∧
          (c.depth < d → next (.boomGrantTaken x) (afterRise x (raiseDepth x d (g.setBoom x based))))) ∧
        (∀ d f, b.phase = .collaring ∨ b.phase = .drilling → b.base = some ⟨d, some f⟩ →
          (c.depth + f < d + s.feedPos x →
            next (.boomGrantTaken x) (afterRise x (raiseDepth x (d + s.feedPos x - f) g))) ∧
          (d + s.feedPos x < c.depth + f →
            next (.boomGrantTaken x) (g.setBoom x { g.boom x with stallTime := 0 })) ∧
          (d + s.feedPos x = c.depth + f → next (.boomGrantTaken x) g)) ∧
        (b.phase = .steelChange ∨ b.phase = .retracting ∨ b.phase = .releasing ∨ b.phase = .aborting →
          next (.boomGrantTaken x) (if home then retractDone x g else g)) ∧
        (b.phase = .spinning → next (.boomGrantTaken x) (startSpin x g)) ∧
        (b.phase = .torquing →
          let h : HoleCtx := if c.tensionOffset = none then { c with tensionOffset := c.gel, turns := 0 } else c
          let bar := s.rotPressure x
          let k : HoleCtx := { h with torque := max h.torque (bar * c.snap.torqueFactor / 10) }
          (bar * c.snap.torqueFactor / 10 < c.snap.torqueTarget →
            next (.boomGrantTaken x) (g.setBoom x { g.boom x with ctx := some k })) ∧
          (c.snap.torqueTarget ≤ bar * c.snap.torqueFactor / 10 →
            next (.boomGrantTaken x) (enterReleasing x (g.setBoom x { g.boom x with
              ctx := some { k with outcome := some (if c.acceptedWeak then .installedMarked else .installed) } })))))) ∧
    (b.port.inbox = .takeBack tk :: rest →
      (mine → ∀ m d, (b.phase = .collaring ∧ m = .collar ∧ d = c.snap.collarDemand) ∨
          (b.phase = .drilling ∧ m = .drill ∧ d = c.snap.drillDemand) ∨
          (b.phase = .spinning ∧ m = .spin ∧ d = c.snap.spinDemand) ∨
          (b.phase = .torquing ∧ m = .torque ∧ d = c.snap.torqueDemand) ∨
          ((b.phase = .steelChange ∨ b.phase = .retracting ∨ b.phase = .releasing ∨ b.phase = .aborting) ∧
            m = .retract ∧ d = c.snap.retractDemand) → d ≠ 0 →
        let v := { s.setBoom x { b with
          port := ⟨.waiting s.ticket, p.outbox ++ [.request d m s.ticket], rest⟩, stallTime := 0 } with
            ticket := s.ticket + 1 }
        ((v.boom x).late = false → next (.boomTakeBack x) v) ∧
        ((v.boom x).late = true → next (.boomTakeBack x) (takeLate x v)))) ∧
    (b.port.inbox = .refusal tk :: rest →
      (∀ l ∈ s.arbiter.refusing, (.boom x, tk) ∈ l → l.head? = some (.boom x, tk)) →
      let told (u : State) : State := { u with arbiter := { u.arbiter with
        refusing := (u.arbiter.refusing.map fun l => l.erase (.boom x, tk)).filter fun l => l ≠ [] } }
      let r : State := told (s.setBoom x { b with port := { p with view := .none } })
      (b.port.view = .waiting tk →
        (b.phase = .spinning ∨ b.phase = .torquing →
          next (.boomFlowRefusal x) (enterAborting x .untensioned (some .flowExceedsBudget) r)) ∧
        (b.phase = .releasing ∨ b.phase = .aborting →
          next (.boomFlowRefusal x) (secondFailure x .flowExceedsBudget r)) ∧
        (b.phase = .collaring ∨ b.phase = .drilling ∨ b.phase = .steelChange ∨ b.phase = .retracting →
          next (.boomFlowRefusal x) (enterAborting x .abandoned (some .flowExceedsBudget) r))))

/-- The opening of the stop loop at a boom: a hole ends where it stands, a claim is released, SEEK_WAIT and HALTED go to STOPPED,
each with the HALT flag; IDLE and STOPPED do nothing (R109 to R111). -/
def Obligations.StopLoopOpeningStopsABoom : Prop :=
  ∀ (x : Side) (s : State), s.settled → (s.boom x).hasNext .stopLoop = true →
    let u := s.setBoom x { s.boom x with events := (s.boom x).events.erase .stopLoop }
    let ph := (s.boom x).phase
    let stopped (v : State) : State := v.setBoom x { v.boom x with
      phase := .stopped, holds := .empty, stopPending := false, waitReason := none, suspendedPhase := none,
      reseekDue := false }
    let next (v : State) : Prop := ∃ t, exec (.boomStopLoopOpen x) s = .next t ∧ ends (holeFlags x) s v t
    (ph = .idle ∨ ph = .stopped → exec (.boomStopLoopOpen x) s = .next u) ∧
    (ph = .seekWait ∨ ph = .halted → next (raiseFlag (.halt x) (some x) none 0 (stopped u))) ∧
    (∀ c, ph = .positioning → (s.boom x).ctx = some c →
      next (raiseFlag (.halt x) (some x) (some c.pos) 0 (stopped (releaseClaim x u)))) ∧
    (ph ≠ .idle → ph ≠ .stopped → ph ≠ .seekWait → ph ≠ .halted → ph ≠ .positioning → next (stopHole x .stopped u))

/-! ### The flow arbiter -/

/-- A request above the budget is refused at once, another joins the queue behind its tier (R115); an old entry of its consumer goes
first (R114; the grant check after it, log 34). A request is taken past the releases sent before it, which stay on their way: the
model's order (log 6). The grant check grants heads that fit while the view is OK (R116). A release takes its consumer's entry out
(R118; by its ticket, log 7). A pump fall takes every entry back, grants first, and sets PUMP (R121); a rise grants again (R122).
PUMP_SET refuses what no longer fits, makes the grant check on the rest, after a lowered budget too (the model's choice: log 40),
and keeps the order of its refusals, one of which may be taken only when none from ahead in the queue is left; refusals of two
PUMP_SETs, and those at arrival, wait for no other (R119, R120; log 38). -/
def Obligations.ArbiterGrantsInOrderWithinTheBudget : Prop :=
  (∀ (e : FlowEntry) (front back : List FlowEntry),
    let tier (m : Motion) : Nat := match m with | .raise => 1 | .torque => 2 | _ => 3
    (∀ y ∈ front, tier y.motion ≤ tier e.motion) → (∀ y ∈ back, tier e.motion < tier y.motion) →
    joinQueue e (front ++ back) = front ++ e :: back) ∧
  ∀ s : State,
    let a := s.arbiter
    let total := (a.grants.map (·.demand)).sum
    (a.view = .low ∨ a.queue = [] → grantCheck s = s) ∧
    (∀ e q, a.view = .ok → a.queue = e :: q →
      (a.budget < total + e.demand → grantCheck s = s) ∧
      (total + e.demand ≤ a.budget →
        grantCheck s = grantCheck (handFlow e.consumer (.grant e.ticket)
          { s with arbiter := { a with grants := a.grants ++ [e], queue := q } }))) ∧
    (∀ (k : Consumer) (m : FlowMsg),
      handFlow k m s = s.setPort k { s.port k with inbox := (s.port k).inbox ++ [m] }) ∧
    (∀ gone : FlowEntry → Bool,
      takeRelease gone s =
        if (∃ e ∈ a.grants ++ a.queue, gone e = true) then
          grantCheck { s with arbiter := { a with
            grants := a.grants.filter fun e => !gone e, queue := a.queue.filter fun e => !gone e } }
        else s) ∧
    viewFalls s = raiseFlag .pump none none 0 ((a.grants ++ a.queue).foldl
      (fun u e => handFlow e.consumer (.takeBack e.ticket) u)
      { s with arbiter := { a with view := .low, grants := [], queue := [] } }) ∧
    (s.settled →
      (∀ (k : Consumer) (early late : List ArbMsg) (d : Nat) (m : Motion) (tk : Nat),
        (s.port k).outbox = early ++ .request d m tk :: late → (∀ y ∈ early, ∃ r, y = .release r) →
        let u := takeRelease (fun e => e.consumer == k) (s.setPort k { s.port k with outbox := early ++ late })
        let e : FlowEntry := ⟨k, d, m, u.arbiter.arrivals, tk⟩
        ∃ t, exec (.flowRequestArrival k) s = .next t ∧
          ends [] s (if u.arbiter.budget < d then handFlow k (.refusal tk) u
            else grantCheck { u with arbiter := { u.arbiter with
              queue := joinQueue e u.arbiter.queue, arrivals := u.arbiter.arrivals + 1 } }) t) ∧
      (∀ (k : Consumer) (tk : Nat) (rest : List ArbMsg), (s.port k).outbox = .release tk :: rest →
        ∃ t, exec (.flowRelease k) s = .next t ∧
          ends [] s (takeRelease (fun e => e.consumer == k && e.ticket == tk)
            (s.setPort k { s.port k with outbox := rest })) t) ∧
      (∀ rest, a.events = false :: rest →
        ∃ t, exec .pumpFall s = .next t ∧
          ends [.pump] s (raiseFlag .pump none none 0 ((a.grants ++ a.queue).foldl
            (fun u e => handFlow e.consumer (.takeBack e.ticket) u)
            { s with arbiter := { a with view := .low, grants := [], queue := [], events := rest } })) t) ∧
      (∀ rest, a.events = true :: rest →
        ∃ t, exec .pumpRise s = .next t ∧
          ends [] s (grantCheck { s with arbiter := { a with view := .ok, events := rest } }) t)) ∧
    (s.ready → ∀ tag budget : Byte,
      (200 < budget.toNat → exec (.pumpSet tag budget) s = .next (s.withReply 0xB0 tag [2])) ∧
      (budget.toNat ≤ 200 → budget.toNat < total → exec (.pumpSet tag budget) s = .next (s.withReply 0xB0 tag [1])) ∧
      (budget.toNat ≤ 200 → total ≤ budget.toNat →
        let n := budget.toNat
        let v := if n = a.budget then s else
          grantCheck ((a.queue.filter fun e => n < e.demand).foldl
            (fun u e => handFlow e.consumer (.refusal e.ticket) u)
            { s with arbiter := { a with
              budget := n, queue := a.queue.filter fun e => e.demand ≤ n
              refusing := match (a.queue.filter fun e => n < e.demand).map fun e => (e.consumer, e.ticket) with
                | [] => a.refusing
                | l => a.refusing ++ [l] } })
        ∃ t, exec (.pumpSet tag budget) s = .next t ∧
          endsAnswered [] 0xB0 tag
            [0, budget, byteOf (v.arbiter.grants.map (·.demand)).sum, byteOf v.arbiter.queue.length] s v t))

/-! ### The canopy -/

/-- CANOPY_RAISE and CANOPY_LOWER make their checks in order (R127, R131). A raise ends in SET after a second of pressure (R126, R128),
or fails into LOWERED with its cause and CANOPY (R129, R135); a SET canopy is LOST after half a second without pressure (R130); a
LOWERING one is LOWERED after three (R132); the stop loop lowers RAISING and LOWERING (R133). Leaving SET hands a loss to both booms,
entering it a regain (R134). Below its limit, or outside its state, none of these limits changes anything. That a limit may be taken after
it was reached, and that a take-back or refusal of an earlier raise is discarded, are the model's (logs 33, 7). -/
def Obligations.CanopyFollowsItsTransitions : Prop :=
  ∀ s : State,
    let k := s.canopy
    let mine (tk : Nat) := k.port.view = .held tk ∨ k.port.view = .waiting tk
    let losing (u : State) : State :=
      if k.state = .set then (u.handBoom .a (.canopy false)).handBoom .b (.canopy false) else u
    let regaining (u : State) : State :=
      if k.state = .set then u else (u.handBoom .a (.canopy true)).handBoom .b (.canopy true)
    let next (i : Instr) (v : State) : Prop := ∃ t, exec i s = .next t ∧ ends [.canopy] s v t
    let failed (f : CanopyFailure) (p : FlowPort) : State := raiseFlag .canopy none none 0
      { s with canopy := { k with state := .lowered, lastFailure := f, port := p } }
    (∀ (tag demand : Byte), s.ready →
      let bound := s.bound .canopyUp = true ∧ s.bound .canopyPressure = true ∧ s.bound .stopLoop = true ∧
        s.bound .pumpOk = true
      let fromState := k.state = .lowered ∨ k.state = .lost
      let inRange := 1 ≤ demand.toNat ∧ demand.toNat ≤ 200
      (¬ inRange → exec (.canopyRaise tag demand) s = .next (s.withReply 0xB4 tag [2])) ∧
      (inRange → ¬ bound → exec (.canopyRaise tag demand) s = .next (s.withReply 0xB4 tag [4])) ∧
      (inRange → bound → ¬ fromState ∨ s.reads1 .stopLoop = false →
        exec (.canopyRaise tag demand) s = .next (s.withReply 0xB4 tag [1])) ∧
      (inRange → bound → fromState → s.reads1 .stopLoop = true →
        ∃ t, exec (.canopyRaise tag demand) s = .next t ∧ endsAnswered [] 0xB4 tag [0, 3] s
          { s with
            canopy := { k with
              state := .raising, raiseDemand := some demand.toNat, settleTime := 0, raiseTime := 0
              port := ⟨.waiting s.ticket, k.port.outbox ++ [.request demand.toNat .raise s.ticket], k.port.inbox⟩ }
            ticket := s.ticket + 1 } t)) ∧
    (∀ tag : Byte, s.ready →
      let bound := s.bound .canopyDown = true ∧ s.bound .canopyPressure = true
      let allowed := (k.state = .raising ∨ k.state = .set ∨ k.state = .lost) ∧ (∀ q, (s.cell q).state ≠ .working) ∧
        ¬ (s.bound .stopLoop = true ∧ s.reads1 .stopLoop = false)
      (¬ bound → exec (.canopyLower tag) s = .next (s.withReply 0xB5 tag [4])) ∧
      (bound → ¬ allowed → exec (.canopyLower tag) s = .next (s.withReply 0xB5 tag [1])) ∧
      (bound → allowed → ∃ t, exec (.canopyLower tag) s = .next t ∧ endsAnswered [] 0xB5 tag [0, 6] s
        (losing { s with canopy := { k with state := .lowering, lowerTime := 0, port := k.port.drop } }) t)) ∧
    (let only (i : Instr) (due : Prop) : Prop := (limitDue s i = true ↔ due) ∧ (¬ due → exec i s = .next s)
     only .canopyAdoptSet (k.state = .unknown ∧ s.bound .canopyPressure = true ∧ 10 ≤ k.settleTime) ∧
     only .canopySet (k.state = .raising ∧ 10 ≤ k.settleTime) ∧
     only .raiseTimeout (k.state = .raising ∧ 150 ≤ k.raiseTime) ∧
     only .canopyLost (k.state = .set ∧ 5 ≤ k.lossTime) ∧
     only .canopyLowered (k.state = .lowering ∧ 30 ≤ k.lowerTime)) ∧
    (∀ st : CanopyState,
      let u := { s with canopy := { k with state := st } }
      canopyTo st s =
        if k.state = .set ∧ st ≠ .set then (u.handBoom .a (.canopy false)).handBoom .b (.canopy false)
        else if k.state ≠ .set ∧ st = .set then (u.handBoom .a (.canopy true)).handBoom .b (.canopy true) else u) ∧
    (∀ high, nextPressure s = some high ↔
      ∃ front rest, k.events = front ++ .pressure high :: rest ∧ ∀ y ∈ front, y = .stopLoop) ∧
    (s.settled →
      (∀ high, nextPressure s = some high →
        let e := k.events.erase (.pressure high)
        next .canopyPressureChange { s with canopy := (match k.state, high with
          | .unknown, false => { k with state := .lowered, settleTime := 0, events := e }
          | .raising, false => { k with settleTime := 0, events := e }
          | .set, true => { k with lossTime := 0, events := e }
          | .lowering, true => { k with lowerTime := 0, events := e }
          | _, _ => { k with events := e }) }) ∧
      (k.state = .unknown → s.bound .canopyPressure = true → 10 ≤ k.settleTime →
        next .canopyAdoptSet
          (regaining { s with canopy := { k with state := .set, lossTime := 0, port := k.port.drop } })) ∧
      (k.state = .raising → 10 ≤ k.settleTime →
        next .canopySet (regaining { s with canopy := { k with state := .set, lossTime := 0, port := k.port.drop } })) ∧
      (k.state = .raising → 150 ≤ k.raiseTime → next .raiseTimeout (failed .raiseTimeout k.port.drop)) ∧
      (k.state = .set → 5 ≤ k.lossTime →
        next .canopyLost (raiseFlag .canopy none none 0
          (losing { s with canopy := { k with state := .lost, lastFailure := .loss } }))) ∧
      (k.state = .lowering → 30 ≤ k.lowerTime →
        next .canopyLowered { s with canopy := { k with state := .lowered } }) ∧
      (.stopLoop ∈ k.events →
        let e := k.events.erase .stopLoop
        next .canopyStopLoopOpen { s with canopy := (match k.state with
          | .raising => { k with state := .lowered, port := k.port.drop, events := e }
          | .lowering => { k with state := .lowered, events := e }
          | _ => { k with events := e }) }) ∧
      (∀ tk rest, k.port.inbox = .grant tk :: rest →
        next .canopyGrantTaken { s with canopy := { k with
          port := ⟨if k.state = .raising ∧ k.port.view = .waiting tk then .held tk else k.port.view,
            k.port.outbox, rest⟩ } }) ∧
      (∀ tk rest, k.port.inbox = .takeBack tk :: rest →
        (k.state = .raising → mine tk → next .canopyTakeBack (failed .pumpLost ⟨.none, k.port.outbox, rest⟩)) ∧
        (k.state ≠ .raising ∨ ¬ mine tk →
          next .canopyTakeBack { s with canopy := { k with port := ⟨k.port.view, k.port.outbox, rest⟩ } })) ∧
      ∀ tk rest, k.port.inbox = .refusal tk :: rest →
        (∀ l ∈ s.arbiter.refusing, (.canopy, tk) ∈ l → l.head? = some (.canopy, tk)) →
        let told (u : State) : State := { u with arbiter := { u.arbiter with
          refusing := (u.arbiter.refusing.map fun l => l.erase (.canopy, tk)).filter fun l => l ≠ [] } }
        (k.state = .raising → k.port.view = .waiting tk →
          next .canopyFlowRefusal (told (failed .flowRefused ⟨.none, k.port.outbox, rest⟩))) ∧
        (k.state ≠ .raising ∨ k.port.view ≠ .waiting tk →
          next .canopyFlowRefusal
            (told { s with canopy := { k with port := ⟨k.port.view, k.port.outbox, rest⟩ } })))

/-! ### Records -/

/-- RECORD_FETCH answers with the slot's state as it stood and the record, which stays in the slot as FETCHED; an EMPTY slot refuses
it (R157). The record's bytes are those of section 10.6, the class snapshot at bytes 9 to 52, absent fields as 0 (R22, R154). That a
set mark is a bit 1 is the model's (log 19). -/
def Obligations.RecordFetchReturnsTheRecord : Prop :=
  (∀ (x : Side) (d : HoleData),
     let bits (a b c d e : Bool) : Byte := byteOf ((if a then 1 else 0) + (if b then 2 else 0) + (if c then 4 else 0) +
       (if d then 8 else 0) + if e then 16 else 0)
     let kinds (n : Nat) (ks : List CartKind) : List Byte :=
       (ks.take n).map (fun k => byteOf k.code) ++ List.replicate (n - ks.length) 0
     let one (o : Option Nat) : Byte := byteOf (o.getD 0)
     let two (o : Option Nat) : List Byte := twoBytes (o.getD 0)
     let action : Action → Byte
       | .proceed => 1 | .extend => 2 | .substitute => 3 | .stop => 4
     (∀ c : ClassRec, classBytes c =
       twoBytes c.target ++ twoBytes c.collar ++ twoBytes c.steelLength ++ [byteOf c.maxSteels] ++
       twoBytes c.anchorLength ++ twoBytes c.weakLimit ++ [action c.action] ++ twoBytes c.extStep ++ [byteOf c.fallback] ++
       [byteOf c.cartridges.length] ++ kinds 4 c.cartridges ++ [byteOf c.spinTime] ++ twoBytes c.holdTime ++
       twoBytes c.windowEnd ++ twoBytes c.torqueTarget ++ [byteOf c.torqueFactor, byteOf c.turnLimit,
         byteOf c.stallPressure, byteOf c.stallTime] ++
       [byteOf c.collarDemand, byteOf c.drillDemand, byteOf c.spinDemand, byteOf c.torqueDemand, byteOf c.retractDemand] ++
       [byteOf c.collarFeed, byteOf c.drillFeed, byteOf c.drillRotation, byteOf c.pushFeed, byteOf c.spinRotation,
         byteOf c.holdFeed, byteOf c.torqueRotation, byteOf c.retractFeed]) ∧
     holeBytes x d =
       [match x with | .a => 1 | .b => 2, byteOf (d.pos.col.val + 1), byteOf (d.pos.row.val + 1),
         match d.outcome with | some o => byteOf o.code | none => 0,
         bits d.fault.isSome d.origClass.isSome d.tempBand.isSome d.resin.isSome d.tensionOffset.isSome,
         match d.fault with | some f => byteOf f.code | none => 0,
         bits d.atHole d.substituted d.hostDecided d.acceptedWeak d.truncated,
         byteOf d.snapIdx, one d.origClass] ++
       classBytes d.snap ++ twoBytes d.depth ++ twoBytes d.targetDepth ++
       [byteOf d.steelCount, byteOf d.incCount, byteOf d.stallCount, byteOf d.extensions] ++ twoBytes d.weakLength ++
       [byteOf d.nextIdx, byteOf d.inserted.length] ++ kinds 4 d.inserted ++
       [byteOf d.jamCount, one d.tempBand] ++
       (match d.resin with
         | some r => [byteOf r.s] ++ twoBytes r.h ++ twoBytes r.w
         | none => [0, 0, 0, 0, 0]) ++
       two d.gel ++ two d.tensionOffset ++ twoBytes d.torque ++ [byteOf d.turns] ++ twoBytes d.suspensions ++
       [byteOf d.runs.length] ++
       d.runs.flatMap fun r => [byteOf r.cls.code, byteOf (r.start / 25)] ++ twoBytes r.length) ∧
  ∀ (tag boom : Byte) (s : State), s.ready →
    (boom ≠ 1 ∧ boom ≠ 2 → exec (.recordFetch tag boom) s = .next (s.withReply 0xB8 tag [2])) ∧
    ∀ x : Side, boom = (match x with | .a => 1 | .b => 2) →
      (s.slot x = none → exec (.recordFetch tag boom) s = .next (s.withReply 0xB8 tag [1])) ∧
      ∀ fetched r, s.slot x = some ⟨fetched, r⟩ →
        exec (.recordFetch tag boom) s = .next ((s.setSlot x (some ⟨true, r⟩)).withReply 0xB8 tag
          ([0, if fetched then 3 else 2] ++ holeBytes r.boom r.data))

/-- RECORD_RELEASE empties the slot where it names the cell of the record there; an EMPTY slot or another cell refuses it
(R158). -/
def Obligations.RecordReleaseEmptiesTheSlot : Prop :=
  ∀ (tag boom col row : Byte) (s : State), s.ready →
    ((boom ≠ 1 ∧ boom ≠ 2) ∨ col.toNat = 0 ∨ 8 < col.toNat ∨ row.toNat = 0 ∨ 12 < row.toNat →
      exec (.recordRelease tag boom col row) s = .next (s.withReply 0xB9 tag [2])) ∧
    ∀ (x : Side) (q : Pos), boom = (match x with | .a => 1 | .b => 2) → col.toNat = q.col.val + 1 →
      row.toNat = q.row.val + 1 →
      (s.slot x = none → exec (.recordRelease tag boom col row) s = .next (s.withReply 0xB9 tag [1])) ∧
      ∀ y, s.slot x = some y →
        exec (.recordRelease tag boom col row) s = .next (if y.record.data.pos = q
          then (s.setSlot x none).withReply 0xB9 tag [0] else s.withReply 0xB9 tag [5])
end

