-- ==== Sys2Proof/Laws/State.lean ====
section
/-! SUPPORT. One lemma per field per named update of the state: the field written, and every other field unchanged. -/

namespace Sys2Proof.Machine

/-! ### The named updates in terms of `setBoom` -/

@[simp] theorem modBoom_eq (s : State) (side : Side) (f : Boom → Boom) :
    s.modBoom side f = s.setBoom side (f (s.boom side)) := rfl

@[simp] theorem modCtx_eq (s : State) (side : Side) (f : HoleCtx → HoleCtx) :
    s.modCtx side f = s.setBoom side { s.boom side with ctx := (s.boom side).ctx.map f } := rfl

@[simp] theorem handBoom_eq (s : State) (side : Side) (e : BoomEvent) :
    s.handBoom side e = s.setBoom side { s.boom side with events := (s.boom side).events ++ [e] } := rfl

@[simp] theorem takeEvent_eq (s : State) (side : Side) (e : BoomEvent) :
    s.takeEvent side e = s.setBoom side { s.boom side with events := (s.boom side).events.erase e } := rfl

@[simp] theorem other_other (side : Side) : side.other.other = side := by cases side <;> rfl

@[simp] theorem other_ne (side : Side) : side.other ≠ side := by cases side <;> decide

@[simp] theorem ne_other (side : Side) : side ≠ side.other := by cases side <;> decide

/-! ### A boom -/

@[simp] theorem boom_a (s : State) : s.boom .a = s.boomA := rfl

@[simp] theorem boom_b (s : State) : s.boom .b = s.boomB := rfl

@[simp] theorem setBoom_boom (s : State) (side : Side) (b : Boom) : (s.setBoom side b).boom side = b := by
  cases side <;> rfl

theorem setBoom_boom_ne (s : State) {x y : Side} (b : Boom) (h : y ≠ x) : (s.setBoom x b).boom y = s.boom y := by
  cases x <;> cases y <;> first | rfl | exact absurd rfl h

@[simp] theorem setBoom_other (s : State) (side : Side) (b : Boom) :
    (s.setBoom side b).boom side.other = s.boom side.other := by
  cases side <;> rfl

@[simp] theorem other_setBoom (s : State) (side : Side) (b : Boom) :
    (s.setBoom side.other b).boom side = s.boom side := by
  cases side <;> rfl

@[simp] theorem setBoom_setBoom (s : State) (side : Side) (b c : Boom) :
    (s.setBoom side b).setBoom side c = s.setBoom side c := by
  cases side <;> rfl

@[simp] theorem setBoom_self (s : State) (side : Side) : s.setBoom side (s.boom side) = s := by
  cases side <;> rfl

/-! ### Every other field -/

@[simp] theorem setBoom_pattern (s : State) (x : Side) (b : Boom) : (s.setBoom x b).pattern = s.pattern := by cases x <;> rfl
@[simp] theorem setBoom_cells (s : State) (x : Side) (b : Boom) : (s.setBoom x b).cells = s.cells := by cases x <;> rfl
@[simp] theorem setBoom_complete (s : State) (x : Side) (b : Boom) : (s.setBoom x b).complete = s.complete := by cases x <;> rfl
@[simp] theorem setBoom_tally (s : State) (x : Side) (b : Boom) : (s.setBoom x b).tally = s.tally := by cases x <;> rfl
@[simp] theorem setBoom_classes (s : State) (x : Side) (b : Boom) : (s.setBoom x b).classes = s.classes := by cases x <;> rfl
@[simp] theorem setBoom_strata (s : State) (x : Side) (b : Boom) : (s.setBoom x b).strata = s.strata := by cases x <;> rfl
@[simp] theorem setBoom_rateStep (s : State) (x : Side) (b : Boom) : (s.setBoom x b).rateStep = s.rateStep := by cases x <;> rfl
@[simp] theorem setBoom_pressureStep (s : State) (x : Side) (b : Boom) : (s.setBoom x b).pressureStep = s.pressureStep := by cases x <;> rfl
@[simp] theorem setBoom_temps (s : State) (x : Side) (b : Boom) : (s.setBoom x b).temps = s.temps := by cases x <;> rfl
@[simp] theorem setBoom_arbiter (s : State) (x : Side) (b : Boom) : (s.setBoom x b).arbiter = s.arbiter := by cases x <;> rfl
@[simp] theorem setBoom_canopy (s : State) (x : Side) (b : Boom) : (s.setBoom x b).canopy = s.canopy := by cases x <;> rfl
@[simp] theorem setBoom_lines (s : State) (x : Side) (b : Boom) : (s.setBoom x b).lines = s.lines := by cases x <;> rfl
@[simp] theorem setBoom_holding (s : State) (x : Side) (b : Boom) : (s.setBoom x b).holding = s.holding := by cases x <;> rfl
@[simp] theorem setBoom_stopOpenings (s : State) (x : Side) (b : Boom) : (s.setBoom x b).stopOpenings = s.stopOpenings := by cases x <;> rfl
@[simp] theorem setBoom_slotA (s : State) (x : Side) (b : Boom) : (s.setBoom x b).slotA = s.slotA := by cases x <;> rfl
@[simp] theorem setBoom_slotB (s : State) (x : Side) (b : Boom) : (s.setBoom x b).slotB = s.slotB := by cases x <;> rfl
@[simp] theorem setBoom_flags (s : State) (x : Side) (b : Boom) : (s.setBoom x b).flags = s.flags := by cases x <;> rfl
@[simp] theorem setBoom_link (s : State) (x : Side) (b : Boom) : (s.setBoom x b).link = s.link := by cases x <;> rfl
@[simp] theorem setBoom_ticket (s : State) (x : Side) (b : Boom) : (s.setBoom x b).ticket = s.ticket := by cases x <;> rfl
@[simp] theorem setBoom_freeCount (s : State) (x : Side) (b : Boom) : (s.setBoom x b).freeCount = s.freeCount := by cases x <;> rfl
@[simp] theorem setBoom_pending (s : State) (x : Side) (b : Boom) : (s.setBoom x b).pending = s.pending := by cases x <;> rfl

/-! ### A cell -/

@[simp] theorem setCell_pattern (s : State) (p : Pos) (c : Cell) : (s.setCell p c).pattern = s.pattern := rfl
@[simp] theorem setCell_complete (s : State) (p : Pos) (c : Cell) : (s.setCell p c).complete = s.complete := rfl
@[simp] theorem setCell_tally (s : State) (p : Pos) (c : Cell) : (s.setCell p c).tally = s.tally := rfl
@[simp] theorem setCell_classes (s : State) (p : Pos) (c : Cell) : (s.setCell p c).classes = s.classes := rfl
@[simp] theorem setCell_strata (s : State) (p : Pos) (c : Cell) : (s.setCell p c).strata = s.strata := rfl
@[simp] theorem setCell_rateStep (s : State) (p : Pos) (c : Cell) : (s.setCell p c).rateStep = s.rateStep := rfl
@[simp] theorem setCell_pressureStep (s : State) (p : Pos) (c : Cell) : (s.setCell p c).pressureStep = s.pressureStep := rfl
@[simp] theorem setCell_temps (s : State) (p : Pos) (c : Cell) : (s.setCell p c).temps = s.temps := rfl
@[simp] theorem setCell_boomA (s : State) (p : Pos) (c : Cell) : (s.setCell p c).boomA = s.boomA := rfl
@[simp] theorem setCell_boomB (s : State) (p : Pos) (c : Cell) : (s.setCell p c).boomB = s.boomB := rfl
@[simp] theorem setCell_arbiter (s : State) (p : Pos) (c : Cell) : (s.setCell p c).arbiter = s.arbiter := rfl
@[simp] theorem setCell_canopy (s : State) (p : Pos) (c : Cell) : (s.setCell p c).canopy = s.canopy := rfl
@[simp] theorem setCell_lines (s : State) (p : Pos) (c : Cell) : (s.setCell p c).lines = s.lines := rfl
@[simp] theorem setCell_holding (s : State) (p : Pos) (c : Cell) : (s.setCell p c).holding = s.holding := rfl
@[simp] theorem setCell_stopOpenings (s : State) (p : Pos) (c : Cell) : (s.setCell p c).stopOpenings = s.stopOpenings := rfl
@[simp] theorem setCell_slotA (s : State) (p : Pos) (c : Cell) : (s.setCell p c).slotA = s.slotA := rfl
@[simp] theorem setCell_slotB (s : State) (p : Pos) (c : Cell) : (s.setCell p c).slotB = s.slotB := rfl
@[simp] theorem setCell_flags (s : State) (p : Pos) (c : Cell) : (s.setCell p c).flags = s.flags := rfl
@[simp] theorem setCell_link (s : State) (p : Pos) (c : Cell) : (s.setCell p c).link = s.link := rfl
@[simp] theorem setCell_ticket (s : State) (p : Pos) (c : Cell) : (s.setCell p c).ticket = s.ticket := rfl
@[simp] theorem setCell_freeCount (s : State) (p : Pos) (c : Cell) : (s.setCell p c).freeCount = s.freeCount := rfl
@[simp] theorem setCell_pending (s : State) (p : Pos) (c : Cell) : (s.setCell p c).pending = s.pending := rfl

/-! ### A flag -/

@[simp] theorem setFlagRec_pattern (s : State) (f : Flag) (r : FlagRec) : (s.setFlagRec f r).pattern = s.pattern := rfl
@[simp] theorem setFlagRec_cells (s : State) (f : Flag) (r : FlagRec) : (s.setFlagRec f r).cells = s.cells := rfl
@[simp] theorem setFlagRec_complete (s : State) (f : Flag) (r : FlagRec) : (s.setFlagRec f r).complete = s.complete := rfl
@[simp] theorem setFlagRec_tally (s : State) (f : Flag) (r : FlagRec) : (s.setFlagRec f r).tally = s.tally := rfl
@[simp] theorem setFlagRec_classes (s : State) (f : Flag) (r : FlagRec) : (s.setFlagRec f r).classes = s.classes := rfl
@[simp] theorem setFlagRec_strata (s : State) (f : Flag) (r : FlagRec) : (s.setFlagRec f r).strata = s.strata := rfl
@[simp] theorem setFlagRec_rateStep (s : State) (f : Flag) (r : FlagRec) : (s.setFlagRec f r).rateStep = s.rateStep := rfl
@[simp] theorem setFlagRec_pressureStep (s : State) (f : Flag) (r : FlagRec) : (s.setFlagRec f r).pressureStep = s.pressureStep := rfl
@[simp] theorem setFlagRec_temps (s : State) (f : Flag) (r : FlagRec) : (s.setFlagRec f r).temps = s.temps := rfl
@[simp] theorem setFlagRec_boomA (s : State) (f : Flag) (r : FlagRec) : (s.setFlagRec f r).boomA = s.boomA := rfl
@[simp] theorem setFlagRec_boomB (s : State) (f : Flag) (r : FlagRec) : (s.setFlagRec f r).boomB = s.boomB := rfl
@[simp] theorem setFlagRec_arbiter (s : State) (f : Flag) (r : FlagRec) : (s.setFlagRec f r).arbiter = s.arbiter := rfl
@[simp] theorem setFlagRec_canopy (s : State) (f : Flag) (r : FlagRec) : (s.setFlagRec f r).canopy = s.canopy := rfl
@[simp] theorem setFlagRec_lines (s : State) (f : Flag) (r : FlagRec) : (s.setFlagRec f r).lines = s.lines := rfl
@[simp] theorem setFlagRec_holding (s : State) (f : Flag) (r : FlagRec) : (s.setFlagRec f r).holding = s.holding := rfl
@[simp] theorem setFlagRec_stopOpenings (s : State) (f : Flag) (r : FlagRec) : (s.setFlagRec f r).stopOpenings = s.stopOpenings := rfl
@[simp] theorem setFlagRec_slotA (s : State) (f : Flag) (r : FlagRec) : (s.setFlagRec f r).slotA = s.slotA := rfl
@[simp] theorem setFlagRec_slotB (s : State) (f : Flag) (r : FlagRec) : (s.setFlagRec f r).slotB = s.slotB := rfl
@[simp] theorem setFlagRec_link (s : State) (f : Flag) (r : FlagRec) : (s.setFlagRec f r).link = s.link := rfl
@[simp] theorem setFlagRec_ticket (s : State) (f : Flag) (r : FlagRec) : (s.setFlagRec f r).ticket = s.ticket := rfl
@[simp] theorem setFlagRec_freeCount (s : State) (f : Flag) (r : FlagRec) : (s.setFlagRec f r).freeCount = s.freeCount := rfl
@[simp] theorem setFlagRec_pending (s : State) (f : Flag) (r : FlagRec) : (s.setFlagRec f r).pending = s.pending := rfl

/-! ### A record slot -/

@[simp] theorem setSlot_pattern (s : State) (x : Side) (v : Option Slot) : (s.setSlot x v).pattern = s.pattern := by cases x <;> rfl
@[simp] theorem setSlot_cells (s : State) (x : Side) (v : Option Slot) : (s.setSlot x v).cells = s.cells := by cases x <;> rfl
@[simp] theorem setSlot_complete (s : State) (x : Side) (v : Option Slot) : (s.setSlot x v).complete = s.complete := by cases x <;> rfl
@[simp] theorem setSlot_tally (s : State) (x : Side) (v : Option Slot) : (s.setSlot x v).tally = s.tally := by cases x <;> rfl
@[simp] theorem setSlot_classes (s : State) (x : Side) (v : Option Slot) : (s.setSlot x v).classes = s.classes := by cases x <;> rfl
@[simp] theorem setSlot_strata (s : State) (x : Side) (v : Option Slot) : (s.setSlot x v).strata = s.strata := by cases x <;> rfl
@[simp] theorem setSlot_rateStep (s : State) (x : Side) (v : Option Slot) : (s.setSlot x v).rateStep = s.rateStep := by cases x <;> rfl
@[simp] theorem setSlot_pressureStep (s : State) (x : Side) (v : Option Slot) : (s.setSlot x v).pressureStep = s.pressureStep := by cases x <;> rfl
@[simp] theorem setSlot_temps (s : State) (x : Side) (v : Option Slot) : (s.setSlot x v).temps = s.temps := by cases x <;> rfl
@[simp] theorem setSlot_boomA (s : State) (x : Side) (v : Option Slot) : (s.setSlot x v).boomA = s.boomA := by cases x <;> rfl
@[simp] theorem setSlot_boomB (s : State) (x : Side) (v : Option Slot) : (s.setSlot x v).boomB = s.boomB := by cases x <;> rfl
@[simp] theorem setSlot_arbiter (s : State) (x : Side) (v : Option Slot) : (s.setSlot x v).arbiter = s.arbiter := by cases x <;> rfl
@[simp] theorem setSlot_canopy (s : State) (x : Side) (v : Option Slot) : (s.setSlot x v).canopy = s.canopy := by cases x <;> rfl
@[simp] theorem setSlot_lines (s : State) (x : Side) (v : Option Slot) : (s.setSlot x v).lines = s.lines := by cases x <;> rfl
@[simp] theorem setSlot_holding (s : State) (x : Side) (v : Option Slot) : (s.setSlot x v).holding = s.holding := by cases x <;> rfl
@[simp] theorem setSlot_stopOpenings (s : State) (x : Side) (v : Option Slot) : (s.setSlot x v).stopOpenings = s.stopOpenings := by cases x <;> rfl
@[simp] theorem setSlot_flags (s : State) (x : Side) (v : Option Slot) : (s.setSlot x v).flags = s.flags := by cases x <;> rfl
@[simp] theorem setSlot_link (s : State) (x : Side) (v : Option Slot) : (s.setSlot x v).link = s.link := by cases x <;> rfl
@[simp] theorem setSlot_ticket (s : State) (x : Side) (v : Option Slot) : (s.setSlot x v).ticket = s.ticket := by cases x <;> rfl
@[simp] theorem setSlot_freeCount (s : State) (x : Side) (v : Option Slot) : (s.setSlot x v).freeCount = s.freeCount := by cases x <;> rfl
@[simp] theorem setSlot_pending (s : State) (x : Side) (v : Option Slot) : (s.setSlot x v).pending = s.pending := by cases x <;> rfl

/-! ### The canopy -/

@[simp] theorem modCanopy_pattern (s : State) (f : Canopy → Canopy) : (s.modCanopy f).pattern = s.pattern := rfl
@[simp] theorem modCanopy_cells (s : State) (f : Canopy → Canopy) : (s.modCanopy f).cells = s.cells := rfl
@[simp] theorem modCanopy_complete (s : State) (f : Canopy → Canopy) : (s.modCanopy f).complete = s.complete := rfl
@[simp] theorem modCanopy_tally (s : State) (f : Canopy → Canopy) : (s.modCanopy f).tally = s.tally := rfl
@[simp] theorem modCanopy_classes (s : State) (f : Canopy → Canopy) : (s.modCanopy f).classes = s.classes := rfl
@[simp] theorem modCanopy_strata (s : State) (f : Canopy → Canopy) : (s.modCanopy f).strata = s.strata := rfl
@[simp] theorem modCanopy_rateStep (s : State) (f : Canopy → Canopy) : (s.modCanopy f).rateStep = s.rateStep := rfl
@[simp] theorem modCanopy_pressureStep (s : State) (f : Canopy → Canopy) : (s.modCanopy f).pressureStep = s.pressureStep := rfl
@[simp] theorem modCanopy_temps (s : State) (f : Canopy → Canopy) : (s.modCanopy f).temps = s.temps := rfl
@[simp] theorem modCanopy_boomA (s : State) (f : Canopy → Canopy) : (s.modCanopy f).boomA = s.boomA := rfl
@[simp] theorem modCanopy_boomB (s : State) (f : Canopy → Canopy) : (s.modCanopy f).boomB = s.boomB := rfl
@[simp] theorem modCanopy_arbiter (s : State) (f : Canopy → Canopy) : (s.modCanopy f).arbiter = s.arbiter := rfl
@[simp] theorem modCanopy_lines (s : State) (f : Canopy → Canopy) : (s.modCanopy f).lines = s.lines := rfl
@[simp] theorem modCanopy_holding (s : State) (f : Canopy → Canopy) : (s.modCanopy f).holding = s.holding := rfl
@[simp] theorem modCanopy_stopOpenings (s : State) (f : Canopy → Canopy) : (s.modCanopy f).stopOpenings = s.stopOpenings := rfl
@[simp] theorem modCanopy_slotA (s : State) (f : Canopy → Canopy) : (s.modCanopy f).slotA = s.slotA := rfl
@[simp] theorem modCanopy_slotB (s : State) (f : Canopy → Canopy) : (s.modCanopy f).slotB = s.slotB := rfl
@[simp] theorem modCanopy_flags (s : State) (f : Canopy → Canopy) : (s.modCanopy f).flags = s.flags := rfl
@[simp] theorem modCanopy_link (s : State) (f : Canopy → Canopy) : (s.modCanopy f).link = s.link := rfl
@[simp] theorem modCanopy_ticket (s : State) (f : Canopy → Canopy) : (s.modCanopy f).ticket = s.ticket := rfl
@[simp] theorem modCanopy_freeCount (s : State) (f : Canopy → Canopy) : (s.modCanopy f).freeCount = s.freeCount := rfl
@[simp] theorem modCanopy_pending (s : State) (f : Canopy → Canopy) : (s.modCanopy f).pending = s.pending := rfl

/-! ### What the updates write, and a boom through the updates that do not write it -/

@[simp] theorem setSlot_slot (s : State) (x : Side) (v : Option Slot) : (s.setSlot x v).slot x = v := by
  cases x <;> rfl

@[simp] theorem setSlot_slot_other (s : State) (x : Side) (v : Option Slot) :
    (s.setSlot x v).slot x.other = s.slot x.other := by
  cases x <;> rfl

@[simp] theorem setBoom_slot (s : State) (x y : Side) (b : Boom) : (s.setBoom x b).slot y = s.slot y := by
  cases x <;> cases y <;> rfl

@[simp] theorem modCanopy_canopy (s : State) (f : Canopy → Canopy) : (s.modCanopy f).canopy = f s.canopy := rfl

@[simp] theorem setCell_boom (s : State) (p : Pos) (c : Cell) (x : Side) : (s.setCell p c).boom x = s.boom x := by
  cases x <;> rfl

@[simp] theorem setFlagRec_boom (s : State) (f : Flag) (r : FlagRec) (x : Side) :
    (s.setFlagRec f r).boom x = s.boom x := by
  cases x <;> rfl

@[simp] theorem setSlot_boom (s : State) (y : Side) (v : Option Slot) (x : Side) :
    (s.setSlot y v).boom x = s.boom x := by
  cases x <;> cases y <;> rfl

@[simp] theorem modCanopy_boom (s : State) (f : Canopy → Canopy) (x : Side) : (s.modCanopy f).boom x = s.boom x := by
  cases x <;> rfl

/-- A boom is one of the two fields: an update of the others leaves it. -/
theorem boom_congr {s t : State} (ha : t.boomA = s.boomA) (hb : t.boomB = s.boomB) (x : Side) : t.boom x = s.boom x := by
  cases x
  · exact ha
  · exact hb

/-! ### Flags and cells by name -/

theorem Flag.idx_inj {f g : Flag} (h : f.idx = g.idx) : f = g := by
  cases f <;> cases g <;> first | rfl | (rename_i x y; cases x <;> cases y <;> first | rfl | simp [Flag.idx] at h) |
    (rename_i x; cases x <;> simp [Flag.idx] at h) | simp [Flag.idx] at h

@[simp] theorem setFlagRec_flag (s : State) (f : Flag) (r : FlagRec) : (s.setFlagRec f r).flag f = r := by
  simp [State.flag, State.setFlagRec]

theorem setFlagRec_flag_ne (s : State) {f g : Flag} (r : FlagRec) (h : g ≠ f) : (s.setFlagRec f r).flag g = s.flag g := by
  have hi : f.idx.val ≠ g.idx.val := fun e => h (Flag.idx_inj (Fin.ext e.symm))
  simp [State.flag, State.setFlagRec, Vector.getElem_set_ne _ _ hi]

theorem Pos.idx_inj {p q : Pos} (h : p.idx = q.idx) : p = q := by
  rcases p with ⟨c, r⟩
  rcases q with ⟨c', r'⟩
  simp only [Pos.idx, Fin.mk.injEq] at h
  have hc : c = c' := Fin.ext (by omega)
  have hr : r = r' := Fin.ext (by omega)
  rw [hc, hr]

@[simp] theorem setCell_cell (s : State) (p : Pos) (c : Cell) : (s.setCell p c).cell p = c := by
  simp [State.cell, State.setCell]

theorem setCell_cell_ne (s : State) {p q : Pos} (c : Cell) (h : q ≠ p) : (s.setCell p c).cell q = s.cell q := by
  have hi : p.idx.val ≠ q.idx.val := fun e => h (Pos.idx_inj (Fin.ext e.symm))
  simp [State.cell, State.setCell, Vector.getElem_set_ne _ _ hi]

@[simp] theorem setBoom_cell (s : State) (x : Side) (b : Boom) (p : Pos) : (s.setBoom x b).cell p = s.cell p := by
  cases x <;> rfl

end Sys2Proof.Machine
end

