-- ==== Sys2Proof/Laws/Settle.lean ====
section
/-! SUPPORT. What the end of an event can change: output lines, LINES, the transmitter and the count of free choices; and what
it leaves of a settled state. -/

namespace Sys2Proof.Machine

/-! ### Flags -/

/-- Setting a flag changes the flags alone. -/
theorem raiseFlag_only (f : Flag) (b : Option Side) (p : Option Pos) (r : Nat) (s : State) :
    raiseFlag f b p r s = { s with flags := (raiseFlag f b p r s).flags } := by
  unfold raiseFlag
  dsimp only
  split <;> rfl

/-- Setting a flag changes that flag alone. -/
theorem raiseFlag_flag_ne (f g : Flag) (b : Option Side) (p : Option Pos) (r : Nat) (s : State) (h : g ≠ f) :
    (raiseFlag f b p r s).flag g = s.flag g := by
  unfold raiseFlag
  dsimp only
  split
  · rfl
  · exact setFlagRec_flag_ne _ _ h

/-- The flag after its cause: set; pending with this body where it was clear, enabled and of level 1 to 3 (R168). -/
theorem raiseFlag_flag (f : Flag) (b : Option Side) (p : Option Pos) (r : Nat) (s : State) :
    (raiseFlag f b p r s).flag f =
      if (s.flag f).set then s.flag f
      else
        { s.flag f with
          set := true, pending := if (s.flag f).enable && 0 < (s.flag f).level then some ⟨f, b, p, r⟩ else none } := by
  unfold raiseFlag
  dsimp only
  split <;> simp

theorem raiseFlag_set (f : Flag) (b : Option Side) (p : Option Pos) (r : Nat) (s : State) :
    ((raiseFlag f b p r s).flag f).set = true := by
  rw [raiseFlag_flag]
  split <;> simp_all

/-! ### Lines -/

theorem setLines_only (ls : Vector LineRec 32) (s : State) :
    setLines ls s = { s with lines := ls, flags := (setLines ls s).flags } := by
  unfold setLines
  dsimp only
  split
  · rw [raiseFlag_only]
  · rfl

theorem setLines_flag_ne (ls : Vector LineRec 32) (s : State) (g : Flag) (h : g ≠ .lines) :
    (setLines ls s).flag g = s.flag g := by
  unfold setLines
  dsimp only
  split
  · rw [raiseFlag_flag_ne _ _ _ _ _ _ h]
    rfl
  · rfl

/-- A line already at a level takes no edge. -/
theorem toLevel_same (l : LineRec) : l.toLevel l.digital = l := by
  unfold LineRec.toLevel
  simp

theorem toLevel_digital (new : Bool) (l : LineRec) : (l.toLevel new).digital = new := by
  unfold LineRec.toLevel
  split <;> simp_all

/-- A level taken changes only the digital state and the latch. -/
theorem toLevel_only (new : Bool) (l : LineRec) :
    l.toLevel new = { l with digital := (l.toLevel new).digital, latch := (l.toLevel new).latch } := by
  unfold LineRec.toLevel
  split <;> rfl

/-- What an output line drives does not depend on its digital state or latch. -/
theorem levelNow_toLevel (holding new : Bool) (l : LineRec) : (l.toLevel new).levelNow holding = l.levelNow holding := by
  rw [toLevel_only]
  rfl

/-- A refreshed line changes only in its output value, digital state and latch. -/
theorem refreshLine_only (s : State) (l : LineRec) :
    refreshLine s l =
      { l with outValue := (refreshLine s l).outValue, digital := (refreshLine s l).digital,
               latch := (refreshLine s l).latch } := by
  unfold refreshLine
  split
  · rfl
  · rfl
  all_goals
    dsimp only
    rw [toLevel_only]

theorem refreshLine_input (s : State) (l : LineRec) (h : l.mode.isOut = false) : refreshLine s l = l := by
  unfold refreshLine
  revert h
  cases l.mode <;> simp [LineMode.isOut]

/-- The refreshed line depends on the booms, the canopy and the holding alone. -/
theorem refreshLine_congr {s t : State} (ha : t.boomA = s.boomA) (hb : t.boomB = s.boomB) (hc : t.canopy = s.canopy)
    (hh : t.holding = s.holding) : refreshLine t = refreshLine s := by
  have hcmd : ownerCommand t = ownerCommand s := by
    funext f
    unfold ownerCommand
    have hbm := boom_congr ha hb
    split <;> simp [hbm, hc]
  funext l
  unfold refreshLine
  rw [hcmd, hh]

theorem refreshLine_unbound (s t : State) (l : LineRec) (hh : t.holding = s.holding) (h : l.binding = none) :
    refreshLine t l = refreshLine s l := by
  unfold refreshLine
  simp [h, hh]

/-- Refreshing twice is refreshing once. -/
theorem refreshLine_idem (s : State) (l : LineRec) : refreshLine s (refreshLine s l) = refreshLine s l := by
  by_cases h : l.mode.isOut
  · have hm : (refreshLine s l).mode = l.mode := by rw [refreshLine_only]
    have hb : (refreshLine s l).binding = l.binding := by rw [refreshLine_only]
    obtain ⟨l', hl', hbl⟩ : ∃ l', refreshLine s l = l'.toLevel (l'.levelNow s.holding) ∧
        l' = { l with outValue := ((l.binding.bind fun b => ownerCommand s b.fn)).getD l.outValue } := by
      unfold refreshLine
      revert h
      cases l.mode <;> simp [LineMode.isOut]
    have hv : (refreshLine s l).outValue = ((l.binding.bind fun b => ownerCommand s b.fn)).getD l.outValue := by
      rw [hl', toLevel_only, hbl]
    have hd : (refreshLine s l).digital = (refreshLine s l).levelNow s.holding := by
      rw [hl', toLevel_digital, levelNow_toLevel]
    generalize hr : refreshLine s l = r at *
    have hout : ((r.binding.bind fun b => ownerCommand s b.fn)).getD r.outValue = r.outValue := by
      rw [hb, hv]
      cases (l.binding.bind fun b => ownerCommand s b.fn) <;> rfl
    have heq : ({ r with outValue := ((r.binding.bind fun b => ownerCommand s b.fn)).getD r.outValue } : LineRec) = r := by
      rw [hout]
    unfold refreshLine
    dsimp only
    rw [heq, ← hd, toLevel_same]
    split <;> rfl
  · have h' : l.mode.isOut = false := by simpa using h
    rw [refreshLine_input s l h', refreshLine_input s l h']

theorem settleLines_only (s : State) :
    settleLines s = { s with lines := s.lines.map (refreshLine s), flags := (settleLines s).flags } := by
  unfold settleLines
  rw [setLines_only]

theorem settleLines_flag_ne (s : State) (g : Flag) (h : g ≠ .lines) : (settleLines s).flag g = s.flag g :=
  setLines_flag_ne _ _ _ h

/-- Where the lines are settled, refreshing them changes nothing. -/
theorem settleLines_eq (s : State) (h : s.linesSettled) : settleLines s = s := by
  unfold settleLines
  rw [show s.lines.map (refreshLine s) = s.lines from h]
  unfold setLines
  have : (s.lines.toList.zip s.lines.toList).any (fun p => !p.1.flagged && p.2.flagged) = false := by
    rw [List.any_eq_false]
    intro p hp
    have : p.1 = p.2 := by
      obtain ⟨i, hi, rfl⟩ := List.mem_iff_getElem.mp hp
      simp
    simp [this]
  simp [this]

/-! ### The uplink -/

/-- A pending notice of level 1 to 3. -/
def offered (r : FlagRec) : Bool := r.pending.isSome && (r.level == 3 || r.level == 2 || r.level == 1)

theorem mem_allFlags (f : Flag) : f ∈ allFlags := by
  cases f <;> first | decide | (rename_i x; cases x <;> decide)

/-- The notice chosen is an offered one. -/
theorem nextNotice_offered {s : State} {f : Flag} (h : nextNotice s = some f) : offered (s.flag f) = true := by
  unfold nextNotice at h
  simp only [List.findSome?_cons, List.findSome?_nil] at h
  unfold offered
  split at h
  · next g hg =>
    have := List.find?_some hg
    simp_all
  · split at h
    · next g hg =>
      have := List.find?_some hg
      simp_all
    · split at h
      · next g hg =>
        have := List.find?_some hg
        simp_all
      · exact absurd h (by simp)

/-- No notice is chosen exactly where none is offered. -/
theorem nextNotice_none {s : State} (h : nextNotice s = none) (f : Flag) : offered (s.flag f) = false := by
  unfold nextNotice at h
  simp only [List.findSome?_cons, List.findSome?_nil] at h
  unfold offered
  split at h
  · exact absurd h (by simp)
  · next h3 =>
    split at h
    · exact absurd h (by simp)
    · next h2 =>
      split at h
      · exact absurd h (by simp)
      · next h1 =>
        rw [List.find?_eq_none] at h1 h2 h3
        have a1 := h1 f (mem_allFlags f)
        have a2 := h2 f (mem_allFlags f)
        have a3 := h3 f (mem_allFlags f)
        simp only [Bool.and_eq_true, beq_iff_eq, not_and] at a1 a2 a3
        cases hp : (s.flag f).pending.isSome
        · rfl
        · simp [a1 hp, a2 hp, a3 hp]

theorem nextNotice_eq_none {s : State} (h : ∀ f, offered (s.flag f) = false) : nextNotice s = none := by
  cases hn : nextNotice s with
  | none => rfl
  | some f =>
    have := nextNotice_offered hn
    rw [h f] at this
    exact absurd this (by simp)

/-- The choice of a notice depends on the flags alone. -/
theorem nextNotice_congr {s t : State} (h : t.flags = s.flags) : nextNotice t = nextNotice s := by
  unfold nextNotice State.flag
  rw [h]

theorem sendNotice_only (f : Flag) (s : State) :
    sendNotice f s = { s with flags := (sendNotice f s).flags, link := { s.link with tx := (sendNotice f s).link.tx } } := by
  unfold sendNotice
  split <;> rfl

theorem sendNotice_flag_ne (f g : Flag) (s : State) (h : g ≠ f) : (sendNotice f s).flag g = s.flag g := by
  unfold sendNotice
  split
  · rfl
  · exact setFlagRec_flag_ne s _ h

theorem uplinkChoose_only (r : Bool) (s : State) :
    uplinkChoose r s =
      { s with flags := (uplinkChoose r s).flags, link := { s.link with tx := (uplinkChoose r s).link.tx } } := by
  unfold uplinkChoose
  split
  · rfl
  · rw [sendNotice_only]
  · rfl
  · split
    · rfl
    · rw [sendNotice_only]

theorem uplinkChoose_flag_ne (r : Bool) (s : State) (g : Flag) (h : offered (s.flag g) = false) :
    (uplinkChoose r s).flag g = s.flag g := by
  have key : ∀ f, nextNotice s = some f → (sendNotice f s).flag g = s.flag g := by
    intro f hf
    refine sendNotice_flag_ne f g s ?_
    rintro rfl
    rw [nextNotice_offered hf] at h
    exact absurd h (by simp)
  unfold uplinkChoose
  split
  · rfl
  · next f _ hf => exact key f hf
  · rfl
  · next f _ hf =>
    split
    · rfl
    · exact key f hf

theorem settleUplink_only (s : State) :
    settleUplink s =
      { s with flags := (settleUplink s).flags, link := { s.link with tx := (settleUplink s).link.tx },
               freeCount := (settleUplink s).freeCount } := by
  unfold settleUplink
  split
  · split
    · rw [uplinkChoose_only]
    · rw [uplinkChoose_only]
  · rfl

theorem settleUplink_busy (s : State) (h : s.link.tx ≠ .idle) : settleUplink s = s := by
  unfold settleUplink
  split
  · next hi => exact absurd hi h
  · rfl

theorem settleUplink_flag_ne (s : State) (g : Flag) (h : s.link.tx = .idle → offered (s.flag g) = false) :
    (settleUplink s).flag g = s.flag g := by
  by_cases hi : s.link.tx = .idle
  · unfold settleUplink
    rw [hi]
    dsimp only
    split
    · exact uplinkChoose_flag_ne _ { s with freeCount := s.freeCount + 1 } g (h hi)
    · exact uplinkChoose_flag_ne _ s g (h hi)
  · rw [settleUplink_busy s hi]

/-! ### What the end of an event is, in the statements' words -/

/-- New line records taken, as the statements say it. -/
theorem setLines_eq (ls : Vector LineRec 32) (s : State) : setLines ls s = s.withLines ls := by
  have hn : (s.lines.toList.zip ls.toList).any (fun p => !p.1.flagged && p.2.flagged) = true ↔
      ∃ i : Fin 32, (ls[i].mask = true ∧ ls[i].latch = true) ∧ ¬ (s.lines[i].mask = true ∧ s.lines[i].latch = true) := by
    rw [List.any_eq_true]
    constructor
    · rintro ⟨p, hp, h⟩
      obtain ⟨i, hi, rfl⟩ := List.mem_iff_getElem.mp hp
      have hi' : i < 32 := by simpa using hi
      refine ⟨⟨i, hi'⟩, ?_⟩
      simp only [List.getElem_zip, Vector.getElem_toList, LineRec.flagged] at h
      simp only [Fin.getElem_fin]
      revert h
      cases ls[i].mask <;> cases ls[i].latch <;> cases s.lines[i].mask <;> cases s.lines[i].latch <;> simp
    · rintro ⟨i, h⟩
      refine ⟨(s.lines[i], ls[i]), ?_, ?_⟩
      · rw [List.mem_iff_getElem]
        exact ⟨i.val, by simp, by simp⟩
      · simp only [LineRec.flagged]
        revert h
        cases ls[i].mask <;> cases ls[i].latch <;> cases s.lines[i].mask <;> cases s.lines[i].latch <;> simp
  unfold setLines State.withLines
  dsimp only
  by_cases h : (s.lines.toList.zip ls.toList).any (fun p => !p.1.flagged && p.2.flagged) = true
  · rw [if_pos h, if_pos (hn.mp h), raiseFlag_only]
    congr 1
    unfold raiseFlag State.setFlagRec State.flag
    dsimp only
    split <;> rfl
  · rw [if_neg h, if_neg (fun k => h (hn.mpr k))]

/-- The flags stand in the order of their codes. -/
theorem allFlags_sorted : allFlags.Pairwise fun f g => f.code < g.code := by decide

theorem offers_of_offered {s : State} {f : Flag} (h : offered (s.flag f) = true) : ∃ n, s.offers f n := by
  unfold offered at h
  simp only [Bool.and_eq_true, Bool.or_eq_true, beq_iff_eq, Option.isSome_iff_exists] at h
  obtain ⟨⟨n, hn⟩, hl⟩ := h
  exact ⟨n, hn, by omega, by omega⟩

theorem offered_of_offers {s : State} {f : Flag} {n : Notice} (h : s.offers f n) : offered (s.flag f) = true := by
  obtain ⟨hp, h1, h3⟩ := h
  unfold offered
  simp only [hp, Option.isSome_some, Bool.true_and, Bool.or_eq_true, beq_iff_eq]
  omega

/-- One level's first pending flag has the lowest code of that level. -/
theorem find_level {s : State} {l : Nat} {f : Flag}
    (h : (allFlags.find? fun f => (s.flag f).pending.isSome && (s.flag f).level == l) = some f) :
    (s.flag f).level = l ∧ ∀ g m, g ≠ f → s.offers g m → (s.flag g).level = l → f.code < g.code := by
  obtain ⟨hf, as, bs, hab, hno⟩ := List.find?_eq_some_iff_append.mp h
  simp only [Bool.and_eq_true, beq_iff_eq] at hf
  refine ⟨hf.2, fun g m hg ho hl => ?_⟩
  have hs := allFlags_sorted
  rw [hab, List.pairwise_append] at hs
  have hm := mem_allFlags g
  rw [hab, List.mem_append, List.mem_cons] at hm
  rcases hm with ha | rfl | hb
  · have := hno g ha
    simp [ho.1, hl] at this
  · exact absurd rfl hg
  · exact (List.pairwise_cons.mp hs.2.1).1 g hb

/-- No flag of a level is pending. -/
theorem find_level_none {s : State} {l : Nat}
    (h : (allFlags.find? fun f => (s.flag f).pending.isSome && (s.flag f).level == l) = none) {g : Flag} {m : Notice}
    (ho : s.offers g m) : (s.flag g).level ≠ l := by
  have := List.find?_eq_none.mp h g (mem_allFlags g)
  simpa [ho.1] using this

/-- The notice the arbiter finds is the one R165 chooses. -/
theorem chooses_of_nextNotice {s : State} {f : Flag} (h : nextNotice s = some f) : ∃ n, s.chooses f n := by
  obtain ⟨n, hn⟩ := offers_of_offered (nextNotice_offered h)
  refine ⟨n, hn, fun g m hg ho => ?_⟩
  have hl := ho.2
  unfold nextNotice at h
  simp only [List.findSome?_cons, List.findSome?_nil] at h
  split at h
  · next k h3 =>
    cases h
    obtain ⟨e, hc⟩ := find_level h3
    by_cases hg3 : (s.flag g).level = 3
    · exact .inr ⟨by omega, hc g m hg ho hg3⟩
    · exact .inl (by omega)
  · next h3 =>
    have g3 := find_level_none h3 ho
    split at h
    · next k h2 =>
      cases h
      obtain ⟨e, hc⟩ := find_level h2
      by_cases hg2 : (s.flag g).level = 2
      · exact .inr ⟨by omega, hc g m hg ho hg2⟩
      · exact .inl (by omega)
    · next h2 =>
      have g2 := find_level_none h2 ho
      split at h
      · next k h1 =>
        cases h
        obtain ⟨e, hc⟩ := find_level h1
        exact .inr ⟨by omega, hc g m hg ho (by omega)⟩
      · exact absurd h (by simp)

/-- R165 chooses one notice at most. -/
theorem chooses_unique {s : State} {f g : Flag} {n m : Notice} (hf : s.chooses f n) (hg : s.chooses g m) : f = g := by
  by_contra h
  rcases hf.2 g m (Ne.symm h) hg.1 with a | ⟨a, a'⟩ <;> rcases hg.2 f n h hf.1 with b | ⟨b, b'⟩ <;> omega

theorem nextNotice_eq_some {s : State} {f : Flag} {n : Notice} (h : s.chooses f n) : nextNotice s = some f := by
  cases hn : nextNotice s with
  | none =>
    have := nextNotice_none hn f
    rw [offered_of_offers h.1] at this
    exact absurd this (by simp)
  | some g =>
    obtain ⟨m, hm⟩ := chooses_of_nextNotice hn
    rw [chooses_unique hm h]

theorem nextNotice_eq_none_iff {s : State} : nextNotice s = none ↔ ∀ f n, ¬ s.offers f n := by
  constructor
  · intro h f n ho
    have := nextNotice_none h f
    rw [offered_of_offers ho] at this
    exact absurd this (by simp)
  · intro h
    refine nextNotice_eq_none fun f => ?_
    by_contra hf
    obtain ⟨n, hn⟩ := offers_of_offered (by simpa using hf)
    exact h f n hn

theorem sendNotice_eq {s : State} {f : Flag} {n : Notice} (h : s.offers f n) : sendNotice f s = s.sendingNotice f n := by
  unfold sendNotice
  rw [h.1]
  rfl

/-- The transmitter at the end of an event does what R165 says. -/
theorem settleUplink_takes (w : State) : uplinkTakes w (settleUplink w) := by
  refine ⟨fun h => ?_, fun hi => ⟨fun hn => ?_, fun f n hc => ⟨fun hr => ?_, fun hr => ?_⟩⟩⟩
  · rw [settleUplink_busy w h]
  · have := nextNotice_eq_none_iff.mpr hn
    unfold settleUplink
    rw [hi]
    cases hr : w.link.reply
    · simp only [this, uplinkChoose, hr, if_true]
      rw [← hi, ← hr]
    · simp only [this, uplinkChoose, hr, reduceCtorEq, if_false, State.sending]
  · have := nextNotice_eq_some hc
    unfold settleUplink
    rw [hi]
    simp only [hr, this, uplinkChoose]
    rw [sendNotice_eq hc.1]
  · have := nextNotice_eq_some hc
    obtain ⟨q, hq⟩ := Option.ne_none_iff_exists'.mp hr
    have hn : nextNotice { w with freeCount := w.freeCount + 1 } = some f := this
    unfold settleUplink
    rw [hi]
    simp only [hq, this, uplinkChoose, hn]
    split
    · simp only [State.sending, hq, true_or]
    · right
      rw [sendNotice_eq (s := { w with freeCount := w.freeCount + 1 }) hc.1]
      rfl

/-- The end of an event, as the statements say it. -/
theorem settle_settlesTo (v : State) : settlesTo v (settle v) := by
  unfold settlesTo settle settleLines
  rw [← setLines_eq]
  exact settleUplink_takes _

/-! ### The end of an event -/

/-- The end of an event changes the lines as refreshed, flags, the transmitter and the count of free choices. -/
theorem settle_only (s : State) :
    settle s =
      { s with lines := s.lines.map (refreshLine s), flags := (settle s).flags,
               link := { s.link with tx := (settle s).link.tx }, freeCount := (settle s).freeCount } := by
  unfold settle
  rw [settleUplink_only, settleLines_only]

section
variable (s : State)
@[simp] theorem settle_pattern : (settle s).pattern = s.pattern := by rw [settle_only]
@[simp] theorem settle_cells : (settle s).cells = s.cells := by rw [settle_only]
@[simp] theorem settle_complete : (settle s).complete = s.complete := by rw [settle_only]
@[simp] theorem settle_tally : (settle s).tally = s.tally := by rw [settle_only]
@[simp] theorem settle_classes : (settle s).classes = s.classes := by rw [settle_only]
@[simp] theorem settle_strata : (settle s).strata = s.strata := by rw [settle_only]
@[simp] theorem settle_rateStep : (settle s).rateStep = s.rateStep := by rw [settle_only]
@[simp] theorem settle_pressureStep : (settle s).pressureStep = s.pressureStep := by rw [settle_only]
@[simp] theorem settle_temps : (settle s).temps = s.temps := by rw [settle_only]
@[simp] theorem settle_boomA : (settle s).boomA = s.boomA := by rw [settle_only]
@[simp] theorem settle_boomB : (settle s).boomB = s.boomB := by rw [settle_only]
@[simp] theorem settle_arbiter : (settle s).arbiter = s.arbiter := by rw [settle_only]
@[simp] theorem settle_canopy : (settle s).canopy = s.canopy := by rw [settle_only]
@[simp] theorem settle_lines : (settle s).lines = s.lines.map (refreshLine s) := by rw [settle_only]
@[simp] theorem settle_holding : (settle s).holding = s.holding := by rw [settle_only]
@[simp] theorem settle_stopOpenings : (settle s).stopOpenings = s.stopOpenings := by rw [settle_only]
@[simp] theorem settle_slotA : (settle s).slotA = s.slotA := by rw [settle_only]
@[simp] theorem settle_slotB : (settle s).slotB = s.slotB := by rw [settle_only]
@[simp] theorem settle_ticket : (settle s).ticket = s.ticket := by rw [settle_only]
@[simp] theorem settle_pending : (settle s).pending = s.pending := by rw [settle_only]
@[simp] theorem settle_rx : (settle s).link.rx = s.link.rx := by rw [settle_only]
@[simp] theorem settle_queue : (settle s).link.queue = s.link.queue := by rw [settle_only]
@[simp] theorem settle_reply : (settle s).link.reply = s.link.reply := by rw [settle_only]
@[simp] theorem settle_lastError : (settle s).link.lastError = s.link.lastError := by rw [settle_only]

@[simp] theorem settle_boom (x : Side) : (settle s).boom x = s.boom x := boom_congr (settle_boomA s) (settle_boomB s) x

@[simp] theorem settle_cell (p : Pos) : (settle s).cell p = s.cell p := by
  unfold State.cell
  rw [settle_cells]

@[simp] theorem settle_slot (x : Side) : (settle s).slot x = s.slot x := by
  cases x
  · exact settle_slotA s
  · exact settle_slotB s
end

/-- LINES as it stands at the end of an event whose lines were as at its start. -/
theorem settle_linesKept {s v : State} (hl : v.lines = s.lines) (hf : v.flag .lines = s.flag .lines) :
    linesKept s (settle v) := by
  have keep : ∀ w : State, ((settleUplink w).flag .lines).set = (w.flag .lines).set ∧
      ((settleUplink w).flag .lines).enable = (w.flag .lines).enable ∧
      ((settleUplink w).flag .lines).level = (w.flag .lines).level := by
    have hs : ∀ (f : Flag) (w : State), ((sendNotice f w).flag .lines).set = (w.flag .lines).set ∧
        ((sendNotice f w).flag .lines).enable = (w.flag .lines).enable ∧
        ((sendNotice f w).flag .lines).level = (w.flag .lines).level := by
      intro f w
      by_cases h : Flag.lines = f
      · subst h
        unfold sendNotice
        split
        · simp
        · rw [show ∀ (u : State) (k : Link), ({ u with link := k } : State).flag .lines = u.flag .lines from fun _ _ => rfl,
            setFlagRec_flag]
          simp
      · rw [sendNotice_flag_ne f _ w h]
        simp
    have hc : ∀ (r : Bool) (w : State), ((uplinkChoose r w).flag .lines).set = (w.flag .lines).set ∧
        ((uplinkChoose r w).flag .lines).enable = (w.flag .lines).enable ∧
        ((uplinkChoose r w).flag .lines).level = (w.flag .lines).level := by
      intro r w
      unfold uplinkChoose
      split
      · exact ⟨rfl, rfl, rfl⟩
      · exact hs _ w
      · exact ⟨rfl, rfl, rfl⟩
      · split
        · exact ⟨rfl, rfl, rfl⟩
        · exact hs _ w
    intro w
    unfold settleUplink
    split
    · split
      · exact hc _ _
      · exact hc _ _
    · exact ⟨rfl, rfl, rfl⟩
  have hw : (settleLines v).flag .lines =
      if ∃ i : Fin 32, ((v.lines.map (refreshLine v))[i].mask = true ∧ (v.lines.map (refreshLine v))[i].latch = true) ∧
          ¬ (v.lines[i].mask = true ∧ v.lines[i].latch = true)
      then (raiseFlag .lines none none 0 v).flag .lines else v.flag .lines := by
    unfold settleLines
    rw [setLines_eq]
    unfold State.withLines State.flag
    dsimp only
    split <;> rfl
  obtain ⟨h1, h2, h3⟩ := keep (settleLines v)
  have hr := raiseFlag_flag .lines none none 0 v
  refine ⟨?_, ?_, ?_⟩
  · unfold linesRaised
    rw [show (settle v).flag .lines = (settleUplink (settleLines v)).flag .lines from rfl, h1, hw, settle_lines, ← hl, ← hf]
    split
    · next h => exact iff_of_true (raiseFlag_set _ _ _ _ _) (.inr h)
    · next h => simp only [h, or_false]
  · rw [show (settle v).flag .lines = (settleUplink (settleLines v)).flag .lines from rfl, h2, hw, ← hf]
    split
    · rw [hr]
      split <;> rfl
    · rfl
  · rw [show (settle v).flag .lines = (settleUplink (settleLines v)).flag .lines from rfl, h3, hw, ← hf]
    split
    · rw [hr]
      split <;> rfl
    · rfl

/-- A busy transmitter goes on sending. -/
theorem settle_tx_busy (s : State) (h : s.link.tx ≠ .idle) : (settle s).link.tx = s.link.tx := by
  unfold settle
  rw [settleUplink_busy, settleLines_only]
  rw [settleLines_only]
  exact h

/-- A flag that is not LINES and is not offered to an idle transmitter stays as it is. -/
theorem settle_flag (s : State) (g : Flag) (hg : g ≠ .lines) (h : s.link.tx = .idle → offered (s.flag g) = false) :
    (settle s).flag g = s.flag g := by
  unfold settle
  have hl : (settleLines s).flag g = s.flag g := settleLines_flag_ne s g hg
  have ht : (settleLines s).link.tx = s.link.tx := by rw [settleLines_only]
  rw [settleUplink_flag_ne _ g (by rw [ht, hl]; exact h), hl]

/-- The end of an event leaves every output line as commanded and driven. -/
theorem settle_linesSettled (s : State) : (settle s).linesSettled := by
  unfold State.linesSettled
  rw [refreshLine_congr (settle_boomA s) (settle_boomB s) (settle_canopy s) (settle_holding s), settle_lines]
  rw [Vector.map_map]
  congr 1
  funext l
  exact refreshLine_idem s l

/-- The flags and lines after the end of an event whose link is a settled state's but for the reply slot. -/
theorem outputs_flags_settle {s u : State} (named : List Flag) (hs : s.settled) (hl : u.lines = s.lines)
    (hh : u.holding = s.holding) (hk : u.link.tx = s.link.tx) (hf : ∀ g, g ∉ named → u.flag g = s.flag g) :
    outputsOnly s (settle u) ∧ flagsOnly named s (settle u) := by
  refine ⟨fun i => ⟨?_, ?_⟩, ?_⟩
  · refine ⟨(refreshLine u s.lines[i]).outValue, (refreshLine u s.lines[i]).digital, (refreshLine u s.lines[i]).latch, ?_⟩
    rw [settle_lines, hl]
    simp only [Fin.getElem_fin, Vector.getElem_map]
    exact refreshLine_only u _
  · intro h
    have hi : refreshLine s s.lines[i] = s.lines[i] := by
      have h0 := hs.1
      unfold State.linesSettled at h0
      have h1 := congrArg (fun v : Vector LineRec 32 => v[i]) h0
      simpa using h1
    rw [settle_lines, hl]
    simp only [Fin.getElem_fin, Vector.getElem_map]
    simp only [Fin.getElem_fin] at h hi
    rcases h with h | h
    · rw [refreshLine_unbound s u _ hh h]
      exact hi
    · exact refreshLine_input u _ h
  · intro g hg hgl
    rw [settle_flag u g hgl ?_, hf g hg]
    intro hi
    rw [hf g hg]
    exact nextNotice_none (hs.2.2.2.2 (hk ▸ hi)).2 g

/-- The end of an event in which the lines' records, the holding and the link are as a settled state had them. -/
theorem surround_settle {s u : State} (named : List Flag) (hs : s.settled) (hl : u.lines = s.lines)
    (hh : u.holding = s.holding) (hk : u.link = s.link) (hf : ∀ g, g ∉ named → u.flag g = s.flag g) :
    surround named s (settle u) := by
  obtain ⟨h1, h2⟩ := outputs_flags_settle named hs hl hh (by rw [hk]) hf
  refine ⟨h1, h2, ?_, ?_⟩
  · rw [settle_only, hk]
  · intro h
    rw [settle_tx_busy u (by rw [hk]; exact h), hk]

/-- A transmitter with a reply in the slot is not idle at the end of an event. -/
theorem settle_tx_reply (s : State) (h : s.link.reply ≠ none) : (settle s).link.tx ≠ .idle := by
  unfold settle
  have hr : (settleLines s).link.reply ≠ none := by
    rw [settleLines_only]
    exact h
  generalize settleLines s = u at hr
  by_cases hi : u.link.tx = .idle
  · obtain ⟨f, hf⟩ := Option.ne_none_iff_exists'.mp hr
    unfold settleUplink
    rw [hi]
    dsimp only
    have key : ∀ (r : Bool) (v : State), v.link.reply = some f → (uplinkChoose r v).link.tx ≠ .idle := by
      intro r v hv
      unfold uplinkChoose
      rw [hv]
      split
      · next h _ => simp at h
      · next h _ => simp at h
      · simp
      · next g _ hg =>
        split
        · simp
        · have ho := nextNotice_offered hg
          unfold sendNotice
          unfold offered at ho
          split
          · next hn => simp [hn] at ho
          · simp
    split
    · exact key _ _ hf
    · exact key _ _ hf
  · rw [settleUplink_busy u hi]
    exact hi

/-- The end of a taken request: as `surround_settle`, with the reply placed. -/
theorem answered_settle {s u : State} (named : List Flag) (kind tag : Byte) (body : List Byte) (hs : s.settled)
    (hl : u.lines = s.lines) (hh : u.holding = s.holding)
    (hk : u.link = { s.link with reply := some ⟨kind, tag, body⟩ }) (hf : ∀ g, g ∉ named → u.flag g = s.flag g) :
    answered named kind tag body s (settle u) := by
  obtain ⟨h1, h2⟩ := outputs_flags_settle named hs hl hh (by rw [hk]) hf
  refine ⟨h1, h2, ?_, ?_, ?_⟩
  · rw [settle_only, hk]
  · exact settle_tx_reply u (by rw [hk]; simp)
  · intro h
    rw [settle_tx_busy u (by rw [hk]; exact h), hk]

/-- With the lines settled, a reply in the slot and no notice pending, the end of the event starts the transmitter alone. -/
theorem settle_quiet (u : State) (f : Frame) (hl : u.linesSettled) (hr : u.link.reply = some f)
    (hn : u.link.tx = .idle → nextNotice u = none) :
    settle u = { u with link := { u.link with tx := if u.link.tx = .idle then .reply else u.link.tx } } := by
  unfold settle
  rw [settleLines_eq _ hl]
  by_cases hi : u.link.tx = .idle
  · unfold settleUplink uplinkChoose
    simp [hi, hr, hn hi]
  · rw [settleUplink_busy _ hi]
    simp [hi]

/-- With the lines settled and nothing to send, the end of the event changes nothing. -/
theorem settle_still (u : State) (hl : u.linesSettled)
    (hn : u.link.tx = .idle → u.link.reply = none ∧ nextNotice u = none) : settle u = u := by
  unfold settle
  rw [settleLines_eq _ hl]
  by_cases hi : u.link.tx = .idle
  · unfold settleUplink uplinkChoose
    obtain ⟨h1, h2⟩ := hn hi
    simp only [hi, h1, h2]
    rw [← hi, ← h1]
  · exact settleUplink_busy _ hi

/-- Settled lines stay settled where lines, holding, canopy and the booms' outputs stay. -/
theorem linesSettled_congr {s t : State} (h : s.linesSettled) (hl : t.lines = s.lines) (hh : t.holding = s.holding)
    (hc : ownerCommand t = ownerCommand s) : t.linesSettled := by
  unfold State.linesSettled at *
  have : refreshLine t = refreshLine s := by
    funext l
    unfold refreshLine
    rw [hc, hh]
  rw [this, hl, h]

/-- The owners' commands are those of the booms' outputs and the canopy. -/
theorem ownerCommand_congr {s t : State} (hb : ∀ x, boomOutputs (t.boom x) = boomOutputs (s.boom x))
    (hc : t.canopy.state = s.canopy.state) (hv : t.canopy.port.view = s.canopy.port.view) :
    ownerCommand t = ownerCommand s := by
  funext f
  unfold ownerCommand
  split <;> simp [hb, hc, hv]

/-- A settled state with a reply placed and nothing else done. -/
theorem settle_placed (s : State) (kind tag : Byte) (body : List Byte) (hs : s.settled) :
    settle { s with link := { s.link with reply := some ⟨kind, tag, body⟩ } } = s.withReply kind tag body := by
  rw [settle_quiet _ ⟨kind, tag, body⟩ ?_ rfl ?_]
  · rfl
  · exact linesSettled_congr hs.1 rfl rfl (ownerCommand_congr (fun x => by cases x <;> rfl) rfl rfl)
  · intro hi
    exact (nextNotice_congr (s := s) rfl).trans (hs.2.2.2.2 hi).2

end Sys2Proof.Machine
end

