-- ==== Sys2Proof/Laws/Requests.lean ====
section
/-! SUPPORT. What the arrival of a request does: taken at once it is answered by the block that owns it; behind a full slot
it waits; behind a full queue it is dropped (R163, R164). -/

namespace Sys2Proof.Machine

/-! ### The block that answers each request -/

theorem answer_owner (kind : Byte) (body : List Byte) (s : State) (hk : kindNamed kind = true)
    (hl : lengthAllowed kind body = true) : answer kind body s = ownerAnswer kind.toNat body s := by
  unfold answer
  rw [hk, hl]
  rfl

theorem allowed_of_length (kind : Byte) {body : List Byte} {n : Nat} (hb : bodyLengths kind.toNat = some [n])
    (hk : (kind == 0x12) = false) (hn : body.length = n) : lengthAllowed kind body = true := by
  unfold lengthAllowed
  rw [hb, hk]
  simp [hn]

theorem wordBytes_length (ws : Vector Word 8) : (ws.toList.flatMap wordBytes).length = 16 := by
  simp [wordBytes, List.length_flatMap]

theorem answer_status (s : State) :
    answer 0x01 [] s = reqStatus s := rfl

theorem answer_clear (flags : Word) (s : State) :
    answer 0x02 (wordBytes flags) s = reqClear (byteOf (flags.toNat / 256)) (byteOf (flags.toNat % 256)) s := by
  rw [answer_owner _ _ _ rfl rfl]
  rfl

theorem answer_noticeSet (flag enable level : Byte) (s : State) :
    answer 0x03 [flag, enable, level] s = reqNoticeSet flag enable level s := rfl

theorem answer_restart (s : State) :
    answer 0x04 [] s = reqRestart s := rfl

theorem answer_lineConfig (line mode pull sense mask : Byte) (s : State) :
    answer 0x08 [line, mode, pull, sense, mask] s = reqLineConfig line mode pull sense mask s := rfl

theorem answer_lineBind (line fn : Byte) (fullScale : Word) (tempOffset tempSpan : Byte) (s : State) :
    answer 0x09 ([line, fn] ++ wordBytes fullScale ++ [tempOffset, tempSpan]) s =
      reqLineBind line fn (byteOf (fullScale.toNat / 256)) (byteOf (fullScale.toNat % 256)) tempOffset tempSpan s := by
  rw [answer_owner _ _ _ rfl rfl]
  rfl

theorem answer_lineRead (s : State) :
    answer 0x0A [] s = reqLineRead s := rfl

theorem answer_lineWrite (line value : Byte) (s : State) :
    answer 0x0B [line, value] s = reqLineWrite line value s := rfl

theorem answer_classWrite (index : Byte) (record : Vector Byte 44) (s : State) :
    answer 0x10 (index :: record.toList) s = reqClassWrite index record.toList s := by
  rw [answer_owner _ _ _ rfl (allowed_of_length 0x10 (n := 45) rfl (by decide) (by simp))]
  rfl

theorem answer_classRead (index : Byte) (s : State) :
    answer 0x11 [index] s = reqClassRead index s := rfl

theorem answer_strataRead (band : Byte) (s : State) :
    answer 0x13 [band] s = reqStrataRead band s := rfl

theorem answer_tempWrite (scales : Vector Word 8) (s : State) :
    answer 0x14 (scales.toList.flatMap wordBytes) s = reqTempWrite (scales.toList.flatMap wordBytes) s := by
  rw [answer_owner _ _ _ rfl (allowed_of_length 0x14 (n := 16) rfl (by decide) (wordBytes_length scales))]
  rfl

theorem answer_patternDefine (xs xe ys ye orderA mirrorXA mirrorYA orderB mirrorXB mirrorYB clearance : Byte)
  (s : State) :
    answer 0x18 [xs, xe, ys, ye, orderA, mirrorXA, mirrorYA, orderB, mirrorXB, mirrorYB, clearance] s =
      reqPatternDefine xs xe ys ye orderA mirrorXA mirrorYA orderB mirrorXB mirrorYB clearance s :=
  rfl

theorem answer_cellMark (x1 x2 y1 y2 cls : Byte) (s : State) :
    answer 0x19 [x1, x2, y1, y2, cls] s = reqCellMark x1 x2 y1 y2 cls s := rfl

theorem answer_cellRead (x y : Byte) (s : State) :
    answer 0x1A [x, y] s = reqCellRead x y s := rfl

theorem answer_tallyRead (s : State) :
    answer 0x1B [] s = reqTallyRead s := rfl

theorem answer_boomStart (boom : Byte) (s : State) :
    answer 0x20 [boom] s = reqBoomStart boom s := rfl

theorem answer_boomStop (boom : Byte) (s : State) :
    answer 0x21 [boom] s = reqBoomStop boom s := rfl

theorem answer_boomRead (boom : Byte) (s : State) :
    answer 0x22 [boom] s = reqBoomRead boom s := rfl

theorem answer_atHole (boom : Byte) (s : State) :
    answer 0x23 [boom] s = reqAtHole boom s := rfl

theorem answer_proceed (boom : Byte) (s : State) :
    answer 0x24 [boom] s = reqProceed boom s := rfl

theorem answer_decide (boom choice : Byte) (extStep : Word) (cls : Byte) (s : State) :
    answer 0x25 ([boom, choice] ++ wordBytes extStep ++ [cls]) s =
      reqDecide boom choice (byteOf (extStep.toNat / 256)) (byteOf (extStep.toNat % 256)) cls s := by
  rw [answer_owner _ _ _ rfl rfl]
  rfl

theorem answer_hold (boom : Byte) (s : State) :
    answer 0x26 [boom] s = reqHold boom s := rfl

theorem answer_resume (boom : Byte) (s : State) :
    answer 0x27 [boom] s = reqResume boom s := rfl

theorem answer_abort (boom : Byte) (s : State) :
    answer 0x28 [boom] s = reqAbort boom s := rfl

theorem answer_skip (boom x y : Byte) (s : State) :
    answer 0x29 [boom, x, y] s = reqSkip boom x y s := rfl

theorem answer_magazineLoad (boom purge count : Byte) (kinds : Vector Byte 6) (s : State) :
    answer 0x2A ([boom, purge, count] ++ kinds.toList) s = reqMagazineLoad boom purge count kinds.toList s := by
  rw [answer_owner _ _ _ rfl (allowed_of_length 0x2A (n := 9) rfl (by decide) (by simp))]
  rfl

theorem answer_pumpSet (budget : Byte) (s : State) :
    answer 0x30 [budget] s = reqPumpSet budget s := rfl

theorem answer_flowRead (s : State) :
    answer 0x31 [] s = reqFlowRead s := rfl

theorem answer_canopyRaise (demand : Byte) (s : State) :
    answer 0x34 [demand] s = reqCanopyRaise demand s := rfl

theorem answer_canopyLower (s : State) :
    answer 0x35 [] s = reqCanopyLower s := rfl

theorem answer_recordFetch (boom : Byte) (s : State) :
    answer 0x38 [boom] s = reqRecordFetch boom s := rfl

theorem answer_recordRelease (boom col row : Byte) (s : State) :
    answer 0x39 [boom, col, row] s = reqRecordRelease boom col row s := rfl

theorem answer_strataWrite (form : Byte) (rest : List Byte) (s : State) (h : lengthAllowed 0x12 (form :: rest) = true) :
    answer 0x12 (form :: rest) s = reqStrataWrite form rest s := by
  rw [answer_owner _ _ _ rfl h]
  rfl

/-! ### Arrival -/

/-- A request taken at once: the answer of its block, and the reply placed. -/
theorem hostSends_ready {s : State} (h : s.ready) (kind tag : Byte) (body : List Byte) :
    hostSends kind tag body s =
      settle { (answer kind body s).1 with
        link := { (answer kind body s).1.link with reply := some ⟨replyKind kind, tag, (answer kind body s).2⟩ } } := by
  obtain ⟨_, hq, hr⟩ := h
  have hs : ({ s with link := { s.link with queue := [] } } : State) = s := by
    rw [← hq]
  have ht : takeFrame { s with link := { s.link with queue := [⟨kind, tag, body⟩] } } =
      { (answer kind body s).1 with
        link := { (answer kind body s).1.link with reply := some ⟨replyKind kind, tag, (answer kind body s).2⟩ } } := by
    unfold takeFrame
    rw [show ({ s with link := { s.link with queue := [⟨kind, tag, body⟩] } } : State).link.reply = none from hr]
    dsimp only
    rw [hs]
  unfold hostSends frameArrives
  rw [hq, if_pos (by decide), List.nil_append, ht]

/-- A request taken at once that changes nothing: the reply is placed. -/
theorem hostSends_same {s : State} (h : s.ready) {kind tag : Byte} {body reply : List Byte}
    (ha : answer kind body s = (s, reply)) : hostSends kind tag body s = s.withReply (replyKind kind) tag reply := by
  rw [hostSends_ready h, ha]
  exact settle_placed s _ _ _ h.1

theorem takeFrame_full (s : State) (h : s.link.reply ≠ none) : takeFrame s = s := by
  unfold takeFrame
  split
  · next hn => exact absurd hn h
  · rfl

/-- A request that arrives while the reply slot is full waits in the queue (R163). -/
theorem hostSends_waits {s : State} (kind tag : Byte) (body : List Byte) (hs : s.settled) (hr : s.link.reply ≠ none)
    (hq : s.link.queue.length < queueSize) :
    hostSends kind tag body s = { s with link := { s.link with queue := s.link.queue ++ [⟨kind, tag, body⟩] } } := by
  unfold hostSends frameArrives
  simp only [hq, if_true]
  rw [takeFrame_full _ (by exact hr)]
  refine settle_still _ ?_ ?_
  · exact linesSettled_congr hs.1 rfl rfl (ownerCommand_congr (fun x => by cases x <;> rfl) rfl rfl)
  · intro hi
    exact absurd (hs.2.2.2.2 hi).1 hr

end Sys2Proof.Machine
end

