-- ==== Sys2Proof/Laws/Calm.lean ====
section
/-! SUPPORT. What the shared operations of an event leave alone: lines, holding and link, and every flag but those named. Each
operation has one lemma; the end of such an event is `ends`, or `endsAnswered` for a request. -/

namespace Sys2Proof.Machine

/-- From `s` to `u` lines, holding and link stay, and every flag but those named. -/
structure Calm (named : List Flag) (s u : State) : Prop where
  lines : u.lines = s.lines
  holding : u.holding = s.holding
  link : u.link = s.link
  flag : ∀ g, g ∉ named → u.flag g = s.flag g

namespace Calm

variable {n : List Flag} {s u v : State}

theorem refl (n : List Flag) (s : State) : Calm n s s := ⟨rfl, rfl, rfl, fun _ _ => rfl⟩

theorem trans (h : Calm n s u) (k : Calm n u v) : Calm n s v :=
  ⟨k.lines.trans h.lines, k.holding.trans h.holding, k.link.trans h.link,
    fun g hg => (k.flag g hg).trans (h.flag g hg)⟩

theorem mono {m : List Flag} (h : Calm n s u) (hm : ∀ g, g ∈ n → g ∈ m) : Calm m s u :=
  ⟨h.lines, h.holding, h.link, fun g hg => h.flag g fun hn => hg (hm g hn)⟩

/-- The same data with flags as they were. -/
theorem of_eq (hl : u.lines = s.lines) (hh : u.holding = s.holding) (hk : u.link = s.link) (hf : u.flags = s.flags) :
    Calm n s u :=
  ⟨hl, hh, hk, fun g _ => congrArg (fun f : Vector FlagRec 15 => f[g.idx]) hf⟩

theorem ite {c : Prop} [Decidable c] (hu : Calm n s u) (hv : Calm n s v) : Calm n s (if c then u else v) := by
  split
  · exact hu
  · exact hv

end Calm

section
variable (n : List Flag) (s : State)

/-! ### Plain updates -/

theorem calm_setBoom (x : Side) (b : Boom) : Calm n s (s.setBoom x b) := .of_eq (by simp) (by simp) (by simp) (by simp)

theorem calm_modBoom (x : Side) (f : Boom → Boom) : Calm n s (s.modBoom x f) := calm_setBoom n s x _

theorem calm_modCtx (x : Side) (f : HoleCtx → HoleCtx) : Calm n s (s.modCtx x f) := calm_setBoom n s x _

theorem calm_takeEvent (x : Side) (e : BoomEvent) : Calm n s (s.takeEvent x e) := calm_setBoom n s x _

theorem calm_handBoom (x : Side) (e : BoomEvent) : Calm n s (s.handBoom x e) := calm_setBoom n s x _

theorem calm_handBooms (e : BoomEvent) : Calm n s (s.handBooms e) :=
  (calm_handBoom n s .a e).trans (calm_handBoom n _ .b e)

theorem calm_setCell (p : Pos) (c : Cell) : Calm n s (s.setCell p c) := .of_eq rfl rfl rfl rfl

theorem calm_setSlot (x : Side) (o : Option Slot) : Calm n s (s.setSlot x o) :=
  .of_eq (by simp) (by simp) (by simp) (by simp)

theorem calm_modCanopy (f : Canopy → Canopy) : Calm n s (s.modCanopy f) := .of_eq rfl rfl rfl rfl

theorem calm_setPort (k : Consumer) (p : FlowPort) : Calm n s (s.setPort k p) := by
  cases k with
  | canopy => exact .of_eq rfl rfl rfl rfl
  | boom x => exact calm_setBoom n s x _

theorem calm_handFlow (k : Consumer) (m : FlowMsg) : Calm n s (handFlow k m s) := calm_setPort n s k _

theorem calm_popFlow (k : Consumer) : Calm n s (popFlow k s) := calm_setPort n s k _

theorem calm_askFlow (x : Side) (m : Motion) (d : Nat) : Calm n s (askFlow x m d s) := by
  unfold askFlow
  split
  · exact calm_modBoom n s x _
  · exact (calm_modBoom n s x _).trans (.of_eq rfl rfl rfl rfl)

theorem calm_dropFlow (x : Side) : Calm n s (dropFlow x s) := calm_modBoom n s x _

theorem calm_raiseFlag {f : Flag} (hf : f ∈ n) (b : Option Side) (p : Option Pos) (r : Nat) :
    Calm n s (raiseFlag f b p r s) := by
  refine ⟨?_, ?_, ?_, fun g hg => raiseFlag_flag_ne f g b p r s fun e => hg (e ▸ hf)⟩ <;> rw [raiseFlag_only]

end

/-! ### Pattern table -/

section
variable {n : List Flag} (s : State)

theorem calm_completionCheck (h : .patternDone ∈ n) : Calm n s (completionCheck s) := by
  unfold completionCheck
  split
  · exact Calm.trans (u := { s with complete := true }) (.of_eq rfl rfl rfl rfl) (calm_raiseFlag n _ h _ _ _)
  · exact .refl n s

theorem calm_enterIdle (x : Side) : Calm n s (enterIdle x s) := calm_modBoom n s x _

theorem calm_noteReseek (x : Side) : Calm n s (noteReseek x s) := calm_modBoom n s x _

theorem calm_claimCell (x : Side) (q : Pos) : Calm n s (claimCell x q s) := by
  unfold claimCell
  exact ((calm_setCell n s q _).trans (calm_modBoom n _ x _)).trans (calm_noteReseek _ _)

theorem calm_seek (h : .patternDone ∈ n) (x : Side) : Calm n s (seek x s) := by
  unfold seek
  split
  · exact (calm_enterIdle s x).trans (calm_completionCheck _ h)
  · dsimp only
    split
    · exact calm_claimCell s x _
    · split
      · exact (calm_enterIdle s x).trans (calm_completionCheck _ h)
      · exact calm_modBoom n s x _

theorem calm_reseek (h : .patternDone ∈ n) (x : Side) : Calm n s (reseek x s) := .ite (calm_seek s h x) (.refl n s)

theorem calm_reseekBoth (h : .patternDone ∈ n) : Calm n s (reseekBoth s) :=
  (calm_reseek s h .a).trans (calm_reseek _ h .b)

theorem calm_freeCount (k : Nat) : Calm n s { s with freeCount := k } := .of_eq rfl rfl rfl rfl

theorem calm_seekAmong (h : .patternDone ∈ n) (x : Side) : Calm n s (seekAmong x s) := by
  unfold seekAmong
  split
  · dsimp only
    split
    · exact ((calm_freeCount s _).trans (calm_reseek _ h _)).trans (calm_seek _ h x)
    · exact (calm_freeCount s _).trans (calm_seek _ h x)
  · exact calm_seek s h x

theorem calm_endContext (x : Side) : Calm n s (endContext x s) := (calm_dropFlow n s x).trans (calm_modBoom n _ x _)

theorem calm_releaseClaim (x : Side) : Calm n s (releaseClaim x s) := by
  unfold releaseClaim
  split
  · exact .refl n s
  · exact ((calm_setCell n s _ _).trans (calm_endContext _ x)).trans (calm_noteReseek _ _)

theorem calm_takeOutcome (h : .patternDone ∈ n) (d : HoleData) (o : HoleOutcome) : Calm n s (takeOutcome d o s) := by
  unfold takeOutcome
  dsimp only
  refine Calm.trans ?_ (calm_completionCheck _ h)
  exact .of_eq rfl rfl rfl rfl

/-! ### The end of a hole -/

theorem mem_holeFlags (x : Side) :
    .holeDone x ∈ holeFlags x ∧ .overrun x ∈ holeFlags x ∧ .wait x ∈ holeFlags x ∧ .halt x ∈ holeFlags x ∧
      .patternDone ∈ holeFlags x := by
  simp [holeFlags]

variable (x : Side)

theorem calm_placeRecord (d : HoleData) : Calm (holeFlags x) s (placeRecord x d s) := by
  unfold placeRecord
  split
  · exact (calm_setSlot _ s x _).trans (calm_raiseFlag _ _ (mem_holeFlags x).1 _ _ _)
  · exact ((calm_setCell _ s _ _).trans (calm_setSlot _ _ x _)).trans (calm_raiseFlag _ _ (mem_holeFlags x).2.1 _ _ _)

theorem calm_handHole (c : HoleCtx) (o : HoleOutcome) : Calm (holeFlags x) s (handHole x c o s) := by
  unfold handHole
  exact (((calm_takeOutcome s (mem_holeFlags x).2.2.2.2 _ o).trans (calm_placeRecord _ x _)).trans
    (calm_endContext _ x)).trans (calm_noteReseek _ _)

theorem calm_enterStopped : Calm n s (enterStopped x s) := calm_modBoom n s x _

theorem calm_raiseHalt (p : Option Pos) (r : Nat) : Calm (holeFlags x) s (raiseFlag (.halt x) (some x) p r s) :=
  calm_raiseFlag _ s (mem_holeFlags x).2.2.2.1 _ _ _

theorem calm_stopHole (o : HoleOutcome) : Calm (holeFlags x) s (stopHole x o s) := by
  unfold stopHole
  split
  · exact .refl _ s
  · exact ((calm_handHole s x _ _).trans (calm_enterStopped _ x)).trans (calm_raiseHalt _ x _ _)

theorem calm_secondFailure (f : FaultCode) : Calm (holeFlags x) s (secondFailure x f s) :=
  (calm_modCtx _ s x _).trans (calm_stopHole _ x _)

theorem calm_releaseDone : Calm (holeFlags x) s (releaseDone x s) := by
  unfold releaseDone
  split
  · exact .refl _ s
  · exact (calm_handHole s x _ _).trans
      (.ite (calm_enterIdle _ x) (calm_seekAmong _ (mem_holeFlags x).2.2.2.2 x))

theorem calm_enterHalted (p : Option Pos) (r : Nat) : Calm (holeFlags x) s (enterHalted x p r s) := by
  unfold enterHalted
  exact ((calm_modBoom _ s x _).trans (calm_raiseHalt _ x p r)).trans (.ite (calm_enterIdle _ x) (.refl _ _))

theorem calm_abortDone : Calm (holeFlags x) s (abortDone x s) := by
  unfold abortDone
  split
  · exact .refl _ s
  · exact (calm_handHole s x _ _).trans (calm_enterHalted _ x _ _)

theorem calm_waitFor (r : WaitReason) : Calm (holeFlags x) s (waitFor x r s) :=
  (calm_modBoom _ s x _).trans (calm_raiseFlag _ _ (mem_holeFlags x).2.2.1 _ _ _)

theorem calm_retractDone : Calm (holeFlags x) s (retractDone x s) := by
  unfold retractDone
  split
  · exact (calm_dropFlow _ s x).trans (calm_waitFor _ x _)
  · exact ((calm_dropFlow _ s x).trans (calm_modBoom _ _ x _)).trans (calm_waitFor _ x _)
  · exact calm_releaseDone s x
  · exact calm_abortDone s x
  · exact .refl _ s

theorem calm_retractBegins : Calm (holeFlags x) s (retractBegins x s) := .ite (calm_retractDone s x) (.refl _ s)

theorem calm_askRetract : Calm (holeFlags x) s (askRetract x s) :=
  (calm_askFlow _ s x _ _).trans (.ite (calm_retractBegins _ x) (.refl _ _))

theorem calm_enterReleasing : Calm (holeFlags x) s (enterReleasing x s) :=
  ((calm_dropFlow _ s x).trans (calm_modBoom _ _ x _)).trans (calm_askRetract _ x)

theorem calm_enterAborting (o : HoleOutcome) (f : Option FaultCode) :
    Calm (holeFlags x) s (enterAborting x o f s) := by
  unfold enterAborting
  exact (((calm_modCtx _ s x _).trans (calm_dropFlow _ _ x)).trans (calm_modBoom _ _ x _)).trans
    (.ite (calm_abortDone _ x) (calm_askRetract _ x))

theorem calm_takeLate : Calm (holeFlags x) s (takeLate x s) := (calm_modCtx _ s x _).trans (calm_enterReleasing _ x)

theorem calm_lateCheck : Calm (holeFlags x) s (lateCheck x s) := .ite (calm_takeLate s x) (.refl _ s)

theorem calm_suspend : Calm (holeFlags x) s (suspend x s) :=
  ((calm_dropFlow _ s x).trans (calm_modBoom _ _ x _)).trans (calm_lateCheck _ x)

theorem calm_heldEntry (ph : Phase) {go : State → State} (h : ∀ u, Calm (holeFlags x) u (go u)) :
    Calm (holeFlags x) s (heldEntry x ph go s) :=
  (calm_modBoom _ s x _).trans (.ite (calm_suspend _ x) (h _))

theorem calm_addHold (f : Holds → Holds) : Calm (holeFlags x) s (addHold x f s) := by
  unfold addHold
  exact .ite ((calm_modBoom _ s x _).trans (.ite (calm_suspend _ x) (.refl _ _))) (.refl _ s)

theorem calm_removeHold (f : Holds → Holds) : Calm n s (removeHold x f s) := calm_modBoom n s x _

/-! ### Drilling -/

theorem calm_takeBaseFeed : Calm n s (takeBaseFeed x s) := calm_modBoom n s x _

theorem calm_enterDrilling : Calm (holeFlags x) s (enterDrilling x s) :=
  (calm_modBoom _ s x _).trans (calm_heldEntry _ x _ fun u =>
    (calm_askFlow _ u x _ _).trans (.ite (calm_takeBaseFeed _ x) (.refl _ _)))

theorem calm_enterSteelChange : Calm (holeFlags x) s (enterSteelChange x s) :=
  ((calm_dropFlow _ s x).trans (calm_modBoom _ _ x _)).trans (calm_heldEntry _ x _ fun u => calm_askRetract u x)

theorem calm_enterRetracting : Calm (holeFlags x) s (enterRetracting x s) :=
  ((calm_dropFlow _ s x).trans (calm_modBoom _ _ x _)).trans (calm_heldEntry _ x _ fun u => calm_askRetract u x)

theorem calm_enterDecisionWait : Calm (holeFlags x) s (enterDecisionWait x s) :=
  ((calm_dropFlow _ s x).trans (calm_modBoom _ _ x _)).trans (calm_waitFor _ x _)

theorem calm_moveOn (r : HoleCtx × NextMove) : Calm (holeFlags x) s (moveOn x r s) := by
  unfold moveOn
  dsimp only
  split
  · exact ((calm_dropFlow _ s x).trans (calm_modBoom _ _ x _)).trans (calm_enterDrilling _ x)
  · exact ((calm_dropFlow _ s x).trans (calm_modBoom _ _ x _)).trans (calm_enterSteelChange _ x)
  · exact ((calm_dropFlow _ s x).trans (calm_modBoom _ _ x _)).trans (calm_enterRetracting _ x)
  · exact ((calm_dropFlow _ s x).trans (calm_modBoom _ _ x _)).trans (calm_enterDecisionWait _ x)

theorem calm_assessBoom : Calm (holeFlags x) s (assessBoom x s) := by
  unfold assessBoom
  split
  · exact .refl _ s
  · exact calm_moveOn s x _

theorem calm_afterRise : Calm (holeFlags x) s (afterRise x s) := by
  unfold afterRise
  split
  · exact .refl _ s
  · split
    · exact .ite ((calm_dropFlow _ s x).trans (calm_enterDrilling _ x)) (.refl _ s)
    · exact .ite (calm_assessBoom s x) (.ite (calm_enterSteelChange s x) (.refl _ s))
    · exact .refl _ s

theorem calm_raiseDepth (d : Nat) : Calm n s (raiseDepth x d s) := calm_modBoom n s x _

theorem calm_judgeFeed (mm : Nat) : Calm (holeFlags x) s (judgeFeed x mm s) := by
  have h : ∀ (r : Int) (c : HoleCtx), Calm (holeFlags x) s
      (if c.depth < r then afterRise x (raiseDepth x r.toNat s)
       else if r < c.depth then s.modBoom x fun b => { b with stallTime := 0 } else s) := fun r c =>
    .ite ((calm_raiseDepth s x _).trans (calm_afterRise _ x)) (.ite (calm_modBoom _ s x _) (.refl _ s))
  unfold judgeFeed
  dsimp only
  split
  · exact h _ _
  · exact h _ _
  · exact .refl _ s

theorem calm_feedBegins : Calm (holeFlags x) s (feedBegins x s) :=
  (calm_takeBaseFeed s x).trans (calm_judgeFeed _ x _)

theorem calm_goOn (r : HoleCtx × NextMove) : Calm (holeFlags x) s (goOn x r s) :=
  (calm_moveOn s x r).trans (.ite (calm_judgeFeed _ x _) (.refl _ _))

theorem calm_startHole : Calm n s (startHole x s) := by
  unfold startHole
  split
  · exact .refl n s
  · exact (((calm_setCell n s _ _).trans (calm_modBoom n _ x _)).trans (calm_askFlow n _ x _ _)).trans
      (.ite (calm_takeBaseFeed _ x) (.refl n _))

theorem calm_takeStall : Calm (holeFlags x) s (takeStall x s) := by
  unfold takeStall
  dsimp only
  split
  · exact calm_modBoom _ s x _
  · exact .ite ((calm_modBoom _ s x _).trans (calm_enterAborting _ x _ _))
      ((calm_modBoom _ s x _).trans (calm_modBoom _ _ x _))

/-! ### Resin -/

theorem calm_selectCartridge : Calm (holeFlags x) s (selectCartridge x s) := by
  unfold selectCartridge
  split
  · exact .refl _ s
  · split
    · exact (calm_modBoom _ s x _).trans (calm_waitFor _ x _)
    · split
      · exact calm_waitFor s x _
      · exact .ite (calm_modBoom _ s x _) (calm_waitFor s x _)

theorem calm_enterInserting : Calm (holeFlags x) s (enterInserting x s) :=
  (calm_modBoom _ s x _).trans (calm_heldEntry _ x _ fun u => calm_selectCartridge u x)

theorem calm_completePush : Calm (holeFlags x) s (completePush x s) := by
  unfold completePush
  split
  · split
    · exact (calm_modCtx _ s x _).trans (calm_selectCartridge _ x)
    · exact .refl _ s
  · exact .refl _ s

theorem calm_takeJam : Calm (holeFlags x) s (takeJam x s) := by
  unfold takeJam
  dsimp only
  split
  · exact calm_modCtx _ s x _
  · exact .ite ((calm_modCtx _ s x _).trans (calm_enterAborting _ x _ _))
      ((calm_modCtx _ s x _).trans (calm_waitFor _ x _))

theorem calm_resumeInserting : Calm (holeFlags x) s (resumeInserting x s) := by
  unfold resumeInserting
  split
  · exact .refl _ s
  · exact .ite (calm_modBoom _ s x _) (.ite (.refl _ s) (calm_selectCartridge s x))

theorem calm_startSpin : Calm n s (startSpin x s) := calm_modCtx n s x _

theorem calm_askSpin : Calm n s (askSpin x s) :=
  (calm_askFlow n s x _ _).trans (.ite (calm_startSpin _ x) (.refl n _))

theorem calm_enterSpinning : Calm (holeFlags x) s (enterSpinning x s) :=
  (calm_modBoom _ s x _).trans (calm_heldEntry _ x _ fun u => calm_askSpin u x)

theorem calm_endSpin : Calm n s (endSpin x s) := (calm_dropFlow n s x).trans (calm_modBoom n _ x _)

theorem calm_computeTorque (bar : Nat) : Calm (holeFlags x) s (computeTorque x bar s) := by
  unfold computeTorque
  dsimp only
  refine .ite ?_ (.refl _ s)
  split
  · exact calm_modCtx _ s x _
  · exact .ite (((calm_modCtx _ s x _).trans (calm_modCtx _ _ x _)).trans (calm_enterReleasing _ x))
      (calm_modCtx _ s x _)

theorem calm_torqueBegins : Calm (holeFlags x) s (torqueBegins x s) :=
  (calm_modCtx _ s x _).trans (calm_computeTorque _ x _)

theorem calm_askTorque : Calm (holeFlags x) s (askTorque x s) :=
  .ite (calm_takeLate s x) ((calm_askFlow _ s x _ _).trans (.ite (calm_torqueBegins _ x) (.refl _ _)))

theorem calm_enterTorquing : Calm (holeFlags x) s (enterTorquing x s) :=
  (calm_modBoom _ s x _).trans (.ite (calm_takeLate _ x) (calm_heldEntry _ x _ fun u => calm_askTorque u x))

theorem calm_takePulse : Calm (holeFlags x) s (takePulse x s) := by
  unfold takePulse
  dsimp only
  refine .ite ?_ (.refl _ s)
  split
  · exact calm_modCtx _ s x _
  · exact .ite (((calm_modCtx _ s x _).trans (calm_modCtx _ _ x _)).trans (calm_enterReleasing _ x))
      (calm_modCtx _ s x _)

theorem calm_motionBegins : Calm (holeFlags x) s (motionBegins x s) := by
  unfold motionBegins
  split
  · exact calm_feedBegins s x
  · exact calm_feedBegins s x
  · exact calm_retractBegins s x
  · exact calm_retractBegins s x
  · exact calm_retractBegins s x
  · exact calm_retractBegins s x
  · exact calm_startSpin s x
  · exact calm_torqueBegins s x
  · exact .refl _ s

theorem calm_takeGrant (t : Nat) : Calm (holeFlags x) s (takeGrant x t s) :=
  .ite (.ite (calm_takeLate s x) ((calm_modBoom _ s x _).trans (calm_motionBegins _ x))) (.refl _ s)

theorem calm_takeTakeBack (t : Nat) : Calm (holeFlags x) s (takeTakeBack x t s) :=
  .ite (((calm_modBoom _ s x _).trans (calm_askFlow _ _ x _ _)).trans (calm_lateCheck _ x)) (.refl _ s)

theorem calm_takeRefusal (t : Nat) : Calm (holeFlags x) s (takeRefusal x t s) := by
  unfold takeRefusal
  dsimp only
  refine .ite ?_ (.refl _ s)
  split
  · exact (calm_modBoom _ s x _).trans (calm_enterAborting _ x _ _)
  · exact (calm_modBoom _ s x _).trans (calm_enterAborting _ x _ _)
  · exact (calm_modBoom _ s x _).trans (calm_secondFailure _ x _)
  · exact (calm_modBoom _ s x _).trans (calm_secondFailure _ x _)
  · exact (calm_modBoom _ s x _).trans (calm_enterAborting _ x _ _)

end

/-! ### Flow and canopy -/

section
variable {n : List Flag} (s : State)

theorem calm_handAll (m : FlowEntry → FlowMsg) (es : List FlowEntry) :
    Calm n s (es.foldl (fun s e => handFlow e.consumer (m e) s) s) := by
  induction es generalizing s with
  | nil => exact .refl n s
  | cons e es ih => exact (calm_handFlow n s _ _).trans (ih _)

theorem calm_arbiter (a : Arbiter) : Calm n s { s with arbiter := a } := .of_eq rfl rfl rfl rfl

theorem calm_refuseOver (budget : Nat) : Calm n s (refuseOver budget s) :=
  (calm_arbiter s _).trans (calm_handAll _ (fun e => .refusal e.ticket) _)

theorem calm_popRefusal (k : Consumer) (t : Nat) : Calm n s (popRefusal k t s) :=
  (calm_popFlow n s k).trans (calm_arbiter _ _)

theorem calm_grantCheck : Calm n s (grantCheck s) := by
  unfold grantCheck
  split
  · exact .refl n s
  · exact (calm_arbiter s _).trans (calm_handAll _ (fun e => .grant e.ticket) _)

theorem calm_takeRelease (gone : FlowEntry → Bool) : Calm n s (takeRelease gone s) :=
  .ite ((calm_arbiter s _).trans (calm_grantCheck _)) (.refl n s)

theorem calm_takeRequest (k : Consumer) (d : Nat) (m : Motion) (t : Nat) : Calm n s (takeRequest k d m t s) :=
  (calm_takeRelease s _).trans (.ite (calm_handFlow n _ _ _) ((calm_arbiter _ _).trans (calm_grantCheck _)))

theorem calm_canopyTo (st : CanopyState) : Calm n s (canopyTo st s) :=
  (calm_modCanopy n s _).trans (.ite (calm_handBooms n _ _) (.ite (calm_handBooms n _ _) (.refl n _)))

end

/-! ### The end of such an event -/

/-- The end of an event that was calm. -/
theorem ends_settle {named : List Flag} {s v : State} (hs : s.settled) (hn : .lines ∉ named) (h : Calm named s v) :
    ends named s v (settle v) :=
  ⟨settle_settlesTo v, settle_lines v, surround_settle named hs h.lines h.holding h.link h.flag,
    settle_linesKept h.lines (h.flag _ hn)⟩

/-- LINES is none of the flags a hole's events set. -/
theorem lines_not_mem_holeFlags (x : Side) : .lines ∉ holeFlags x := by simp [holeFlags]

/-- The end of a request that was calm, its reply placed. -/
theorem endsAnswered_settle {named : List Flag} {s v : State} {kind tag : Byte} {body : List Byte} (hs : s.settled)
    (hn : .lines ∉ named) (h : Calm named s v) :
    endsAnswered named kind tag body s v (settle { v with link := { v.link with reply := some ⟨kind, tag, body⟩ } }) := by
  refine ⟨settle_settlesTo _, ?_, answered_settle named kind tag body hs h.lines h.holding ?_ h.flag, ?_⟩
  · rw [settle_lines, refreshLine_congr (s := v) rfl rfl rfl rfl]
    rfl
  · rw [h.link]
  · exact settle_linesKept (v := { v with link := { v.link with reply := some ⟨kind, tag, body⟩ } }) h.lines (h.flag _ hn)

/-- A request that is taken at once and answered by a calm block. -/
theorem hostSends_ends {named : List Flag} {s v : State} (hs : s.ready) {kind tag : Byte} {body reply : List Byte}
    (ha : answer kind body s = (v, reply)) (hn : .lines ∉ named) (h : Calm named s v) :
    endsAnswered named (replyKind kind) tag reply s v (hostSends kind tag body s) := by
  rw [hostSends_ready hs, ha]
  exact endsAnswered_settle hs.1 hn h

/-- A request that is taken at once is answered, whatever it changes. -/
theorem hostSends_settles {s v : State} (hs : s.ready) {kind tag : Byte} {body reply : List Byte}
    (ha : answer kind body s = (v, reply)) : settlesAnswered (replyKind kind) tag reply v (hostSends kind tag body s) := by
  rw [hostSends_ready hs, ha]
  exact settle_settlesTo _

/-- A request that is taken at once, changes only what no output and no flag depends on, and is answered. -/
theorem hostSends_exact {s v : State} (hs : s.ready) {kind tag : Byte} {body reply : List Byte}
    (ha : answer kind body s = (v, reply)) (hv : v.settled) :
    hostSends kind tag body s = v.withReply (replyKind kind) tag reply := by
  rw [hostSends_ready hs, ha]
  exact settle_placed v _ _ _ hv

/-! ### Settled states -/

/-- A settled state stays settled where lines, flags, link and the owners' commands stay. -/
theorem settled_congr {s v : State} (h : s.settled) (hl : v.lines = s.lines) (hh : v.holding = s.holding)
    (hk : v.link = s.link) (hf : v.flags = s.flags) (hc : ownerCommand v = ownerCommand s) : v.settled := by
  refine ⟨linesSettled_congr h.1 hl hh hc, ?_⟩
  unfold State.uplinkSettled
  rw [hk, nextNotice_congr hf]
  exact h.2

/-- A settled state stays settled where one boom changes and its outputs stay. -/
theorem settled_setBoom {s : State} (h : s.settled) (x : Side) (b : Boom) (hb : boomOutputs b = boomOutputs (s.boom x)) :
    (s.setBoom x b).settled := by
  refine settled_congr h (by simp) (by simp) (by simp) (by simp) (ownerCommand_congr ?_ (by simp) (by simp))
  intro y
  by_cases hy : y = x
  · subst hy
    rw [setBoom_boom, hb]
  · rw [setBoom_boom_ne s b hy]

/-- The end of an event that left a settled state settled changes nothing more. -/
theorem settle_settled {v : State} (h : v.settled) : settle v = v := settle_still v h.1 h.2.2.2.2

end Sys2Proof.Machine
end

