-- ==== Sys2Proof/Laws/Flow.lean ====
section
/-! SUPPORT. The flow arbiter: the turn of a refusal, and what queue, grants and releases do to the consumers' entries. -/

namespace Sys2Proof.Machine

/-! ### The turn of a refusal (R120) -/

/-- A refusal may be taken where it heads each list of a PUMP_SET that holds it. -/
theorem mayRefuse_iff (a : Arbiter) (k : Consumer) (t : Nat) :
    a.mayRefuse k t = true ↔ ∀ l ∈ a.refusing, (k, t) ∈ l → l.head? = some (k, t) := by
  unfold Arbiter.mayRefuse
  rw [List.all_eq_true]
  refine forall₂_congr fun l _ => ?_
  by_cases hc : (k, t) ∈ l <;> simp [hc]

/-- A refusal taken changes the consumer's list and the arbiter's lists of refusals. -/
theorem popRefusal_only (k : Consumer) (t : Nat) (s : State) :
    popRefusal k t s =
      { popFlow k s with arbiter := { (popFlow k s).arbiter with refusing := (popRefusal k t s).arbiter.refusing } } := rfl

/-! ### Entries of the consumers (R113) -/

/-- The heads that are granted and the rest are the queue. -/
theorem grantHeads_append (budget total : Nat) (q : List FlowEntry) :
    (grantHeads budget total q).1 ++ (grantHeads budget total q).2 = q := by
  induction q generalizing total with
  | nil => rfl
  | cons e q ih =>
    unfold grantHeads
    split
    · simp [ih]
    · rfl

/-- A request joins the queue and no other entry leaves it. -/
theorem joinQueue_perm (e : FlowEntry) (q : List FlowEntry) : (joinQueue e q).Perm (e :: q) := by
  unfold joinQueue
  exact List.perm_middle.trans (by rw [List.takeWhile_append_dropWhile])

end Sys2Proof.Machine
end

