-- ==== Sys2Proof/Laws/Reading.lean ====
section
/-! SUPPORT. What the readings of the state say: the bytes of a reply, the flow view of a port, the events that are next, and
the limits that are due. -/

namespace Sys2Proof.Machine

/-! ### Bytes (section 10.6) -/

/-- Cartridge kinds in a reply: the first ones by their code, unused positions 0. -/
theorem kindBytes_eq (n : Nat) (ks : List CartKind) :
    kindBytes n ks = (ks.take n).map (fun k => byteOf k.code) ++ List.replicate (n - ks.length) 0 := by
  unfold kindBytes
  apply List.ext_getElem
  · simp; omega
  · intro i h _
    simp only [List.length_map, List.length_range] at h
    simp only [List.getElem_map, List.getElem_range]
    by_cases hk : i < ks.length
    · rw [List.getElem_append_left (by simp; omega)]
      simp [hk]
    · rw [List.getElem_append_right (by simp; omega), List.getElem?_eq_none (by omega)]
      simp [byteOf]

/-- Five marks in a byte. -/
theorem bitsByte_five (a b c d e : Bool) :
    bitsByte [a, b, c, d, e] = byteOf ((if a then 1 else 0) + (if b then 2 else 0) + (if c then 4 else 0) +
      (if d then 8 else 0) + if e then 16 else 0) := by
  cases a <;> cases b <;> cases c <;> cases d <;> cases e <;> rfl

/-! ### Flow views -/

/-- A motion runs while its port holds a grant or needs none. -/
theorem moving_iff (v : FlowView) : v.moving = true ↔ (∃ t, v = .held t) ∨ v = .free := by
  cases v <;> simp [FlowView.moving]

/-! ### Events that are next (log 5) -/

/-- An event is next at a boom where none of its class waits before it. -/
theorem hasNext_iff (b : Boom) (e : BoomEvent) :
    b.hasNext e = true ↔ ∃ front rest, b.events = front ++ e :: rest ∧ ∀ y ∈ front, y.cls ≠ e.cls := by
  simp [Boom.hasNext, Boom.firstOf, List.find?_eq_some_iff_append]

/-- The canopy's next pressure event has only stop loop openings before it. -/
theorem nextPressure_eq_some_iff (s : State) (high : Bool) :
    nextPressure s = some high ↔
      ∃ front rest, s.canopy.events = front ++ .pressure high :: rest ∧ ∀ y ∈ front, y = .stopLoop := by
  simp only [nextPressure, List.findSome?_eq_some_iff]
  constructor
  · rintro ⟨front, e, rest, h1, h2, h3⟩
    cases e with
    | stopLoop => simp at h2
    | pressure h =>
      simp only [Option.some.injEq] at h2
      subst h2
      refine ⟨front, rest, h1, fun y hy => ?_⟩
      have := h3 y hy
      cases y <;> simp_all
  · rintro ⟨front, rest, h1, h2⟩
    exact ⟨front, _, rest, h1, rfl, fun y hy => by rw [h2 y hy]⟩

/-! ### Limits that are due -/

/-- A push is a jam after its limit (R75). -/
theorem jamDue_iff (x : Side) (s : State) :
    jamDue x s = true ↔ (s.boom x).phase = .inserting ∧ (∃ c, (s.boom x).ctx = some c ∧ c.inFlight ≠ none) ∧
      pushLimit ≤ (s.boom x).pushTime := by
  unfold jamDue
  rcases h : (s.boom x).ctx with _ | c <;> simp [h, and_assoc, Option.isSome_iff_ne_none]

/-- The gel clock is past W′ in a state under the deadline (R84). -/
theorem late_iff (b : Boom) :
    b.late = true ↔ b.underDeadline = true ∧ b.torquingActive = false ∧
      ∃ c g r, b.ctx = some c ∧ c.outcome = none ∧ c.gel = some g ∧ c.resin = some r ∧ r.w < g := by
  unfold Boom.late
  rcases h : b.ctx with _ | c
  · simp
  · rcases h1 : c.gel with _ | g <;> rcases h2 : c.resin with _ | r <;> rcases h3 : c.outcome with _ | o <;>
      simp_all [and_assoc]

end Sys2Proof.Machine
end

