-- ==== Sys2Proof/Laws/Step.lean ====
section
/-! SUPPORT. What a command or a step can do, once for all commands. -/

namespace Sys2Proof.Machine

/-- A command leaves the state as it is, ends an event, or switches the part on. -/
inductive Moved (s : State) : State → Prop where
  | still : Moved s s
  | event (u : State) : Moved s (settle u)
  | on : Moved s (powerUp s)

theorem moved_ite (p : Prop) [Decidable p] (s u : State) : Moved s (if p then settle u else s) := by
  split
  · exact .event u
  · exact .still

theorem moved_onEvent (side : Side) (e : BoomEvent) (f : State → State) (s : State) : Moved s (onEvent side e f s) :=
  moved_ite _ s _

/-- Every next state a command answers is one of the three. -/
theorem exec_moved (c : Instr) (s t : State) (h : exec c s = .next t) : Moved s t := by
  cases c
  case powerOn =>
    cases h
    exact .on
  case unknownKind | badLength =>
    simp only [exec, execUnknownKind, execBadLength] at h
    split at h
    · cases h
    · cases h
      exact .event _
  case feedPositionChange | rotationPressureChange =>
    cases h
    split
    · exact moved_onEvent _ _ _ s
    · exact .still
  case boomFlowRefusal | canopyFlowRefusal =>
    cases h
    split
    · exact moved_ite _ s _
    · exact .still
  case boomGrantTaken | boomTakeBack | canopyGrantTaken | canopyTakeBack | canopyPressureChange =>
    cases h
    split
    · exact .event _
    · exact .still
  all_goals
    cases h
    first
    | exact .event _
    | exact moved_ite _ s _

/-- The commands on their way and the tick aside, a step is a command or a tenth of a second. -/
theorem step_cases (s t : State) (h : step s = .next t) :
    (∃ c rest, s.pending = c :: rest ∧ exec c { s with pending := rest } = .next t) ∨
      (s.pending = [] ∧ ∃ c, dueCommand s = some c ∧ exec c s = .next t) ∨ (s.pending = [] ∧ t = tick s) := by
  unfold step at h
  split at h
  · next c rest hp => exact .inl ⟨c, rest, hp, h⟩
  · next hp =>
    split at h
    · next c hc => exact .inr (.inl ⟨hp, c, hc, h⟩)
    · cases h
      exact .inr (.inr ⟨hp, rfl⟩)

end Sys2Proof.Machine
end

