-- ==== Sys2Proof/Tests/Slice0.lean ====
section
/-! SUPPORT. Tests: the checks on ill-formed commands, numbers and examples of the manual worked by the model, and for each
statement states and operands that meet its hypotheses, each clause at a boundary value. -/

namespace Sys2Proof.Machine.Tests

-- One theorem after the other: side by side, their threads' stacks pass the limit on memory.
set_option Elab.async false

/-! ### Ill-formed commands are refused by the check -/

theorem test_wellFormed_unknownKind_of_a_named_kind : Instr.wellFormed (.unknownKind 0x01 0 []) = false := by decide
theorem test_wellFormed_unknownKind_too_long : Instr.wellFormed (.unknownKind 0x05 0 (.replicate 251 0)) = false := by
  decide +kernel
theorem test_wellFormed_badLength_of_an_unnamed_kind : Instr.wellFormed (.badLength 0x05 0 []) = false := by decide
theorem test_wellFormed_badLength_of_an_allowed_length : Instr.wellFormed (.badLength 0x0B 0 [1, 1]) = false := by decide
theorem test_wellFormed_badLength_too_long : Instr.wellFormed (.badLength 0x0B 0 (.replicate 251 0)) = false := by
  decide +kernel
theorem test_wellFormed_strataWrite_row_of_3_bytes : Instr.wellFormed (.strataWrite 0 1 [0, 0]) = false := by decide
theorem test_wellFormed_strataWrite_steps_of_18_bytes : Instr.wellFormed (.strataWrite 0 2 (.replicate 17 0)) = false := by
  decide
theorem test_wellFormed_at_the_boundaries :
    Instr.wellFormed (.unknownKind 0x05 0 (.replicate 250 0)) = true ∧
      Instr.wellFormed (.badLength 0x0B 0 (.replicate 250 0)) = true ∧
      Instr.wellFormed (.strataWrite 0 1 (.replicate 17 0)) = true ∧ Instr.wellFormed (.strataWrite 0 2 [5, 10]) = true ∧
      Instr.wellFormed (.strataWrite 0 3 [0, 0]) = true := by
  decide +kernel

/-! ### Small states -/

/-- A valid class: target 600, collar 50, two steels of 600, anchor 300, weak limit 100, EXTEND by 100. -/
def recOne : ClassRec :=
  { target := 600, collar := 50, steelLength := 600, maxSteels := 2, anchorLength := 300, weakLimit := 100,
    action := .extend, extStep := 100, fallback := 2, cartridges := [.fast, .slow], spinTime := 30, holdTime := 100,
    windowEnd := 400, torqueTarget := 200, torqueFactor := 10, turnLimit := 20, stallPressure := 150, stallTime := 10,
    collarDemand := 40, drillDemand := 60, spinDemand := 30, torqueDemand := 50, retractDemand := 20, collarFeed := 9,
    drillFeed := 8, drillRotation := 12, pushFeed := 5, spinRotation := 10, holdFeed := 6, torqueRotation := 11,
    retractFeed := 7 }

/-- The same with every demand 0. -/
def recFree : ClassRec :=
  { recOne with collarDemand := 0, drillDemand := 0, spinDemand := 0, torqueDemand := 0, retractDemand := 0 }

/-- Output lines as they settle. -/
def lined (s : State) : State := { s with lines := s.lines.map (refreshLine s) }

/-- The functions of boom A and the shared ones bound to the line of their code; pump, stop loop, canopy pressure and deadman
at 1. -/
def wire (s : State) : State :=
  { s with lines := Vector.ofFn fun i : Fin 32 =>
    match allFns[i.val]? with
    | none | some (.boom .b _) => .powerOn .quiet
    | some f =>
      let high := match f with
        | .pumpOk | .stopLoop | .canopyPressure | .boom _ .deadman => true
        | _ => false
      let scaling := match f with
        | .boom _ .feedPosition => Scaling.full 1023
        | .boom _ .rotationPressure => .full 400
        | .temperature => .temp 20 100
        | _ => .none
      ⟨f.requiredMode, .none, .anyChange, false, some ⟨f, scaling⟩, 0, high, high, false, 0, ⟨high, false, 0⟩⟩ }

/-- The first cell of the grid, its neighbour and the cell below it. -/
def cellOne : Pos := ⟨0, 0⟩
def cellTwo : Pos := ⟨1, 0⟩
def cellThree : Pos := ⟨0, 1⟩

/-- A window of four cells, the first row planned; idle link, canopy SET, pump OK. -/
def ground : State :=
  lined <| wire { State.reset with
    pattern := some ⟨0, 1, 0, 1, ⟨.row, false, false⟩, ⟨.row, true, false⟩, 1⟩
    cells := (State.reset.cells.set 0 { Cell.blank with state := .planned, classIdx := 1 }).set 1
      { Cell.blank with state := .planned, classIdx := 1 }
    classes := State.reset.classes.set 0 (some recOne)
    arbiter := { Arbiter.powerOn with view := .ok }
    canopy := { Canopy.powerOn with state := .set }
    link := ⟨none, [], none, .idle, .none⟩ }

/-- A hole in the first cell. -/
def holeOne : HoleCtx := { newContext cellOne 1 recOne with atHole := true }

/-- Boom A at work on the first cell. -/
def boomIn (ph : Phase) (view : FlowView) : Boom :=
  { Boom.powerOn with
    phase := ph, started := true, ctx := some holeOne, base := some ⟨0, some 0⟩, cursor := some cellOne
    port := ⟨view, [], []⟩ }

/-- The ground with boom A as given. -/
def withA (b : Boom) (s : State) : State :=
  lined { s with
    boomA := b, cells := s.cells.set 0 { Cell.blank with state := .working, classIdx := 1, boom := some .a } }

/-- Boom A in a phase of a hole. -/
def at_ (ph : Phase) (view : FlowView := .none) : State := withA (boomIn ph view) ground

theorem lined_linesSettled (s : State) : (lined s).linesSettled := by
  have e : refreshLine (lined s) = refreshLine s := refreshLine_congr rfl rfl rfl rfl
  show (s.lines.map (refreshLine s)).map (refreshLine (lined s)) = s.lines.map (refreshLine s)
  rw [e, Vector.map_map]
  congr 1
  exact funext fun l => refreshLine_idem s l

theorem settled_lined {s : State} (h : (lined s).uplinkSettled) : (lined s).settled := ⟨lined_linesSettled s, h⟩

theorem ready_lined {s : State} (h : (lined s).uplinkSettled ∧ s.link.queue = [] ∧ s.link.reply = none) :
    (lined s).ready :=
  ⟨settled_lined h.1, h.2⟩

theorem reset_ready : State.reset.ready := ⟨⟨by unfold State.linesSettled; decide +kernel, by decide +kernel⟩, rfl, rfl⟩

/-! ### Examples of the manual -/

/-- R162. -/
theorem test_crc_of_123456789 : crc [0x31, 0x32, 0x33, 0x34, 0x35, 0x36, 0x37, 0x38, 0x39] = 0x29B1 := by decide +kernel

/-- The window of the example after R11. -/
def exampleWindow (order : WalkOrder) (x y : Bool) : PatternDef := ⟨1, 3, 4, 5, ⟨order, x, y⟩, ⟨order, x, y⟩, 0⟩

theorem test_walks_of_one_window :
    (exampleWindow .row false false).walkCells .a = [⟨1, 4⟩, ⟨2, 4⟩, ⟨3, 4⟩, ⟨1, 5⟩, ⟨2, 5⟩, ⟨3, 5⟩] ∧
      (exampleWindow .row true false).walkCells .a = [⟨3, 4⟩, ⟨2, 4⟩, ⟨1, 4⟩, ⟨3, 5⟩, ⟨2, 5⟩, ⟨1, 5⟩] ∧
      (exampleWindow .row true true).walkCells .a = [⟨3, 5⟩, ⟨2, 5⟩, ⟨1, 5⟩, ⟨3, 4⟩, ⟨2, 4⟩, ⟨1, 4⟩] ∧
      (exampleWindow .column false false).walkCells .b = [⟨1, 4⟩, ⟨1, 5⟩, ⟨2, 4⟩, ⟨2, 5⟩, ⟨3, 4⟩, ⟨3, 5⟩] ∧
      (exampleWindow .column false true).walkCells .b = [⟨1, 5⟩, ⟨1, 4⟩, ⟨2, 5⟩, ⟨2, 4⟩, ⟨3, 5⟩, ⟨3, 4⟩] ∧
      seekOrder ((exampleWindow .row false false).walkCells .a) (some ⟨2, 5⟩) =
        [⟨3, 5⟩, ⟨1, 4⟩, ⟨2, 4⟩, ⟨3, 4⟩, ⟨1, 5⟩, ⟨2, 5⟩] := by
  decide +kernel

/-- The table of the example after R32. -/
def exampleStrata : State :=
  let row (k : Nat) (c : StrataClass) (v : Vector StrataClass 16) : Vector StrataClass 16 := v.set! k c
  let u : Vector StrataClass 16 := .replicate 16 .unset
  { State.reset with
    strata := ((((State.reset.strata.set 5 (row 6 .competent (row 7 .competent u))).set 6 (row 6 .competent u)).set 10
      (row 3 .soft u)).set 12 (row 3 .clay u)).set 15 (row 1 .void u) }

theorem test_classifying_increments :
    ([(62, 8), (65, 9), (38, 5), (30, 4), (12, 2), (70, 10)].map fun p : Nat × Nat => classify exampleStrata p.1 p.2) =
      [.competent, .competent, .soft, .clay, .void, .competent] ∧
    (([.competent, .competent, .soft, .clay, .void, .competent] : List StrataClass).foldl
        (fun c k => addIncrement k c) holeOne).runs =
      [⟨.competent, 0, 50⟩, ⟨.soft, 50, 25⟩, ⟨.clay, 75, 25⟩, ⟨.void, 100, 25⟩, ⟨.competent, 125, 25⟩] := by
  decide +kernel

/-- The examples after R80. -/
theorem test_resin_times :
    resinTimes { recOne with spinTime := 40, holdTime := 120, windowEnd := 400 } 120 = ⟨40, 144, 472⟩ ∧
      resinTimes { recOne with spinTime := 40, holdTime := 120, windowEnd := 400 } 80 = ⟨40, 96, 328⟩ ∧
      resinTimes { recOne with spinTime := 35, holdTime := 125, windowEnd := 333 } 85 = ⟨35, 106, 288⟩ ∧
      [-21, -10, 0, 14, 23, 33, 49, 61].map tempBandOf = [0, 1, 2, 3, 4, 5, 6, 7] := by
  decide

/-- The examples after R146. -/
theorem test_scaling :
    scaleFull 511 2000 = 999 ∧ scaleFull 376 250 = 91 ∧ scaleFull 1023 3000 = 3000 ∧ scaleFull 0 3000 = 0 := by
  decide

/-- The 17th run is BROKEN (R32). -/
theorem test_truncation :
    let c := ((List.range 17).foldl (fun c k => addIncrement (if k % 2 = 0 then .soft else .hard) c) holeOne)
    c.runs.length = 16 ∧ c.truncated = true ∧ c.runs[15]? = some ⟨.broken, 375, 50⟩ ∧ c.incCount = 17 := by
  decide +kernel

/-! ### Witnesses: steps, values at the start, invariants -/

/-- An outcome that is a next state. -/
def goes : Host.Outcome State Fault Refusal → Bool
  | .next _ => true
  | _ => false

theorem next_of_goes {o : Host.Outcome State Fault Refusal} (h : goes o = true) : ∃ t, o = .next t := by
  cases o with
  | next t => exact ⟨t, rfl⟩
  | fault _ => cases h
  | refused _ => cases h

/-- Events that wait at boom A. -/
def withEvents (es : List BoomEvent) (s : State) : State := lined { s with boomA := { s.boomA with events := es } }

/-- Boom A drills with its grant, and a deadman release waits at it and in the queue. -/
def busy : State :=
  let s := withEvents [.deadman false] (at_ .drilling (.held 0))
  lined { s with
    arbiter := { s.arbiter with grants := [⟨.boom .a, 60, .drill, 0, 0⟩], arrivals := 1 }
    ticket := 1, pending := [.deadmanRelease .a] }

theorem busy_goes : ∃ t, step busy = .next t := next_of_goes (by decide +kernel)

theorem test_witness_StepTakesTheFrontCommand : busy.pending = .deadmanRelease .a :: [] := rfl

/-- A SET canopy whose pressure has been away for half a second. -/
def losing : State := { ground with canopy := { ground.canopy with lossTime := 5 } }

theorem test_witness_StepsWithoutAnEventAreTicksOrNothing :
    (State.reset.pending = [] ∧ ∀ c ∈ limitCommands, limitDue State.reset c = false) ∧
      (losing.pending = [] ∧ .canopyLost ∈ limitCommands ∧ limitDue losing .canopyLost = true ∧
        limitDue { losing with canopy := { losing.canopy with lossTime := 4 } } .canopyLost = false) ∧
      ((Instr.deadmanPress .a, BoomEvent.deadman true) ∈
          [(Instr.boomStopLoopOpen .a, BoomEvent.stopLoop), (.deadmanPress .a, .deadman true)] ∧
        (busy.boom .a).hasNext (.deadman true) = false) ∧
      ground.stopOpenings = 0 ∧ ground.link.rx = none ∧ ground.arbiter.events.head? ≠ some false ∧
      ground.arbiter.events.head? ≠ some true ∧ (ground.boom .a).phase ≠ .seekWait ∧ ¬ ground.link.tx = .reply ∧
      nextPressure ground = none ∧ .stopLoop ∉ ground.canopy.events ∧ ground.settled := by
  repeat' first | with_reducible apply And.intro | with_reducible exact reset_ready | refine ready_lined ?_ | refine settled_lined ?_
  all_goals decide +kernel

theorem test_witness_StepsWithoutAnEvent_lists :
    (∀ mm, (ground.boom .a).hasNext (.feedPosition mm) = false) ∧
      (∀ bar, (ground.boom .a).hasNext (.rotationPressure bar) = false) ∧
      (∀ tk, (ground.boom .a).port.inbox.head? ≠ some (.grant tk)) ∧
      (∀ tk, ground.canopy.port.inbox.head? ≠ some (.grant tk)) ∧
      (∀ d m tk, .request d m tk ∉ (ground.port .canopy).outbox) ∧
      ∀ tk, (ground.port .canopy).outbox.head? ≠ some (.release tk) :=
  ⟨fun _ => rfl, fun _ => rfl, fun _ => nofun, fun _ => nofun, fun _ _ _ => nofun, fun _ => nofun⟩

/-- A PUMP_SET has refused the canopy's request and, behind it, boom A's. -/
def ordered : State :=
  lined { ground with
    arbiter := { ground.arbiter with refusing := [[(.canopy, 1), (.boom .a, 4)]] }
    canopy := { ground.canopy with state := .raising, port := ⟨.waiting 1, [], [.refusal 1]⟩ }
    boomA := { boomIn .drilling (.waiting 4) with port := ⟨.waiting 4, [], [.refusal 4]⟩ } }

theorem test_witness_StepsWithoutAnEvent_refusalTurn :
    (ordered.port (.boom .a)).inbox = .refusal 4 :: [] ∧
      (∃ l ∈ ordered.arbiter.refusing, (.boom .a, 4) ∈ l ∧ l.head? ≠ some (.boom .a, 4)) ∧
      (ordered.port .canopy).inbox = .refusal 1 :: [] ∧
      ∀ l ∈ ordered.arbiter.refusing, (.canopy, 1) ∈ l → l.head? = some (.canopy, 1) :=
  ⟨rfl, ⟨_, List.mem_cons_self, by decide⟩, rfl, by decide +kernel⟩


theorem test_witness_OnlyAnOverlongBodyStops :
    Instr.wellFormed (.badLength 0x0B 7 [1]) = true ∧ 250 < (List.replicate 251 (0 : Byte)).length := by
  decide +kernel

/-- The reply of a RESTART is being sent. -/
def restarting : State :=
  { busy with link := { busy.link with tx := .reply, reply := some ⟨0x84, 9, [0]⟩ }, pending := [] }

theorem test_witness_RestartIsAnsweredThenRestartsThePart :
    ground.ready ∧ restarting.link.tx = .reply ∧ restarting.link.reply = some ⟨0x84, 9, [0]⟩ := by
  repeat' first | with_reducible apply And.intro | with_reducible exact reset_ready | refine ready_lined ?_ | refine settled_lined ?_
  all_goals decide +kernel

/-- The same with a masked line that is low under a LOW_LEVEL condition sense. -/
def restartingLow : State :=
  { restarting with lines := restarting.lines.set 31 { restarting.lines[(31 : Fin 32)] with sense := .lowLevel, mask := true } }

theorem test_witness_Restart_linesSetAgain :
    restartingLow.link.tx = .reply ∧ restartingLow.link.reply = some ⟨0x84, 9, [0]⟩ ∧
      restartingLow.lines[(31 : Fin 32)].mode = .digitalIn ∧ restartingLow.lines[(31 : Fin 32)].terminalLevel = false ∧
      (restartingLow.flag .lines).enable = true ∧ 1 ≤ (restartingLow.flag .lines).level ∧
      (restartingLow.flag .lines).level ≤ 3 := by
  decide +kernel


theorem test_witness_StepKeepsOutputsAsCommanded : busy.linesSettled ∧ ∃ t, step busy = .next t :=
  ⟨lined_linesSettled _, busy_goes⟩

/-- A boom in each state that commands an output, with its grant, in a back-off, in a push, and without them. -/
theorem test_witness_StepKeepsOutputs_tables :
    (∀ ph ∈ ([.collaring, .drilling, .retracting, .releasing, .aborting, .spinning, .torquing] : List Phase),
      ((at_ ph (.held 0)).boom .a).ctx = some holeOne ∧ ((at_ ph (.held 0)).boom .a).phase = ph) ∧
    ({ boomIn .drilling (.held 0) with backOff := true } : Boom).backOff = true ∧
    (boomIn .steelChange (.held 0)).waitReason = none ∧ ({ holeOne with inFlight := some .fast } : HoleCtx).inFlight ≠ none ∧
    holeOne.inFlight = none ∧ (boomIn .drilling (.waiting 0)).port.view = .waiting 0 ∧
    ground.lines[(0 : Fin 32)].mode.isOut = true ∧
    ground.lines[(0 : Fin 32)].binding = some ⟨.boom .a .feedUp, .none⟩ ∧
    ownerCommand ground (.boom .a .feedUp) = some 0 ∧ ground.lines[(30 : Fin 32)].binding = none ∧
    ground.lines[(0 : Fin 32)].mode = .proportionalOut ∧ ground.lines[(6 : Fin 32)].mode = .digitalIn := by
  decide +kernel


/-- `LineRec.sampled` as a check. -/
def sampledCheck (l : LineRec) : Bool :=
  match l.mode with
  | .digitalIn => l.digital == l.terminalLevel && l.analog == 0 && l.outValue == 0
  | .analogIn => !l.digital && l.analog == l.term.count && l.outValue == 0 && !l.latch
  | .switchedOut | .proportionalOut => l.analog == 0

theorem sampled_of_check {l : LineRec} (h : sampledCheck l = true) : l.sampled := by
  unfold sampledCheck at h
  unfold LineRec.sampled
  split at h <;> simp_all

/-- `State.bindingsSound` as a check. -/
def bindingsCheck (s : State) : Bool :=
  decide (∀ i j : Fin 32,
    (match s.lines[i].binding, s.lines[j].binding with
    | some b, some c => s.lines[i].mode == b.fn.requiredMode && (b.fn != c.fn || i == j)
    | _, _ => true) = true)

theorem bindingsSound_of_check {s : State} (h : bindingsCheck s = true) : s.bindingsSound := by
  have h := of_decide_eq_true h
  refine ⟨fun i b hb => ?_, fun i j b c hb hc e => ?_⟩
  · have := h i i
    simp_all
  · have := h i j
    simp_all

theorem test_witness_StepKeepsLinesToTheirModesAndBindings :
    busy.linesSampled ∧ busy.bindingsSound ∧ ∃ t, step busy = .next t :=
  ⟨fun i => sampled_of_check ((by decide +kernel : ∀ i : Fin 32, sampledCheck busy.lines[i] = true) i),
    bindingsSound_of_check (by decide +kernel), busy_goes⟩

theorem test_witness_StepKeepsTheUplinkRules : busy.uplinkSettled ∧ ∃ t, step busy = .next t :=
  ⟨by decide +kernel, busy_goes⟩

/-- A full grant map at the budget. -/
def fullGrants : State :=
  { busy with arbiter := { busy.arbiter with budget := 200, grants := [⟨.boom .a, 200, .drill, 0, 0⟩] } }

theorem test_witness_StepKeepsGrantsWithinBudget :
    fullGrants.budgetKept ∧ fullGrants.consumersOnce ∧ ∃ t, step fullGrants = .next t :=
  ⟨by decide +kernel, by unfold State.consumersOnce; decide +kernel, next_of_goes (by decide +kernel)⟩

theorem sound_of {b : Boom}
    (h : b.magazine.length ≤ 6 ∧ b.phase ≠ .assessing ∧ b.ctx.isSome = b.phase.hasContext ∧ b.suspendedPhase = none ∧
      b.phase ≠ .suspended ∧ (b.heldPhase → b.holds = .empty) ∧ (b.port.view ≠ .none → b.phase.usesFlow) ∧
      ∀ c ∈ b.ctx, c.runsSound) : b.sound :=
  ⟨h.1, h.2.1, h.2.2.1, by simp [h.2.2.2.1], fun e => absurd e h.2.2.2.2.1, h.2.2.2.2.2.1, h.2.2.2.2.2.2.1,
    h.2.2.2.2.2.2.2⟩

/-- `State.gridSound` as a check. -/
def gridCheck (s : State) : Bool :=
  decide (∀ (col : Fin 8) (row : Fin 12),
    let q : Pos := ⟨col, row⟩
    let here (x : Side) : Bool := match (s.boom x).ctx with | some c => c.pos == q | none => false
    let d := s.cell q
    (d.state = .claimed ∨ d.state = .working → ∃ x ∈ ([.a, .b] : List Side), d.boom = some x ∧ here x = true) ∧
      ∀ x ∈ ([.a, .b] : List Side), here x = true →
        d.boom = some x ∧ d.state = if (s.boom x).phase = .positioning then .claimed else .working)

theorem gridSound_of_check {s : State} (h : gridCheck s = true) : s.gridSound := by
  intro q
  obtain ⟨claimed, context⟩ := of_decide_eq_true h q.col q.row
  refine ⟨fun e => ?_, fun x c hc hq => context x (by cases x <;> simp) (by simp [hc, hq])⟩
  obtain ⟨x, -, hb, hx⟩ := claimed e
  cases hc : (s.boom x).ctx with
  | none => simp [hc] at hx
  | some c => exact ⟨x, c, hb, hc, by simpa [hc] using hx⟩

theorem test_witness_StepKeepsBoomsSound :
    (∀ x, (busy.boom x).sound) ∧ busy.gridSound ∧ ∃ t, step busy = .next t :=
  ⟨fun x => by cases x <;> exact sound_of (by decide +kernel), gridSound_of_check (by decide +kernel), busy_goes⟩

theorem flagsSound_of {s : State} (h : ∀ f ∈ allFlags, (s.flag f).level ≤ 3 ∧ (s.flag f).pending = none) :
    s.flagsSound := by
  have all : ∀ f, f ∈ allFlags := by
    intro f
    rcases f with _ | x | x | x | x | _ | _ | _ | _ | _ | _ <;> first | decide | (cases x <;> decide)
  exact fun f => ⟨(h f (all f)).1, fun n e => by simp [(h f (all f)).2] at e⟩

theorem test_witness_StepKeepsFlagsSound : busy.flagsSound ∧ busy.linesFlagKept ∧ ∃ t, step busy = .next t :=
  ⟨flagsSound_of (by decide +kernel), by unfold State.linesFlagKept; decide +kernel, busy_goes⟩

/-! ### Witnesses: the link and the notice unit -/

/-- The receiver inside a frame, with these bytes since the sync. -/
def inFrame (bytes : List Byte) : State := lined { ground with link := { ground.link with rx := some bytes } }

/-- The ones of a character and its parity bit are odd in number. -/
def oddOnes (d : Byte) (parity : Bool) : Bool :=
  (((List.range 8).filter fun i => d.getLsbD i).length + if parity then 1 else 0) % 2 = 1

theorem test_witness_ReceiverHuntsAndDiscardsBadFrames :
    (ground.settled ∧ ground.link.rx = none ∧ oddOnes 0xC3 false = false ∧ oddOnes 0xC3 true = true) ∧
      ((inFrame []).settled ∧ (inFrame []).link.rx = some []) ∧
      (oddOnes 1 false = true ∧ oddOnes 1 true = false ∧ (1 : Byte).toNat < 2 ∧ 252 < (253 : Byte).toNat) ∧
      (let bytes : List Byte := [2, 1, 7, 0]
       (inFrame bytes).settled ∧ 2 ≤ (2 : Byte).toNat ∧ ([1, 7, 0] : List Byte).length = (2 : Byte).toNat + 1 ∧
         ([1, 7, 0] : List Byte).drop 2 ++ [0] ≠ wordBytes (crc (2 :: ([1, 7, 0] : List Byte).take 2))) := by
  repeat' first | with_reducible apply And.intro | with_reducible exact reset_ready | refine ready_lined ?_ | refine settled_lined ?_
  all_goals decide +kernel

/-- The reply slot is full, with these frames behind it. -/
def behind (queue : List Frame) : State :=
  lined { ground with link := { ground.link with tx := .reply, reply := some ⟨0x81, 1, [0]⟩, queue := queue } }

/-- A flag set, with its notice pending. -/
def notified (fs : List Flag) (s : State) : State := lined (fs.foldl (fun s f => raiseFlag f none none 0 s) s)

/-- START's notice is being sent, with a reply in the slot. -/
def replyWaits : State :=
  lined { notified [.pump] ground with link := ⟨none, [], some ⟨0x81, 1, [0]⟩, .notice ⟨.start, none, none, 0⟩, .none⟩ }

theorem test_witness_ReceiverReadsWhatAFrameSends :
    ground.settled ∧ ground.link.rx = none ∧ (Frame.body ⟨0x01, 7, []⟩).length ≤ 250 ∧
      (Frame.body ⟨0x05, 7, .replicate 250 0⟩).length ≤ 250 ∧ requestFrame (.status 7) = some ⟨0x01, 7, []⟩ ∧
      requestFrame (.unknownKind 0x05 7 (.replicate 250 0)) = some ⟨0x05, 7, .replicate 250 0⟩ ∧
      Instr.wellFormed (.unknownKind 0x05 7 (.replicate 250 0)) = true ∧
      (ground.link.tx = .idle ∧ (behind []).link.tx = .reply ∧ (behind []).link.reply = some ⟨0x81, 1, [0]⟩ ∧
        replyWaits.link.tx = .notice ⟨.start, none, none, 0⟩) := by
  repeat' first | with_reducible apply And.intro | with_reducible exact reset_ready | refine ready_lined ?_ | refine settled_lined ?_
  all_goals decide +kernel

theorem test_witness_RequestsWaitBehindAFullSlot :
    requestFrame (.status 5) = some ⟨0x01, 5, []⟩ ∧ Instr.wellFormed (.status 5) = true ∧
      (let one := behind [⟨0x01, 2, []⟩]
       one.settled ∧ one.link.reply ≠ none ∧ one.link.queue.length < 2) ∧
      (let two := behind [⟨0x01, 2, []⟩, ⟨0x01, 3, []⟩]
       two.settled ∧ two.link.reply ≠ none ∧ two.link.queue.length = 2) := by
  repeat' first | with_reducible apply And.intro | with_reducible exact reset_ready | refine ready_lined ?_ | refine settled_lined ?_
  all_goals decide +kernel

theorem test_witness_UnknownKindAndBadLengthAreAnswered :
    ground.ready ∧ Instr.wellFormed (.unknownKind 0x3F 1 []) = true ∧ Instr.wellFormed (.unknownKind 0x40 1 []) = true ∧
      Instr.wellFormed (.unknownKind 0 1 []) = true ∧ Instr.wellFormed (.badLength 0x01 1 [0]) = true := by
  repeat' first | with_reducible apply And.intro | with_reducible exact reset_ready | refine ready_lined ?_ | refine settled_lined ?_
  all_goals decide +kernel

theorem chooses_of_check {s : State} {f : Flag} {n : Notice}
    (h : ((s.flag f).pending = some n ∧ 1 ≤ (s.flag f).level ∧ (s.flag f).level ≤ 3) ∧
      ∀ g ∈ allFlags, g ≠ f → (s.flag g).pending ≠ none →
        (s.flag g).level < (s.flag f).level ∨ ((s.flag g).level = (s.flag f).level ∧ f.code < g.code)) : s.chooses f n :=
  ⟨h.1, fun g _ hg ho => h.2 g (mem_allFlags g) hg (by simp [ho.1])⟩

/-- A reply is being sent, and three notices wait. -/
def threeNotices : State := notified [.pump, .stopLoop, .link] (behind [])

theorem test_witness_SendingEndsWithTheNextChoice :
    (let s := replyWaits
     s.settled ∧ s.link.tx = .notice ⟨.start, none, none, 0⟩ ∧ s.link.reply = some ⟨0x81, 1, [0]⟩) ∧
    (let s := threeNotices
     s.settled ∧ s.link.tx = .reply ∧ s.link.reply = some ⟨0x81, 1, [0]⟩ ∧ s.link.queue = [] ∧
       (s.flag .pump).pending ≠ none ∧ (s.flag .link).pending ≠ none) ∧
    ((behind []).settled ∧ (behind []).link.queue = []) ∧
    (let s := behind [⟨0x01, 2, []⟩]
     s.settled ∧ s.link.tx = .reply ∧ s.link.reply = some ⟨0x81, 1, [0]⟩ ∧ s.link.queue = ⟨0x01, 2, []⟩ :: []) ∧
    (ground.ready ∧ requestFrame (.status 5) = some ⟨0x01, 5, []⟩ ∧ Instr.wellFormed (.status 5) = true) := by
  repeat' first | with_reducible apply And.intro | with_reducible exact reset_ready | refine ready_lined ?_ | refine settled_lined ?_
  all_goals decide +kernel

theorem test_witness_SendingEnds_choice :
    threeNotices.chooses .stopLoop ⟨.stopLoop, none, none, 0⟩ ∧ ∀ g n, ¬ (behind []).offers g n :=
  ⟨chooses_of_check (by decide +kernel), nextNotice_eq_none_iff.mp (by decide +kernel)⟩

theorem test_witness_SendingEnds_everyEvent :
    busy.flagsSound ∧ ∃ t, exec (.deadmanRelease .a) busy = .next t :=
  ⟨flagsSound_of (by decide +kernel), next_of_goes (by decide +kernel)⟩

theorem test_witness_CausesSetFlagsOnce :
    (ground.flag .start).set = true ∧ (ground.flag .pump).set = false ∧ Flag.pump ≠ .start := by
  decide +kernel

theorem test_witness_ReadsReportAndChangeNothing : ground.ready := ready_lined (by decide +kernel)

/-- START's notice is being sent, and PUMP's waits. -/
def noticeWaits : State :=
  lined { notified [.pump] ground with link := { ground.link with tx := .notice ⟨.start, none, none, 0⟩ } }

theorem test_witness_ClearAndNoticeSetActOnFlags :
    ground.ready ∧ (1 : Word).toNat.testBit 0 = true ∧ (0xFFFE : Word).toNat.testBit 0 = false ∧
      (noticeWaits.ready ∧ (noticeWaits.flag .pump).pending ≠ none) ∧
      (16 : Byte).toNat = 15 + 1 ∧ 3 < (4 : Byte).toNat ∧ 1 < (2 : Byte).toNat ∧ (12 : Byte).toNat = Flag.pump.code := by
  repeat' first | with_reducible apply And.intro | with_reducible exact reset_ready | refine ready_lined ?_ | refine settled_lined ?_
  all_goals decide +kernel

/-- A masked line has latched, and LINES is set. -/
def latched : State :=
  notified [.lines] { ground with
    lines := ground.lines.set 31 { ground.lines[(31 : Fin 32)] with mask := true, latch := true }
    link := { ground.link with tx := .notice ⟨.start, none, none, 0⟩ } }

theorem test_witness_ClearAndNoticeSet_linesSetAgain :
    latched.ready ∧ (0x2000 : Word).toNat.testBit 13 = true ∧ (0x2000 : Word).toNat.testBit 0 = false ∧
      latched.lines[(31 : Fin 32)].mask = true ∧ latched.lines[(31 : Fin 32)].latch = true ∧
      (latched.flag .lines).enable = true ∧ 1 ≤ (latched.flag .lines).level ∧ (latched.flag .lines).level ≤ 3 := by
  repeat' first | with_reducible apply And.intro | with_reducible exact reset_ready | refine ready_lined ?_ | refine settled_lined ?_
  all_goals decide +kernel

theorem test_witness_ClearAndNoticeSet_flagsSound : ground.flagsSound := flagsSound_of (by decide +kernel)

/-! ### Witnesses: the class store -/

/-- The bytes of the class above. -/
def recBytes : Vector Byte 44 := ⟨(classBytes recOne).toArray, by decide +kernel⟩

theorem test_witness_ClassRecordsReadBackAsWritten :
    ground.ready ∧ (8 : Byte).toNat = (7 : Fin 8).val + 1 ∧ parseClass recBytes.toList = some recOne ∧
      recOne.allowed (8 : Byte).toNat ∧ ¬ recOne.allowed (2 : Byte).toNat ∧ 8 < (9 : Byte).toNat ∧
      parseClass ((recBytes.set 11 0).toList) = none ∧ parseClass ((recBytes.set 11 5).toList) = none ∧
      parseClass ((recBytes.set 15 5).toList) = none ∧ parseClass ((recBytes.set 17 4).toList) = none ∧
      parseClass ((recBytes.set 18 4).toList) = some recOne := by
  repeat' first | with_reducible apply And.intro | with_reducible exact reset_ready | refine ready_lined ?_ | refine settled_lined ?_
  all_goals decide +kernel

theorem test_witness_TablesAreReplacedAsWritten :
    ground.ready ∧ Instr.wellFormed (.strataWrite 1 1 (15 :: .replicate 16 7)) = true ∧
      (15 : Byte).toNat = (15 : Fin 16).val ∧ (∀ c ∈ List.replicate 16 (7 : Byte), c.toNat ≤ 7) ∧
      Instr.wellFormed (.strataWrite 1 2 [50, 30]) = true ∧ (50 : Byte).toNat ≤ 50 ∧ (30 : Byte).toNat ≤ 30 ∧
      Instr.wellFormed (.strataWrite 1 1 (16 :: .replicate 16 0)) = true ∧ 15 < (16 : Byte).toNat ∧
      Instr.wellFormed (.strataWrite 1 2 [51, 31]) = true ∧ 50 < (51 : Byte).toNat ∧
      Instr.wellFormed (.strataWrite 1 3 [1, 1]) = true := by
  repeat' first | with_reducible apply And.intro | with_reducible exact reset_ready | refine ready_lined ?_ | refine settled_lined ?_
  all_goals decide +kernel

theorem test_witness_StrataReadReportsARow :
    ground.ready ∧ (15 : Byte).toNat = (15 : Fin 16).val ∧ 15 < (16 : Byte).toNat := by
  repeat' first | with_reducible apply And.intro | with_reducible exact reset_ready | refine ready_lined ?_ | refine settled_lined ?_
  all_goals decide +kernel

/-! ### Witnesses: field lines -/

/-- The ground with one line changed, outputs settled. -/
def withLine (i : Fin 32) (f : LineRec → LineRec) : State := lined { ground with lines := ground.lines.set i (f ground.lines[i]) }

/-- L31 as an unbound output, L32 as an unbound open input with a pull. -/
def outLine (m : LineMode) : State := withLine 30 fun l => { l with mode := m }

theorem test_witness_LineReadReportsAndTakesTheSnapshots : ground.ready := ready_lined (by decide +kernel)

theorem test_witness_LineWriteSetsAnUnboundOutput :
    ground.ready ∧ 32 < (33 : Byte).toNat ∧ (32 : Byte).toNat = (31 : Fin 32).val + 1 ∧
      ground.lines[(31 : Fin 32)].mode = .digitalIn ∧ ground.lines[(4 : Fin 32)].mode = .analogIn ∧
      (ground.lines[(0 : Fin 32)].mode.isOut = true ∧ ground.lines[(0 : Fin 32)].binding ≠ none) ∧
      ((outLine .switchedOut).ready ∧ (outLine .switchedOut).lines[(30 : Fin 32)].mode = .switchedOut ∧
        (outLine .switchedOut).lines[(30 : Fin 32)].binding = none ∧ 1 < (2 : Byte).toNat ∧ (1 : Byte).toNat ≤ 1) ∧
      ((outLine .proportionalOut).ready ∧ (outLine .proportionalOut).lines[(30 : Fin 32)].mode.isOut = true ∧
        (outLine .proportionalOut).lines[(30 : Fin 32)].binding = none ∧ (15 : Byte).toNat ≤ 15 ∧ 15 < (16 : Byte).toNat) := by
  repeat' first | with_reducible apply And.intro | with_reducible exact reset_ready | refine ready_lined ?_ | refine settled_lined ?_
  all_goals decide +kernel

/-- A bound deadman line of boom A left open, read low by its pull. -/
def openDeadman : State :=
  withLine 6 fun l => { l with pull := .down, digital := false, snapshot := false, term := { l.term with isOpen := true } }

theorem test_witness_LineConfigGivesALineItsSettings :
    ground.ready ∧ 32 < (33 : Byte).toNat ∧ 4 < (5 : Byte).toNat ∧ 3 < (4 : Byte).toNat ∧ 5 < (6 : Byte).toNat ∧
      1 < (2 : Byte).toNat ∧
      ((1 : Byte).toNat = (0 : Fin 32).val + 1 ∧ (1 : Byte).toNat = LineMode.digitalIn.code ∧
        (3 : Byte).toNat = Pull.down.code ∧ (5 : Byte).toNat = Sense.falling.code ∧
        LineMode.digitalIn ≠ ground.lines[(0 : Fin 32)].mode ∧ ground.lines[(0 : Fin 32)].binding ≠ none) ∧
      (LineMode.analogIn ≠ ground.lines[(31 : Fin 32)].mode ∧ ground.lines[(31 : Fin 32)].binding = none) ∧
      (LineMode.digitalIn = ground.lines[(6 : Fin 32)].mode ∧
        LineRec.terminalLevel { ground.lines[(6 : Fin 32)] with pull := .up } = ground.lines[(6 : Fin 32)].digital) ∧
      (openDeadman.ready ∧ LineMode.digitalIn = openDeadman.lines[(6 : Fin 32)].mode ∧
        LineRec.terminalLevel { openDeadman.lines[(6 : Fin 32)] with pull := .up } ≠
          openDeadman.lines[(6 : Fin 32)].digital) := by
  repeat' first | with_reducible apply And.intro | with_reducible exact reset_ready | refine ready_lined ?_ | refine settled_lined ?_
  all_goals decide +kernel

/-- Feed home of boom A unbound. -/
def unboundHome : State := withLine 11 fun l => { l with binding := none }

theorem test_witness_LineBindBindsAndUnbinds :
    ground.ready ∧ 32 < (33 : Byte).toNat ∧ 30 < (31 : Byte).toNat ∧
      (ground.lines[(31 : Fin 32)].binding = none ∧ (32 : Byte).toNat = (31 : Fin 32).val + 1) ∧
      (ground.lines[(28 : Fin 32)].binding = some ⟨.stopLoop, .none⟩ ∧ unbindAllowed ground .stopLoop = true) ∧
      (unbindAllowed (at_ .drilling (.held 0)) .stopLoop = false ∧ (at_ .drilling (.held 0)).ready ∧
        (at_ .drilling (.held 0)).lines[(28 : Fin 32)].binding = some ⟨.stopLoop, .none⟩) ∧
      (scalingGiven (.boom .a .feedPosition) 499 0 0 = none ∧
        scalingGiven (.boom .a .feedPosition) 3000 0 0 = some (.full 3000) ∧ scalingGiven .temperature 0 41 100 = none ∧
        scalingGiven .temperature 0 40 200 = some (.temp 40 200)) ∧
      (12 : Byte).toNat = Fn.code (.boom .a .feedHome) ∧ scalingGiven (.boom .a .feedHome) 0 0 0 = some .none ∧
      Fn.requiredMode .canopyUp ≠ ground.lines[(31 : Fin 32)].mode ∧
      (Fn.requiredMode (.boom .a .feedHome) = ground.lines[(6 : Fin 32)].mode ∧
        ground.lines[(6 : Fin 32)].binding = some ⟨.boom .a .deadman, .none⟩ ∧ Fn.boom .a .deadman ≠ .boom .a .feedHome) ∧
      (ground.lines[(31 : Fin 32)].binding = none ∧ ground.bound (.boom .a .feedHome) = true ∧
        Fn.requiredMode (.boom .a .feedHome) = ground.lines[(31 : Fin 32)].mode) ∧
      (ground.lines[(11 : Fin 32)].binding = some ⟨.boom .a .feedHome, .none⟩ ∧
        bindAllowed ground (.boom .a .feedHome) = true ∧ bindAllowed (at_ .drilling (.held 0)) (.boom .a .feedHome) = false) ∧
      (unboundHome.ready ∧ unboundHome.lines[(11 : Fin 32)].binding = none ∧
        unboundHome.bound (.boom .a .feedHome) = false ∧ bindAllowed unboundHome (.boom .a .feedHome) = true) := by
  repeat' first | with_reducible apply And.intro | with_reducible exact reset_ready | refine ready_lined ?_ | refine settled_lined ?_
  all_goals decide +kernel

/-- The canopy is UNKNOWN with its pressure bound and high, and an event of it is on its way. -/
def adopting : State :=
  lined { ground with canopy := { ground.canopy with state := .unknown, settleTime := 9, events := [.pressure true, .stopLoop] } }

theorem test_witness_LineBind_unbindsCanopyPressure :
    adopting.ready ∧ adopting.lines[(26 : Fin 32)].binding = some ⟨.canopyPressure, .none⟩ ∧
      unbindAllowed adopting .canopyPressure = true ∧ adopting.canopy.state ≠ .raising ∧ (0 : Byte).toNat = 0 ∧
      (27 : Byte).toNat = (26 : Fin 32).val + 1 ∧ unbindAllowed (lined { adopting with
        canopy := { adopting.canopy with state := .lowering } }) .canopyPressure = false := by
  repeat' first | with_reducible apply And.intro | with_reducible exact reset_ready | refine ready_lined ?_ | refine settled_lined ?_
  all_goals decide +kernel

theorem test_witness_TerminalChangesAreReadAndHandedOn :
    ground.settled ∧ ground.lines[(0 : Fin 32)].mode ≠ .digitalIn ∧
      (ground.lines[(6 : Fin 32)].mode = .digitalIn ∧ false ≠ ground.lines[(6 : Fin 32)].digital ∧
        ground.lines[(6 : Fin 32)].binding = some ⟨.boom .a .deadman, .none⟩) ∧
      (ground.lines[(4 : Fin 32)].mode = .analogIn ∧ (1023 : BitVec 10).toNat ≠ ground.lines[(4 : Fin 32)].analog ∧
        ground.lines[(4 : Fin 32)].binding = some ⟨.boom .a .feedPosition, .full 1023⟩) ∧
      (ground.lines[(5 : Fin 32)].mode = .analogIn ∧
        ground.lines[(5 : Fin 32)].binding = some ⟨.boom .a .rotationPressure, .full 400⟩) ∧
      (ground.lines[(29 : Fin 32)].mode = .analogIn ∧ ground.lines[(29 : Fin 32)].binding = some ⟨.temperature, .temp 20 100⟩ ∧
        (0 : BitVec 10).toNat = ground.lines[(29 : Fin 32)].analog) := by
  repeat' first | with_reducible apply And.intro | with_reducible exact reset_ready | refine ready_lined ?_ | refine settled_lined ?_
  all_goals decide +kernel

theorem test_witness_TerminalChanges_bound :
    ground.bindingsSound ∧
      (ground.lines[(4 : Fin 32)].binding = some ⟨.boom .a .feedPosition, .full 1023⟩ ∧
        ground.lines[(5 : Fin 32)].binding = some ⟨.boom .a .rotationPressure, .full 400⟩) ∧
      ∀ i : Fin 32, ∀ b ∈ ground.lines[i].binding, b.fn ≠ .boom .b .feedPosition :=
  ⟨bindingsSound_of_check (by decide +kernel), by decide +kernel, by decide +kernel⟩

/-- The stop loop has opened while boom A drills, and the field line unit has yet to take it. -/
def opened : State :=
  let s := at_ .drilling (.held 0)
  lined { s with
    stopOpenings := 1
    lines := s.lines.set 28 { s.lines[(28 : Fin 32)] with
      digital := false, latch := true, term := { s.lines[(28 : Fin 32)].term with level := false } } }

theorem test_witness_StopLoopOpeningDrivesBoundOutputsToZero :
    (opened.settled ∧ 0 < opened.stopOpenings ∧ opened.loopOpen = true ∧ opened.lines[(0 : Fin 32)].digital = true ∧
      opened.lines[(0 : Fin 32)].mode.isOut = true ∧ opened.lines[(0 : Fin 32)].binding ≠ none) ∧ opened.bindingsSound :=
  ⟨⟨settled_lined (by decide +kernel), by decide +kernel⟩, bindingsSound_of_check (by decide +kernel)⟩

/-! ### Witnesses: the pattern table -/

/-- The first cell in another state. -/
def firstCell (c : Cell) (s : State) : State := lined { s with cells := s.cells.set 0 c }

/-- The first cell FAILED after four holes. -/
def worn : State := firstCell { Cell.blank with state := .failed, classIdx := 1, attempts := 3 } ground

/-- Boom A has claimed the first cell. -/
def claimed : State :=
  firstCell { Cell.blank with state := .claimed, classIdx := 1, boom := some .a } (at_ .positioning)

/-- Boom B waits for a cell. -/
def bWaits (s : State) : State := lined { s with boomB := { s.boomB with phase := .seekWait, started := true } }

theorem test_witness_PatternDefineEmptiesTheGrid :
    ground.ready ∧ 8 < (9 : Byte).toNat ∧ 12 < (13 : Byte).toNat ∧ 3 < (4 : Byte).toNat ∧
      (8 : Byte).toNat = (7 : Fin 8).val + 1 ∧ (12 : Byte).toNat = (11 : Fin 12).val + 1 ∧ (0 : Fin 8) ≤ 7 ∧
      (0 : Fin 12) ≤ 11 ∧ (3 : Byte).toNat ≤ 3 ∧ (at_ .drilling (.held 0)).ready ∧
      (at_ .drilling (.held 0)).boomA.phase ≠ .idle := by
  repeat' first | with_reducible apply And.intro | with_reducible exact reset_ready | refine ready_lined ?_ | refine settled_lined ?_
  all_goals decide +kernel

theorem test_witness_CellMarkPlansARectangle :
    (State.reset.ready ∧ State.reset.pattern = none) ∧
      (ground.ready ∧ ground.pattern = some ⟨0, 1, 0, 1, ⟨.row, false, false⟩, ⟨.row, true, false⟩, 1⟩ ∧
        8 < (9 : Byte).toNat) ∧
      (∃ q : Pos, ((⟨0, 0⟩ : Pos).col ≤ q.col ∧ q.col ≤ (⟨2, 0⟩ : Pos).col ∧ (⟨0, 0⟩ : Pos).row ≤ q.row ∧
        q.row ≤ (⟨2, 0⟩ : Pos).row) ∧ ¬ ((0 : Fin 8) ≤ q.col ∧ q.col ≤ 1 ∧ (0 : Fin 12) ≤ q.row ∧ q.row ≤ 1)) ∧
      (¬ ∃ q : Pos, ((0 : Fin 8) ≤ q.col ∧ q.col ≤ 1 ∧ (0 : Fin 12) ≤ q.row ∧ q.row ≤ 1) ∧
        ¬ ((0 : Fin 8) ≤ q.col ∧ q.col ≤ 1 ∧ (0 : Fin 12) ≤ q.row ∧ q.row ≤ 1)) ∧
      (claimed.ready ∧ (claimed.cell cellOne).state = .claimed) ∧
      (worn.ready ∧ (worn.cell cellOne).state = .failed ∧ 3 ≤ (worn.cell cellOne).attempts) ∧
      ((8 : Byte) ≠ 0 ∧ classAt ground.classes (8 : Byte).toNat = none) ∧
      (classAt ground.classes (1 : Byte).toNat = some recOne ∧
        ∀ x : Fin 2, (ground.cell ⟨⟨x.val, by omega⟩, 0⟩).state = .planned) :=
  ⟨⟨reset_ready, rfl⟩, ⟨ready_lined (by decide +kernel), by decide +kernel⟩, ⟨⟨2, 0⟩, by decide⟩, fun ⟨_, h, n⟩ => n h,
    ⟨ready_lined (by decide +kernel), by decide +kernel⟩, ⟨ready_lined (by decide +kernel), by decide +kernel⟩,
    by decide +kernel, by decide +kernel⟩

theorem test_witness_CellReadReportsTheCell :
    ground.ready ∧ 8 < (9 : Byte).toNat ∧ 12 < (13 : Byte).toNat ∧ (8 : Byte).toNat = (⟨7, 11⟩ : Pos).col.val + 1 ∧
      (12 : Byte).toNat = (⟨7, 11⟩ : Pos).row.val + 1 := by
  repeat' first | with_reducible apply And.intro | with_reducible exact reset_ready | refine ready_lined ?_ | refine settled_lined ?_
  all_goals decide +kernel

theorem test_witness_SkipTakesAPlannedCellOrAClaim :
    (State.reset.ready ∧ State.reset.pattern = none ∧ (1 : Byte).toNat = cellOne.col.val + 1) ∧
      (ground.ready ∧ (3 : Byte) ≠ 1 ∧ (3 : Byte) ≠ 2 ∧
        PatternDef.inWindow ⟨0, 1, 0, 1, ⟨.row, false, false⟩, ⟨.row, true, false⟩, 1⟩ ⟨2, 0⟩ = false ∧
        PatternDef.inWindow ⟨0, 1, 0, 1, ⟨.row, false, false⟩, ⟨.row, true, false⟩, 1⟩ cellOne = true ∧
        (ground.cell cellOne).state = .planned) ∧
      ((bWaits claimed).ready ∧ ((bWaits claimed).cell cellOne).state = .claimed ∧
        ((bWaits claimed).cell cellOne).boom = some .a) ∧
      ((ground.cell cellThree).state ≠ .planned ∧ (ground.cell cellThree).state ≠ .claimed) := by
  repeat' first | with_reducible apply And.intro | with_reducible exact reset_ready | refine ready_lined ?_ | refine settled_lined ?_
  all_goals decide +kernel

theorem test_witness_WalksAndSeeksVisitTheWindowInOrder :
    (exampleWindow .column true false).xs ≤ (exampleWindow .column true false).xe ∧
      (exampleWindow .column true false).ys ≤ (exampleWindow .column true false).ye ∧
      ((exampleWindow .row false false).walkCells .a).Nodup ∧
      ((exampleWindow .row false false).walkCells .a)[5]? = some ⟨3, 5⟩ ∧
      5 < ((exampleWindow .row false false).walkCells .a).length := by
  decide +kernel

/-- Boom A works on the first of three cells in a row, and the other two are planned. -/
def threeInARow : State :=
  let s := at_ .drilling (.held 0)
  { s with
    pattern := some ⟨0, 2, 0, 0, ⟨.row, false, false⟩, ⟨.row, false, false⟩, 1⟩
    cells := s.cells.set 2 { Cell.blank with state := .planned, classIdx := 1 } }

/-- A window without a planned cell, one of its cells DONE. -/
def finished : State :=
  { ground with cells := (ground.cells.set 0 { Cell.blank with state := .done, classIdx := 1 }).set 1 .blank }

theorem test_witness_SeeksClaimTheFirstFreeCell :
    (threeInARow.pattern = some ⟨0, 2, 0, 0, ⟨.row, false, false⟩, ⟨.row, false, false⟩, 1⟩ ∧
      seekOrder (PatternDef.walkCells ⟨0, 2, 0, 0, ⟨.row, false, false⟩, ⟨.row, false, false⟩, 1⟩ .b)
        (threeInARow.boom .b).cursor = [cellOne, cellTwo] ++ ⟨2, 0⟩ :: [] ∧
      (threeInARow.cell ⟨2, 0⟩).state = .planned ∧ (threeInARow.boom .a).ctx = some holeOne ∧
      ¬ (2 : Fin 8).val ≤ holeOne.pos.col.val + 1 ∧ (threeInARow.cell cellOne).state ≠ .planned ∧
      (threeInARow.cell cellTwo).state = .planned ∧ cellTwo.col.val ≤ holeOne.pos.col.val + 1 ∧
      classAt threeInARow.classes (threeInARow.cell ⟨2, 0⟩).classIdx = some recOne) ∧
    (let s := at_ .drilling (.held 0)
     (∃ q ∈ [cellTwo, cellOne, ⟨1, 1⟩, cellThree], (s.cell q).state = .planned) ∧ (s.boom .a).ctx = some holeOne ∧
       ∀ q ∈ [cellTwo, cellOne, ⟨1, 1⟩, cellThree], (s.cell q).state = .planned → q = cellTwo) ∧
    (∀ q ∈ seekOrder (PatternDef.walkCells ⟨0, 1, 0, 1, ⟨.row, false, false⟩, ⟨.row, true, false⟩, 1⟩ .a)
        (finished.boom .a).cursor, ¬ (finished.cell q).state = .planned) := by
  decide +kernel

/-- Boom A waits in SEEK_WAIT. -/
def aWaits (s : State) : State := { s with boomA := { Boom.powerOn with phase := .seekWait, started := true } }

theorem test_witness_Seeks_reseeks :
    ((ground.boom .a).phase ≠ .seekWait ∧ (ground.boom .b).phase ≠ .seekWait) ∧
      (((aWaits ground).boom .a).phase = .seekWait ∧ ((aWaits ground).boom .b).phase ≠ .seekWait) ∧
      (((bWaits ground).boom .a).phase ≠ .seekWait ∧ ((bWaits ground).boom .b).phase = .seekWait) ∧
      (((aWaits (bWaits ground)).boom .a).phase = .seekWait ∧ ((aWaits (bWaits ground)).boom .b).phase = .seekWait) ∧
      8 < 9 := by
  decide +kernel

theorem test_witness_ChecksFindCompletion :
    finished.complete = false ∧
      (∃ q, (∃ p, finished.pattern = some p ∧ p.xs ≤ q.col ∧ q.col ≤ p.xe ∧ p.ys ≤ q.row ∧ q.row ≤ p.ye) ∧
        (finished.cell q).state ≠ .off) ∧
      ∀ q : Pos, (finished.cell q).state ≠ .planned ∧ (finished.cell q).state ≠ .claimed ∧
        (finished.cell q).state ≠ .working :=
  ⟨by decide +kernel, ⟨cellOne, ⟨_, rfl, by decide⟩, by decide +kernel⟩, fun q =>
    (by decide +kernel : ∀ (x : Fin 8) (y : Fin 12), (finished.cell ⟨x, y⟩).state ≠ .planned ∧
      (finished.cell ⟨x, y⟩).state ≠ .claimed ∧ (finished.cell ⟨x, y⟩).state ≠ .working) q.col q.row⟩

/-- A HELD record of the first cell in the slot of boom A. -/
def recordHeld (s : State) : State :=
  lined { s with slotA := some ⟨false, ⟨.a, { holeOne.toHoleData with outcome := some .installed }⟩⟩ }

theorem test_witness_ClaimsAndHolesEndWithTheirContext :
    (claimed.boom .a).ctx = some holeOne ∧ ground.slot .a = none ∧
      (recordHeld ground).slot .a = some ⟨false, ⟨.a, { holeOne.toHoleData with outcome := some .installed }⟩⟩ ∧
      (FlowPort.mk (.held 3) [] []).view = .held 3 ∧ (FlowPort.mk .free [] []).view = .free := by
  decide +kernel

theorem test_witness_HoleEndsLeadOn :
    ((at_ .aborting (.held 0)).boom .a).ctx = some holeOne ∧ ((at_ .aborting (.held 0)).boom .a).stopPending = false ∧
      (({ boomIn .aborting (.held 0) with stopPending := true } : Boom).stopPending = true) ∧
      ((bWaits (at_ .releasing (.held 0))).boom .b).phase = .seekWait := by
  decide +kernel

/-! ### Witnesses: motions, suspension and lateness -/

/-- A hole of the class without demands. -/
def holeFree : HoleCtx := { holeOne with snap := recFree }

theorem test_witness_MotionsAskForTheirDemand :
    (let s := at_ .collaring (.held 0)
     (s.boom .a).ctx = some holeOne ∧ (s.boom .a).holds = .empty ∧ holeOne.snap.drillDemand ≠ 0 ∧
       holeOne.snap.retractDemand ≠ 0 ∧ holeOne.snap.spinDemand ≠ 0 ∧ holeOne.snap.torqueDemand ≠ 0 ∧
       ({ s.boom .a with phase := .torquing } : Boom).late = false ∧ s.reads1 (.boom .a .feedHome) = false) ∧
    ((⟨false, true, false, false⟩ : Holds) ≠ .empty) ∧
    (holeFree.snap.retractDemand = 0) ∧
    (withLine 11 fun l => { l with digital := true, term := ⟨true, false, 0⟩ }).reads1 (.boom .a .feedHome) = true := by
  decide +kernel

/-- The free hole stands at 100 mm, the base feed position of its steel still to be taken. -/
def freeAt (ph : Phase) : State :=
  withA { boomIn ph .none with base := some ⟨0, none⟩, ctx := some { holeFree with depth := 100 } } ground

theorem test_witness_MotionsAskForTheirDemand_free :
    (let s := freeAt .steelChange
     (s.boom .a).ctx = some { holeFree with depth := 100 } ∧ (s.boom .a).holds = .empty ∧ recFree.drillDemand = 0 ∧
       recFree.retractDemand = 0 ∧ recFree.spinDemand = 0 ∧ recFree.torqueDemand = 0 ∧
       ({ s.boom .a with phase := .torquing } : Boom).late = false ∧ s.reads1 (.boom .a .feedHome) = false) ∧
    (let v := moveOn .a ({ holeFree with depth := 100 }, .drill) (freeAt .decisionWait)
     (v.boom .a).phase = .drilling ∧ (v.boom .a).port.view = .free) := by
  decide +kernel


/-- A spun bolt whose gel clock stands at `g`, with W' = 400. -/
def spun (g : Nat) : HoleCtx := { holeOne with gel := some g, resin := some ⟨30, 100, 400⟩, spinElapsed := 30 }

/-- Boom A in a phase after the spin start. -/
def afterSpin (ph : Phase) (view : FlowView) (g : Nat) : State := withA { boomIn ph view with ctx := some (spun g) } ground

/-- INSERTING entered from HOLE_OPEN, with no hold reason and with one. -/
theorem test_witness_Motions_enterInserting :
    (boomIn .holeOpen .none).holds = .empty ∧
      (({ boomIn .holeOpen .none with holds := ⟨false, true, false, false⟩ } : Boom).holds ≠ .empty) ∧
      (let b := (enterInserting .a (withA { boomIn .holeOpen .none with
          waitReason := some .clearHole, magazine := [.fast, .slow] } ground)).boomA
       b.phase = .inserting ∧ b.waitReason = none ∧ b.magazine = [.slow] ∧
         (b.ctx.map fun c => c.inFlight) = some (some .fast)) := by
  decide +kernel

theorem test_witness_SuspensionAndLateness :
    ((afterSpin .spinning (.held 0) 401).boom .a).ctx = some (spun 401) ∧ (spun 401).outcome = none ∧
      (spun 401).gel = some 401 ∧ (spun 401).resin = some ⟨30, 100, 400⟩ ∧ 400 < 401 ∧
      ((afterSpin .spinning (.held 0) 401).boom .a).phase = .spinning ∧ ¬ 400 < 400 ∧
      ((afterSpin .spinning (.held 0) 400).boom .a).late = false ∧
      ((afterSpin .torquing (.held 0) 401).boom .a).late = false ∧
      ((afterSpin .torquing (.waiting 0) 401).boom .a).late = true := by
  decide +kernel

/-! ### Witnesses: requests on a boom -/

/-- The functions BOOM_START asks for (R48). -/
def startFns (x : Side) : List Fn :=
  [.stopLoop, .pumpOk, .boom x .feedUp, .boom x .feedDown, .boom x .rotation, .boom x .loader, .boom x .feedPosition,
    .boom x .rotationPressure, .boom x .deadman, .boom x .cartridgePass, .boom x .rotationPulse, .boom x .feedHome]

/-- The stop loop of the ground open, and taken by every block. -/
def loopOff (s : State) : State :=
  lined { s with lines := s.lines.set 28 { s.lines[(28 : Fin 32)] with
      digital := false, latch := true, term := { s.lines[(28 : Fin 32)].term with level := false } } }

theorem test_witness_BoomStartAndReSeekSeek :
    (ground.ready ∧ (3 : Byte) ≠ 1 ∧ (3 : Byte) ≠ 2 ∧ (ground.boom .a).phase = .idle ∧ ground.pattern ≠ none ∧
      (∀ f ∈ startFns .a, ground.bound f = true) ∧ ground.reads1 .stopLoop = true) ∧
    (State.reset.ready ∧ State.reset.pattern = none) ∧
    (unboundHome.ready ∧ unboundHome.bound (.boom .a .feedHome) = false ∧ (unboundHome.boom .a).phase = .idle ∧
      unboundHome.pattern ≠ none) ∧
    ((loopOff ground).ready ∧ (∀ f ∈ startFns .a, (loopOff ground).bound f = true) ∧
      (loopOff ground).reads1 .stopLoop = false) ∧
    ((at_ .drilling (.held 0)).ready ∧ ((at_ .drilling (.held 0)).boom .a).phase = .drilling) ∧
    (let s := lined { bWaits ground with boomB := { (bWaits ground).boomB with reseekDue := true } }
     s.settled ∧ (s.boom .b).phase = .seekWait ∧ (s.boom .b).reseekDue = true) := by
  repeat' first | with_reducible apply And.intro | with_reducible exact reset_ready | refine ready_lined ?_ | refine settled_lined ?_
  all_goals decide +kernel

theorem test_witness_BoomStopActsByState :
    ground.ready ∧ (3 : Byte) ≠ 1 ∧ (3 : Byte) ≠ 2 ∧ (bWaits ground).ready ∧ (at_ .positioning).ready ∧
      (at_ .aborting (.held 0)).ready := by
  repeat' first | with_reducible apply And.intro | with_reducible exact reset_ready | refine ready_lined ?_ | refine settled_lined ?_
  all_goals decide +kernel

theorem test_witness_AtHoleHoldAndResume :
    (at_ .positioning).ready ∧ (3 : Byte) ≠ 1 ∧ (3 : Byte) ≠ 2 ∧
      ((withEvents [.atHole] (at_ .positioning)).settled ∧
        ((withEvents [.atHole] (at_ .positioning)).boom .a).hasNext .atHole = true) ∧
      (ground.ready ∧ (ground.boom .a).phase = .idle) ∧
      ((at_ .holding).ready ∧ ((at_ .holding).boom .a).phase = .holding) ∧
      ((at_ .steelChange (.held 0)).ready ∧ ((at_ .steelChange (.held 0)).boom .a).waitReason = none) := by
  repeat' first | with_reducible apply And.intro | with_reducible exact reset_ready | refine ready_lined ?_ | refine settled_lined ?_
  all_goals decide +kernel

/-- Boom A in a phase with a wait reason. -/
def waiting (ph : Phase) (r : WaitReason) : State := withA { boomIn ph .none with waitReason := some r } ground

theorem test_witness_ProceedTakesTheBoomPastItsWait :
    ((waiting .steelChange .addSteel).ready ∧ ((waiting .steelChange .addSteel).boom .a).waitReason = some .addSteel ∧
      ((waiting .steelChange .addSteel).boom .a).ctx = some holeOne) ∧
    ((waiting .holeOpen .clearHole).ready ∧ (waiting .inserting .jam).ready ∧
      ((waiting .inserting .jam).boom .a).waitReason ≠ none ∧ (waiting .boltWait .loadBolt).ready) ∧
    (withA { Boom.powerOn with phase := .halted, started := true } ground).ready ∧ ground.ready := by
  repeat' first | with_reducible apply And.intro | with_reducible exact reset_ready | refine ready_lined ?_ | refine settled_lined ?_
  all_goals decide +kernel

theorem test_witness_DecideActsByItsChoice :
    (ground.ready ∧ (ground.boom .a).phase ≠ .decisionWait ∧ 4 < (5 : Byte).toNat ∧ (24 : Word).toNat < 25 ∧
      300 < (301 : Word).toNat ∧ 8 < (9 : Byte).toNat) ∧
    ((waiting .decisionWait .decision).ready ∧ ((waiting .decisionWait .decision).boom .a).ctx = some holeOne ∧
      holeOne.substituted = false ∧ classAt ground.classes (1 : Byte).toNat = some recOne ∧
      classAt ground.classes (2 : Byte).toNat = none ∧
      holeOne.targetDepth + (300 : Word).toNat ≤ min 3000 (holeOne.snap.steelLength * holeOne.snap.maxSteels)) ∧
    (let s := withA { boomIn .decisionWait .none with
        waitReason := some .decision, ctx := some { holeOne with targetDepth := 901, substituted := true } } ground
     s.ready ∧ (s.boom .a).phase = .decisionWait ∧ (s.boom .a).ctx = some { holeOne with targetDepth := 901, substituted := true } ∧
       min 3000 (holeOne.snap.steelLength * holeOne.snap.maxSteels) < 901 + (300 : Word).toNat) := by
  repeat' first | with_reducible apply And.intro | with_reducible exact reset_ready | refine ready_lined ?_ | refine settled_lined ?_
  all_goals decide +kernel

/-- Boom A SUSPENDED from a phase. -/
def suspendedFrom (ph : Phase) (holds : Holds) (c : HoleCtx) : State :=
  withA { boomIn .suspended .none with suspendedPhase := some ph, holds := holds, ctx := some c } ground

theorem test_witness_AbortActsByState :
    ((claimed.ready ∧ (claimed.boom .a).phase = .positioning ∧ (claimed.boom .a).ctx = some holeOne ∧
      (claimed.boom .a).stopPending = false)) ∧
    ((at_ .collaring (.held 0)).ready ∧ (at_ .boltWait).ready ∧ (afterSpin .holding .none 50).ready ∧
      (at_ .releasing (.held 0)).ready ∧ (at_ .aborting (.held 0)).ready ∧ ground.ready) ∧
    (let s := suspendedFrom .torquing ⟨false, false, true, false⟩ (spun 100)
     s.ready ∧ (s.boom .a).phase = .suspended ∧ (s.boom .a).suspendedPhase = some .torquing ∧
       (s.boom .a).ctx = some (spun 100)) := by
  repeat' first | with_reducible apply And.intro | with_reducible exact reset_ready | refine ready_lined ?_ | refine settled_lined ?_
  all_goals decide +kernel

theorem test_witness_MagazineLoadAddsBehind :
    ground.ready ∧ 1 < (2 : Byte).toNat ∧ 6 < (7 : Byte).toNat ∧ 3 < (4 : Byte).toNat ∧
      (let kinds : Vector Byte 6 := #v[1, 2, 3, 1, 2, 3]
       let ks : List CartKind := [.fast, .medium, .slow, .fast, .medium, .slow]
       ks.length = (6 : Byte).toNat ∧ (∀ i : Fin 6, ∀ k ∈ ks[i.val]?, (kinds[i]).toNat = k.code) ∧ (0 : Byte).toNat ≤ 1 ∧
         ((ground.boom .a).magazine ++ ks).length ≤ 6) ∧
      (let s := lined { ground with boomA := { ground.boomA with magazine := [.fast] } }
       s.ready ∧ 6 < ((s.boom .a).magazine ++ List.replicate 6 CartKind.fast).length) := by
  repeat' first | with_reducible apply And.intro | with_reducible exact reset_ready | refine ready_lined ?_ | refine settled_lined ?_
  all_goals decide +kernel

/-! ### Witnesses: events at a boom -/

theorem test_witness_LossesAddHoldReasonsAndRegainsRemoveThem :
    (busy.settled ∧ (busy.boom .a).hasNext (.deadman false) = true ∧ (busy.boom .a).phase = .drilling) ∧
      (let s := withEvents [.canopy false, .pump false] ground
       s.settled ∧ (s.boom .a).hasNext (.canopy false) = true ∧ (s.boom .a).hasNext (.pump false) = true ∧
         (s.boom .a).phase = .idle) ∧
      (let s := withEvents [.pump true, .canopy true] (at_ .holding)
       s.settled ∧ (s.boom .a).hasNext (.pump true) = true ∧ (s.boom .a).hasNext (.canopy true) = true ∧
         (s.boom .a).phase ≠ .idle ∧ (s.boom .a).phase ≠ .stopped) := by
  repeat' first | with_reducible apply And.intro | with_reducible exact reset_ready | refine ready_lined ?_ | refine settled_lined ?_
  all_goals decide +kernel

theorem test_witness_DeadmanPressStartsOrResumes :
    (let s := withEvents [.deadman true] claimed
     s.settled ∧ (s.boom .a).hasNext (.deadman true) = true ∧ (s.boom .a).ctx = some holeOne ∧ holeOne.atHole = true ∧
       s.canopy.state = .set ∧ s.reads1 .pumpOk = true ∧ (s.boom .a).holds.canopy = false ∧
       (s.boom .a).holds.pump = false ∧ (s.boom .a).holds.host = false) ∧
    ((withEvents [.deadman true] ground).settled ∧ ((withEvents [.deadman true] ground).boom .a).phase = .idle) ∧
    (let s := withEvents [.deadman true] (suspendedFrom .collaring ⟨false, true, false, false⟩ holeOne)
     s.settled ∧ (s.boom .a).phase = .suspended ∧ (s.boom .a).holds = ⟨false, true, false, false⟩ ∧
       (s.boom .a).suspendedPhase = some .collaring ∧ (s.boom .a).ctx = some holeOne ∧ holeOne.snap.collarDemand ≠ 0) ∧
    (let s := withEvents [.deadman true] (suspendedFrom .inserting .empty { holeOne with inFlight := some .fast })
     s.settled ∧ (s.boom .a).hasNext (.deadman true) = true ∧ (s.boom .a).suspendedPhase = some .inserting) ∧
    (let s := withEvents [.deadman true] (suspendedFrom .torquing .empty { spun 100 with snap := recFree })
     s.settled ∧ (s.boom .a).suspendedPhase = some .torquing ∧ recFree.torqueDemand = 0) := by
  repeat' first | with_reducible apply And.intro | with_reducible exact reset_ready | refine ready_lined ?_ | refine settled_lined ?_
  all_goals decide +kernel

theorem test_witness_DeadmanPress_lateAtTorquing :
    (let s := withEvents [.deadman true] (suspendedFrom .torquing .empty { spun 401 with snap := recFree })
     s.settled ∧ (s.boom .a).hasNext (.deadman true) = true ∧ (s.boom .a).phase = .suspended ∧
       (s.boom .a).suspendedPhase = some .torquing ∧
       ({ s.boom .a with phase := .torquing, suspendedPhase := none } : Boom).late = true) ∧
    ({ boomIn .torquing .none with ctx := some { spun 400 with snap := recFree } } : Boom).late = false := by
  repeat' first | with_reducible apply And.intro | with_reducible exact reset_ready | refine ready_lined ?_ | refine settled_lined ?_
  all_goals decide +kernel

/-- Boom A drills at a depth, its base feed position taken at 0. -/
def drillAt (depth : Nat) (events : List BoomEvent) : State :=
  withEvents events (withA { boomIn .drilling (.held 0) with ctx := some { holeOne with depth := depth } } ground)

theorem test_witness_FeedPositionChangeIsJudged :
    (let s := drillAt 99 [.feedPosition 100]
     s.settled ∧ (s.boom .a).hasNext (.feedPosition 100) = true ∧ (s.boom .a).phase = .drilling ∧
       (s.boom .a).base = some ⟨0, some 0⟩ ∧ (s.boom .a).ctx = some { holeOne with depth := 99 } ∧ 99 < 0 + 100 - 0) ∧
    ((drillAt 101 [.feedPosition 100]).settled ∧ 0 + 100 - 0 < 101) ∧
    ((drillAt 100 [.feedPosition 100]).settled ∧ 0 + 100 - 0 = 100) ∧
    (let s := withEvents [.feedPosition 100] ground
     s.settled ∧ (s.boom .a).hasNext (.feedPosition 100) = true ∧ (s.boom .a).phase ≠ .collaring ∧
       (s.boom .a).base = none) := by
  repeat' first | with_reducible apply And.intro | with_reducible exact reset_ready | refine ready_lined ?_ | refine settled_lined ?_
  all_goals decide +kernel

/-- The base feed position was taken at 120 and the feed has moved down: a negative reach. -/
def below : State :=
  withEvents [.feedPosition 115] (withA { boomIn .collaring (.held 0) with base := some ⟨0, some 120⟩ } ground)

theorem test_witness_FeedPositionChange_negativeReach :
    below.settled ∧ (below.boom .a).hasNext (.feedPosition 115) = true ∧ (below.boom .a).base = some ⟨0, some 120⟩ ∧
      (below.boom .a).ctx = some holeOne ∧ 0 + 115 < holeOne.depth + 120 := by
  repeat' first | with_reducible apply And.intro | with_reducible exact reset_ready | refine ready_lined ?_ | refine settled_lined ?_
  all_goals decide +kernel

theorem test_witness_FeedPositionChange_atABegin :
    ((freeAt .drilling).boom .a).base = some ⟨0, none⟩ ∧ ((drillAt 99 []).boom .a).base = some ⟨0, some 0⟩ ∧
      ((drillAt 99 []).boom .a).ctx = some { holeOne with depth := 99 } ∧ ((drillAt 99 []).boom .a).phase = .drilling := by
  decide +kernel

theorem test_witness_DepthRisesCompleteIncrementsAndLeadOn :
    (((drillAt 0 []).boom .a).ctx = some { holeOne with depth := 0 } ∧ min 24 3000 / 25 - 0 = 0 ∧ 0 < min 25 3000 / 25 - 0 ∧
      min 3010 3000 / 25 - 120 = 0) ∧
      (49 < holeOne.snap.collar ∧ holeOne.snap.collar ≤ 50 ∧ holeOne.targetDepth ≤ 600 ∧ 599 < holeOne.targetDepth) ∧
      (let c : HoleCtx := { holeOne with targetDepth := 601, depth := 600 }
       c.depth < c.targetDepth ∧ c.steelCount * c.snap.steelLength ≤ c.depth) ∧
      min (250 / (if (0 : Nat) = 0 then 1 else 0) / ground.rateStep) 15 = (15 : Fin 16).val ∧
      min (9 / ground.pressureStep) 15 = (0 : Fin 16).val ∧ holeOne.runs.length ≤ 16 ∧
      (List.replicate 15 (⟨.soft, 0, 25⟩ : StrataRun) ++ [(⟨.hard, 375, 25⟩ : StrataRun)]).length = 16 := by
  decide +kernel

theorem test_witness_AssessmentActsByTheClass :
    (let c : HoleCtx := { holeOne with depth := 600, incCount := 24, runs := [⟨.hard, 0, 500⟩, ⟨.soft, 500, 100⟩] }
     c.anchorWeakLength = 100 ∧ c.anchorWeakLength ≤ c.snap.weakLimit) ∧
    (let c : HoleCtx := { holeOne with depth := 600, incCount := 24, runs := [⟨.hard, 0, 475⟩, ⟨.soft, 475, 125⟩] }
     c.snap.weakLimit < c.anchorWeakLength ∧ c.snap.action = .extend ∧ c.extensions < 2 ∧
       c.targetDepth + c.snap.extStep ≤ min 3000 (c.snap.steelLength * c.snap.maxSteels) ∧ c.substituted = false ∧
       classAt ground.classes 1 = some recOne ∧ classAt ground.classes c.snap.fallback = none ∧ c.extensions ≤ 2) ∧
    (let c : HoleCtx := { holeOne with depth := 600, steelCount := 3 }
     c.targetDepth ≤ c.depth ∧ ¬ c.steelCount ≤ c.snap.maxSteels) := by
  decide +kernel

theorem test_witness_StallsBackOffsAndRetractions :
    (let s := withA { boomIn .drilling (.held 0) with stallTime := 10, progressTime := 100 } ground
     s.settled ∧ (s.boom .a).ctx = some holeOne ∧ holeOne.snap.stallTime ≤ (s.boom .a).stallTime ∧
       100 ≤ (s.boom .a).progressTime ∧ feeds .a s = true ∧ holeOne.stallCount < 2) ∧
    (let s := withA { boomIn .drilling (.held 0) with
        stallTime := 10, ctx := some { holeOne with stallCount := 2 } } ground
     s.settled ∧ feeds .a s = true ∧ 2 ≤ ({ holeOne with stallCount := 2 } : HoleCtx).stallCount) ∧
    (let s := withA { boomIn .drilling (.held 0) with backOff := true, backOffTime := 20 } ground
     s.settled ∧ (s.boom .a).backOff = true ∧ 20 ≤ (s.boom .a).backOffTime) ∧
    (let s := withEvents [.feedHome] (withA { boomIn .steelChange (.held 0) with retractTime := 300 } ground)
     s.settled ∧ (s.boom .a).hasNext .feedHome = true ∧ (s.boom .a).waitReason = none ∧ 300 ≤ (s.boom .a).retractTime) ∧
    (let s := withEvents [.feedHome] (withA { boomIn .releasing .free with retractTime := 300 } ground)
     s.settled ∧ (s.boom .a).phase = .releasing ∧ (s.boom .a).port.view = .free) ∧
    (withEvents [.feedHome] (at_ .retracting (.waiting 0))).settled ∧
    (let s := withEvents [.feedHome] ground
     s.settled ∧ (s.boom .a).hasNext .feedHome = true ∧ (s.boom .a).ctx = none ∧ (s.boom .a).phase = .idle) := by
  repeat' first | with_reducible apply And.intro | with_reducible exact reset_ready | refine ready_lined ?_ | refine settled_lined ?_
  all_goals decide +kernel

/-- Each time just short of its limit, or the state left. -/
theorem test_witness_Stalls_notDue :
    (let b := { boomIn .drilling (.held 0) with stallTime := 9, progressTime := 99 }
     ¬ holeOne.snap.stallTime ≤ b.stallTime ∧ ¬ 100 ≤ b.progressTime) ∧
    ¬ 20 ≤ ({ boomIn .drilling (.held 0) with backOff := true, backOffTime := 19 } : Boom).backOffTime ∧
    ¬ 300 ≤ ({ boomIn .retracting (.held 0) with retractTime := 299 } : Boom).retractTime ∧
    (boomIn .holeOpen .none).phase ≠ .retracting := by
  decide +kernel

theorem test_witness_Retractions_done :
    ∀ ph ∈ ([.steelChange, .retracting, .releasing, .aborting] : List Phase),
      ((at_ ph (.held 0)).boom .a).ctx = some holeOne ∧ ((at_ ph (.held 0)).boom .a).phase = ph := by
  decide +kernel

theorem test_witness_Retractions_abortingAwaitsFlow :
    (let s := withEvents [.feedHome] (at_ .aborting (.waiting 0))
     s.settled ∧ (s.boom .a).hasNext .feedHome = true ∧ (s.boom .a).phase = .aborting ∧ (s.boom .a).ctx = some holeOne) ∧
    (let s := withEvents [.feedHome] (at_ .releasing (.waiting 0))
     s.settled ∧ (s.boom .a).phase ≠ .aborting ∧ (s.boom .a).port.view = .waiting 0) := by
  repeat' first | with_reducible apply And.intro | with_reducible exact reset_ready | refine ready_lined ?_ | refine settled_lined ?_
  all_goals decide +kernel

/-- Boom A inserts, with this magazine. -/
def inserting (m : List CartKind) (c : HoleCtx) : State :=
  withA { boomIn .inserting .none with magazine := m, ctx := some c } ground

theorem test_witness_InsertionFollowsTheRequiredSequence :
    (({ holeOne with nextIdx := 3 } : HoleCtx).required.length ≤ 3 - 1 ∧ holeOne.required[holeOne.nextIdx - 1]? = some .fast ∧
      CartKind.slow ≠ .fast) ∧
    (let c : HoleCtx := { holeOne with inFlight := some .fast }
     let s := withEvents [.cartridgePass] (inserting [] c)
     s.settled ∧ (s.boom .a).hasNext .cartridgePass = true ∧ (s.boom .a).phase = .inserting ∧ (s.boom .a).ctx = some c) ∧
    (let s := withA { boomIn .inserting .none with
        pushTime := 50, ctx := some { holeOne with inFlight := some .fast, jamCount := 1 } } ground
     s.settled ∧ 50 ≤ (s.boom .a).pushTime ∧ ({ holeOne with jamCount := 1 } : HoleCtx).jamCount < 2) ∧
    (let s := withA { boomIn .inserting .none with
        pushTime := 50, ctx := some { holeOne with inFlight := some .fast, jamCount := 2 } } ground
     s.settled ∧ 2 ≤ ({ holeOne with jamCount := 2 } : HoleCtx).jamCount) ∧
    (let s := withEvents [.boltPresent] (at_ .boltWait)
     s.settled ∧ (s.boom .a).hasNext .boltPresent = true ∧ (s.boom .a).phase = .boltWait) ∧
    (let s := withEvents [.cartridgePass, .boltPresent] ground
     s.settled ∧ (s.boom .a).hasNext .cartridgePass = true ∧ (s.boom .a).phase ≠ .inserting ∧
       (s.boom .a).hasNext .boltPresent = true ∧ (s.boom .a).phase ≠ .boltWait) := by
  repeat' first | with_reducible apply And.intro | with_reducible exact reset_ready | refine ready_lined ?_ | refine settled_lined ?_
  all_goals decide +kernel

theorem test_witness_Insertion_notDue :
    ¬ 50 ≤ ({ boomIn .inserting .none with pushTime := 49 } : Boom).pushTime ∧ holeOne.inFlight = none ∧
      (boomIn .boltWait .none).phase ≠ .inserting := by
  decide +kernel

theorem test_witness_Spin_notDue :
    (¬ 30 ≤ ({ spun 29 with spinElapsed := 29 } : HoleCtx).spinElapsed ∧ (spun 29).resin = some ⟨30, 100, 400⟩) ∧
      (¬ 130 ≤ 129 ∧ (boomIn .torquing .none).phase ≠ .holding) ∧
      (¬ 400 < 400 ∧ (boomIn .torquing (.held 0)).port.view = .held 0) := by
  decide +kernel


theorem test_witness_SpinHoldAndTorque :
    (ground.lineOf .temperature = some ground.lines[(29 : Fin 32)] ∧
      ground.lines[(29 : Fin 32)].binding = some ⟨.temperature, .temp 20 100⟩ ∧ ground.temperature = some (-20) ∧
      State.reset.lineOf .temperature = none ∧ State.reset.temperature = none ∧ holeOne.gel = none) ∧
    (let s := afterSpin .spinning (.held 0) 30
     s.settled ∧ (s.boom .a).ctx = some (spun 30) ∧ (spun 30).gel ≠ none ∧ 30 ≤ (spun 30).spinElapsed) ∧
    (let s := withA { boomIn .holding .none with holdEnd := some 130, ctx := some (spun 130) } ground
     s.settled ∧ (s.boom .a).holdEnd = some 130 ∧ 130 ≤ 130 ∧ ({ s.boom .a with phase := .torquing } : Boom).late = false) ∧
    (let s := withA { boomIn .holding .none with holdEnd := some 401, ctx := some (spun 401) } ground
     s.settled ∧ (s.boom .a).late = true ∧ ({ s.boom .a with phase := .torquing } : Boom).late = true) ∧
    (let s := withEvents [.rotationPressure 199, .rotationPulse]
        (withA { boomIn .torquing (.held 0) with ctx := some { spun 200 with turns := 19 } } ground)
     s.settled ∧ (s.boom .a).hasNext (.rotationPressure 199) = true ∧ 199 * recOne.torqueFactor / 10 < recOne.torqueTarget ∧
       recOne.torqueTarget ≤ 200 * recOne.torqueFactor / 10 ∧ (s.boom .a).hasNext .rotationPulse = true ∧
       recOne.turnLimit ≤ 19 + 1 ∧ 18 + 1 < recOne.turnLimit) ∧
    (let s := withEvents [.rotationPressure 199, .rotationPulse] ground
     s.settled ∧ (s.boom .a).hasNext .rotationPulse = true ∧ (s.boom .a).hasNext (.rotationPressure 199) = true ∧
       (s.boom .a).ctx = none) := by
  repeat' first | with_reducible apply And.intro | with_reducible exact reset_ready | refine ready_lined ?_ | refine settled_lined ?_
  all_goals decide +kernel

/-- A hand-over of the arbiter waits at boom A. -/
def handed (m : FlowMsg) (b : Boom) : State := withA { b with port := ⟨b.port.view, [], [m]⟩ } ground

/-- A boom stopped by the stop loop before a hand-over on its way reached it. -/
theorem test_witness_HandOvers_afterAStop :
    ∀ m ∈ ([.grant 4, .takeBack 4, .refusal 4] : List FlowMsg),
      let s := handed m { Boom.powerOn with phase := .stopped }
      s.settled ∧ (s.boom .a).port.inbox = m :: [] ∧ (s.boom .a).port.view = .none ∧ (s.boom .a).ctx = none ∧
        s.arbiter.refusing = [] := by
  intro m hm
  refine ⟨settled_lined ?_, ?_⟩
  all_goals
    revert m
    decide +kernel

theorem test_witness_BoomsTakeTheArbitersHandOvers :
    (let s := handed (.grant 4) { boomIn .collaring (.waiting 4) with base := some ⟨0, none⟩ }
     s.settled ∧ (s.boom .a).ctx = some holeOne ∧ (s.boom .a).port.inbox = .grant 4 :: [] ∧
       (s.boom .a).port.view = .waiting 4 ∧ (s.boom .a).late = false ∧ (s.boom .a).base = some ⟨0, none⟩ ∧ 0 = holeOne.depth) ∧
    (let s := handed (.grant 3) (boomIn .drilling (.waiting 4))
     s.settled ∧ (s.boom .a).port.view ≠ .waiting 3) ∧
    (let s := handed (.grant 4) { boomIn .torquing (.waiting 4) with ctx := some (spun 401) }
     s.settled ∧ (s.boom .a).late = true) ∧
    (let s := handed (.takeBack 4) (boomIn .drilling (.held 4))
     s.settled ∧ (s.boom .a).port.inbox = .takeBack 4 :: [] ∧ (s.boom .a).port.view = .held 4 ∧
       holeOne.snap.drillDemand ≠ 0) ∧
    (let s := handed (.refusal 4) (boomIn .releasing (.waiting 4))
     s.settled ∧ (s.boom .a).port.inbox = .refusal 4 :: [] ∧ (s.boom .a).port.view = .waiting 4) := by
  repeat' first | with_reducible apply And.intro | with_reducible exact reset_ready | refine ready_lined ?_ | refine settled_lined ?_
  all_goals decide +kernel

theorem test_witness_HandOvers_freeReachAndRefusalTurn :
    (let s := handed (.grant 4) { boomIn .collaring (.waiting 4) with base := some ⟨0, some 120⟩ }
     s.settled ∧ (s.boom .a).late = false ∧ 0 + s.feedPos .a < holeOne.depth + 120) ∧
    (let s := lined { ordered with arbiter := { ordered.arbiter with refusing := [[(.boom .a, 4)]] } }
     s.settled ∧ (s.boom .a).ctx = some holeOne ∧ (s.boom .a).port.inbox = .refusal 4 :: [] ∧
       (s.boom .a).port.view = .waiting 4 ∧
       ∀ l ∈ s.arbiter.refusing, (.boom .a, 4) ∈ l → l.head? = some (.boom .a, 4)) := by
  repeat' first | with_reducible apply And.intro | with_reducible exact reset_ready | refine ready_lined ?_ | refine settled_lined ?_
  all_goals decide +kernel

theorem test_witness_StopLoopOpeningStopsABoom :
    (withEvents [.stopLoop] claimed).settled ∧ ((withEvents [.stopLoop] claimed).boom .a).hasNext .stopLoop = true ∧
      ((withEvents [.stopLoop] claimed).boom .a).ctx = some holeOne ∧ (withEvents [.stopLoop] ground).settled ∧
      (withEvents [.stopLoop] (withA { Boom.powerOn with phase := .halted } ground)).settled ∧
      (withEvents [.stopLoop] (at_ .suspended)).settled := by
  repeat' first | with_reducible apply And.intro | with_reducible exact reset_ready | refine ready_lined ?_ | refine settled_lined ?_
  all_goals decide +kernel

/-! ### Witnesses: the arbiter, the canopy, records -/

/-- An entry of a consumer. -/
def entry (k : Consumer) (d : Nat) (m : Motion) (n : Nat) : FlowEntry := ⟨k, d, m, n, n⟩

/-- Two grants of 100 and 20 units stand, and a request of the canopy for one more waits. -/
def atBudget : State :=
  lined { ground with
    arbiter := { ground.arbiter with
      grants := [entry (.boom .a) 100 .drill 0, entry (.boom .b) 20 .retract 1], queue := [entry .canopy 1 .raise 2]
      events := [false, true] }
    boomA := { ground.boomA with port := ⟨.held 0, [.release 0, .request 121 .drill 3], []⟩ } }

theorem test_witness_ArbiterGrantsInOrderWithinTheBudget :
    (let q := [entry .canopy 1 .raise 0, entry (.boom .b) 2 .torque 1] ++ [entry (.boom .b) 3 .drill 2]
     (∀ y ∈ [entry .canopy 1 .raise 0, entry (.boom .b) 2 .torque 1], Motion.tier y.motion ≤ Motion.tier .torque) ∧
       (∀ y ∈ [entry (.boom .b) 3 .drill 2], Motion.tier .torque < Motion.tier y.motion) ∧
       (joinQueue (entry (.boom .a) 4 .torque 3) q).map (·.demand) = [1, 2, 4, 3]) ∧
    (atBudget.settled ∧ atBudget.arbiter.view = .ok ∧ atBudget.arbiter.budget = 120 ∧
      atBudget.arbiter.budget < 120 + 1 ∧ atBudget.arbiter.queue = entry .canopy 1 .raise 2 :: [] ∧
      ¬ 121 < 119 + 1 ∧ State.reset.arbiter.view = .low) ∧
    (atBudget.port (.boom .a)).outbox = [.release 0] ++ .request 121 .drill 3 :: [] ∧
    (atBudget.port (.boom .a)).outbox = .release 0 :: [.request 121 .drill 3] ∧
    (atBudget.arbiter.events = false :: [true] ∧ ({ atBudget.arbiter with events := [true] } : Arbiter).events = true :: []) ∧
    (atBudget.ready ∧ 200 < (201 : Byte).toNat ∧ (119 : Byte).toNat < 120 ∧ 120 ≤ (120 : Byte).toNat ∧
      (200 : Byte).toNat ≤ 200) := by
  repeat' first | with_reducible apply And.intro | with_reducible exact reset_ready | refine ready_lined ?_ | refine settled_lined ?_
  all_goals decide +kernel

/-- A request of 120 units and, behind it, one of 119 wait while 100 units are granted. -/
def overBudget : State :=
  lined { ground with arbiter := { ground.arbiter with
    grants := [entry (.boom .a) 100 .drill 0], queue := [entry .canopy 120 .raise 1, entry (.boom .b) 119 .drill 2] } }

theorem test_witness_Arbiter_refusesInQueueOrder :
    overBudget.ready ∧ (100 : Byte).toNat ≤ 200 ∧ (overBudget.arbiter.grants.map (·.demand)).sum ≤ (100 : Byte).toNat ∧
      (100 : Byte).toNat ≠ overBudget.arbiter.budget ∧
      (overBudget.arbiter.queue.filter fun e => 100 < e.demand) = overBudget.arbiter.queue ∧
      (overBudget.arbiter.queue.filter fun e => 119 < e.demand) = [entry .canopy 120 .raise 1] := by
  repeat' first | with_reducible apply And.intro | with_reducible exact reset_ready | refine ready_lined ?_ | refine settled_lined ?_
  all_goals decide +kernel

/-- The canopy in a state, with all timers at a value. -/
def canopyAt (st : CanopyState) (n : Nat) : State :=
  lined { ground with canopy :=
    { ground.canopy with state := st, settleTime := n, lossTime := n, raiseTime := n, lowerTime := n } }

/-- A RAISING canopy with a hand-over of the arbiter. -/
def canopyHanded (v : FlowView) (m : FlowMsg) : State :=
  lined { ground with canopy := { ground.canopy with state := .raising, port := ⟨v, [], [m]⟩ } }

theorem test_witness_CanopyFollowsItsTransitions :
    ((canopyAt .lowered 0).ready ∧ (1 : Byte).toNat = 1 ∧ 200 < (201 : Byte).toNat ∧
      (canopyAt .lowered 0).bound .canopyUp = true ∧ (canopyAt .lowered 0).bound .canopyPressure = true ∧
      (canopyAt .lowered 0).reads1 .stopLoop = true) ∧
    (State.reset.ready ∧ State.reset.bound .canopyUp = false ∧ State.reset.bound .canopyDown = false) ∧
    (ground.ready ∧ ground.canopy.state = .set ∧ ground.bound .canopyDown = true ∧
      ∀ (x : Fin 8) (y : Fin 12), (ground.cell ⟨x, y⟩).state ≠ .working) ∧
    ((at_ .drilling (.held 0)).cell cellOne).state = .working ∧
    (let s := lined { ground with canopy := { ground.canopy with events := [.stopLoop, .pressure true] } }
     s.settled ∧ nextPressure s = some true ∧ .stopLoop ∈ s.canopy.events) ∧
    ((canopyAt .unknown 10).settled ∧ (canopyAt .unknown 10).bound .canopyPressure = true ∧ (canopyAt .raising 150).settled ∧
      150 ≤ (canopyAt .raising 150).canopy.raiseTime) ∧
    ((canopyAt .set 5).settled ∧ (canopyAt .lowering 30).settled ∧ 30 ≤ (canopyAt .lowering 30).canopy.lowerTime) ∧
    ((canopyHanded (.waiting 2) (.grant 2)).settled ∧
      (canopyHanded (.waiting 2) (.grant 2)).canopy.port.inbox = .grant 2 :: []) ∧
    ((canopyHanded (.held 2) (.takeBack 2)).settled ∧ (canopyHanded (.waiting 2) (.refusal 2)).settled) := by
  repeat' first | with_reducible apply And.intro | with_reducible exact reset_ready | refine ready_lined ?_ | refine settled_lined ?_
  all_goals decide +kernel

theorem test_witness_Canopy_notDue :
    ¬ 10 ≤ (canopyAt .unknown 9).canopy.settleTime ∧ ¬ 10 ≤ (canopyAt .raising 9).canopy.settleTime ∧
      ¬ 150 ≤ (canopyAt .raising 149).canopy.raiseTime ∧ ¬ 5 ≤ (canopyAt .set 4).canopy.lossTime ∧
      ¬ 30 ≤ (canopyAt .lowering 29).canopy.lowerTime ∧ (canopyAt .lowered 150).canopy.state ≠ .raising := by
  decide +kernel

theorem test_witness_Canopy_earlierRaise :
    (let s := canopyHanded (.waiting 2) (.takeBack 1)
     s.settled ∧ s.canopy.state = .raising ∧ ¬ (s.canopy.port.view = .held 1 ∨ s.canopy.port.view = .waiting 1)) ∧
    (ordered.settled ∧ ordered.canopy.state = .raising ∧ ordered.canopy.port.view = .waiting 1) := by
  repeat' first | with_reducible apply And.intro | with_reducible exact reset_ready | refine ready_lined ?_ | refine settled_lined ?_
  all_goals decide +kernel

theorem test_witness_RecordFetchReturnsTheRecord :
    (ground.ready ∧ (3 : Byte) ≠ 1 ∧ (3 : Byte) ≠ 2 ∧ ground.slot .a = none) ∧
      ((recordHeld ground).ready ∧
        (recordHeld ground).slot .a = some ⟨false, ⟨.a, { holeOne.toHoleData with outcome := some .installed }⟩⟩) := by
  repeat' first | with_reducible apply And.intro | with_reducible exact reset_ready | refine ready_lined ?_ | refine settled_lined ?_
  all_goals decide +kernel

theorem test_witness_RecordReleaseEmptiesTheSlot :
    (ground.ready ∧ 8 < (9 : Byte).toNat ∧ 12 < (13 : Byte).toNat ∧ ground.slot .b = none ∧
      (1 : Byte).toNat = cellOne.col.val + 1 ∧ (2 : Byte).toNat = cellThree.row.val + 1) ∧
      (recordHeld ground).ready ∧
      ∀ y ∈ (recordHeld ground).slot .a, y.record.data.pos = cellOne ∧ y.record.data.pos ≠ cellThree := by
  repeat' first | with_reducible apply And.intro | with_reducible exact reset_ready | refine ready_lined ?_ | refine settled_lined ?_
  all_goals decide +kernel

/-! ### Commands -/

/-- What a command leaves, or the state before it where it stops. -/
def after (i : Instr) (s : State) : State :=
  match exec i s with
  | .next t => t
  | _ => s

theorem test_status_after_reset :
    (after (.status 7) State.reset).link.reply =
      some ⟨0x81, 7, [0, 0, 2, 0, 1, 0, 0, 0, 1, 0, 0, 0, 1, 1, 2, 3, 0, 1, 1]⟩ := by
  decide +kernel

/-- The bytes of section 10.6, written out: a boom that awaits its flow in DRILLING, up to its hole context. -/
theorem test_bytes_of_a_boom :
    (boomBytes .a { boomIn .drilling (.waiting 2) with
        base := some ⟨70000, some 260⟩, magazine := [.fast, .slow], holds := ⟨false, true, false, true⟩
        ctx := some { holeOne with inFlight := some .slow, spinElapsed := 258 } }).take 24 =
      [5, 0, 0x15, 0, 1, 1, 10, 2, 1, 3, 0, 0, 0, 0, 0xFF, 0xFF, 1, 4, 5, 0, 0, 1, 2, 3] := by
  decide +kernel

/-- The bytes of section 10.6, written out: a hole record with its resin times, a fault and one run. -/
theorem test_bytes_of_a_hole_record :
    holeBytes .b { holeOne.toHoleData with
        outcome := some .installed, fault := some .jamLimit, depth := 600, incCount := 24, inserted := [.fast, .slow]
        jamCount := 3, resin := some ⟨30, 100, 400⟩, gel := some 258, torque := 515, turns := 7, suspensions := 70000
        runs := [⟨.soft, 25, 300⟩] } =
      [2, 1, 1, 16, 9, 34, 1, 1, 0] ++
      [2, 88, 0, 50, 2, 88, 2, 1, 44, 0, 100, 2, 0, 100, 2, 2, 1, 3, 0, 0, 30, 0, 100, 1, 144, 0, 200, 10, 20, 150, 10,
        40, 60, 30, 50, 20, 9, 8, 12, 5, 10, 6, 11, 7] ++
      [2, 88, 2, 88, 1, 24, 0, 0, 0, 0, 1, 2, 1, 3, 0, 0, 3, 0, 30, 0, 100, 1, 144, 1, 2, 0, 0, 2, 3, 7, 0xFF, 0xFF, 1] ++
      [3, 1, 1, 44] := by
  decide +kernel

theorem test_the_start_notice_is_sent :
    uplinkFrame State.reset = some ⟨0xC0, 0, [1, 0, 0, 0, 0]⟩ ∧
      (after .frameSent State.reset).link.tx = .idle ∧ noticeBody ⟨.halt .b, some .b, some ⟨7, 11⟩, 36⟩ = [9, 2, 8, 12, 36] := by
  decide +kernel

theorem test_POWER_ON_sends_the_start_notice :
    uplinkFrame (after .powerOn busy) = some ⟨0xC0, 0, [1, 0, 0, 0, 0]⟩ ∧
      ((after .powerOn busy).flag .start).pending = none := by
  decide +kernel

theorem test_a_bound_output_latches_its_edge_and_sets_LINES :
    let s := after (.deadmanRelease .a) { busy with
      lines := busy.lines.set 0 { busy.lines[(0 : Fin 32)] with sense := .falling, mask := true, latch := false } }
    s.lines[(0 : Fin 32)].latch = true ∧ (s.flag .lines).set = true ∧ s.link.tx = .notice ⟨.lines, none, none, 0⟩ := by
  decide +kernel

theorem test_a_boom_claims_and_collars :
    let s := after (.boomStart 1 1) ground
    s.link.reply = some ⟨0xA0, 1, [0, 3, 1, 1]⟩ ∧ (s.cell cellOne).state = .claimed ∧ s.boomA.ctx = some (newContext cellOne 1 recOne) ∧
      (let t := after (.deadmanPress .a) (withEvents [.deadman true] (after (.atHole 2 1) { s with link := ground.link }))
       (t.cell cellOne).state = .working ∧ t.boomA.phase = .collaring ∧ t.boomA.port.outbox = [.request 40 .collar 0]) := by
  decide +kernel

theorem test_a_grant_drives_the_outputs :
    let s := after (.boomGrantTaken .a) (handed (.grant 4) { boomIn .collaring (.waiting 4) with base := some ⟨0, none⟩ })
    s.lines[(0 : Fin 32)].outValue = 9 ∧ s.lines[(1 : Fin 32)].outValue = 0 ∧ s.lines[(2 : Fin 32)].outValue = 12 ∧
      s.lines[(0 : Fin 32)].digital = true ∧ s.boomA.base = some ⟨0, some 0⟩ := by
  decide +kernel

theorem test_a_deadman_release_suspends :
    let s := after (.deadmanRelease .a) busy
    s.boomA.phase = .suspended ∧ s.boomA.suspendedPhase = some .drilling ∧ s.boomA.port = ⟨.none, [.release 0], []⟩ ∧
      s.lines[(0 : Fin 32)].digital = false ∧ s.boomA.ctx.map (·.suspensions) = some 1 := by
  decide +kernel

theorem test_a_depth_rise_completes_increments :
    let s := after (.feedPositionChange .a) (drillAt 20 [.feedPosition 60])
    s.boomA.ctx.map (fun c => (c.depth, c.incCount, c.runs)) = some (60, 2, [⟨.unset, 0, 50⟩]) := by
  decide +kernel

theorem test_the_target_pressure_installs_the_bolt :
    let s := after (.rotationPressureChange .a)
      (withEvents [.rotationPressure 200] (withA { boomIn .torquing (.held 0) with ctx := some (spun 200) } ground))
    s.boomA.phase = .releasing ∧ s.boomA.ctx.map (fun c => (c.torque, c.outcome)) = some (200, some .installed) := by
  decide +kernel

theorem test_the_stop_loop_stops_a_hole :
    let s := after (.boomStopLoopOpen .a) (withEvents [.stopLoop] (at_ .drilling (.held 0)))
    s.boomA.phase = .stopped ∧ (s.cell cellOne).state = .failed ∧ s.tally.stopped = 1 ∧ (s.slot .a).isSome = true ∧
      (s.flag (.halt .a)).set = true := by
  decide +kernel

theorem test_a_pump_fall_takes_everything_back :
    let s := after .pumpFall atBudget
    s.arbiter.view = .low ∧ s.arbiter.grants = [] ∧ s.arbiter.queue = [] ∧ s.boomA.port.inbox = [.takeBack 0] ∧
      s.boomB.port.inbox = [.takeBack 1] ∧ s.canopy.port.inbox = [.takeBack 2] ∧ s.link.tx = .notice ⟨.pump, none, none, 0⟩ := by
  decide +kernel

theorem test_refusals_of_a_PUMP_SET_reach_their_consumers_in_queue_order :
    after (.boomFlowRefusal .a) ordered = ordered ∧
      (let s := after .canopyFlowRefusal ordered
       s.canopy.state = .lowered ∧ s.arbiter.refusing = [[(.boom .a, 4)]] ∧
         (let t := after (.boomFlowRefusal .a) s
          t.boomA.phase = .aborting ∧ t.arbiter.refusing = [])) ∧
      (after (.pumpSet 1 100) overBudget).arbiter.refusing = [[(.canopy, 1), (.boom .b, 2)]] := by
  decide +kernel

theorem test_a_negative_reach_is_not_at_the_face :
    feeds .a below = false ∧ (after (.feedPositionChange .a) below).boomA.ctx = some holeOne ∧
      (match step { below with boomA := { below.boomA with events := [] } } with
        | .next t => t.boomA.phaseTime
        | _ => 1) = 0 := by
  decide +kernel

theorem test_the_increments_stop_at_3000 :
    let s := after (.feedPositionChange .a) (withEvents [.feedPosition 1023] (withA { boomIn .drilling (.held 0) with
      base := some ⟨2400, some 0⟩
      ctx := some { holeOne with depth := 2990, incCount := 119, targetDepth := 3500, steelCount := 9 } } ground))
    s.boomA.ctx.map (fun c => (c.depth, c.incCount)) = some (3423, 120) := by
  decide +kernel

theorem test_feed_home_ends_ABORTING_before_its_grant :
    (after (.feedHomeRise .a) (withEvents [.feedHome] (at_ .aborting (.waiting 0)))).boomA.phase = .halted ∧
      (after (.feedHomeRise .a) (withEvents [.feedHome] (at_ .releasing (.waiting 0)))).boomA.phase = .releasing := by
  decide +kernel

theorem test_a_press_past_the_deadline_does_not_torque :
    let press (g : Nat) := after (.deadmanPress .a)
      (withEvents [.deadman true] (suspendedFrom .torquing ⟨false, true, false, false⟩ { spun g with snap := recFree }))
    ((press 401).boomA.phase = .releasing ∧
      (press 401).boomA.ctx.map (fun c => (c.outcome, c.fault)) = some (some .untensioned, some .tensionLate)) ∧
    ((press 400).boomA.phase = .torquing ∧ (press 400).boomA.ctx.map (·.tensionOffset) = some (some 400)) := by
  decide +kernel

theorem test_a_feed_moved_up_in_a_wait_is_judged_at_the_entry :
    let s := waiting .decisionWait .decision
    let moved := lined { s with
      boomA := { s.boomA with ctx := some { holeFree with depth := 600, incCount := 24, steelCount := 2 } }
      lines := s.lines.set 4 { s.lines[(4 : Fin 32)] with analog := 650, term := ⟨false, false, 650⟩ } }
    let t := after (.decide 1 1 2 100 0) moved
    t.boomA.phase = .drilling ∧ t.boomA.port.view = .free ∧
      t.boomA.ctx.map (fun c => (c.targetDepth, c.depth, c.incCount)) = some (700, 650, 26) := by
  decide +kernel

theorem test_unbinding_canopy_pressure_starts_the_adoption_anew :
    (after (.lineBind 1 27 0 0 0 0) adopting).canopy.settleTime = 0 ∧
      (after (.lineBind 1 27 0 0 0 0) adopting).canopy.events = [.stopLoop] := by
  decide +kernel

theorem test_CLEAR_sets_LINES_again :
    let s := after (.clear 1 0x2000) { latched with flags := (latched.setFlagRec .lines
      { latched.flag .lines with pending := none }).flags }
    (s.flag .lines).set = true ∧ (s.flag .lines).pending = some ⟨.lines, none, none, 0⟩ := by
  decide +kernel

theorem test_RESTART_evaluates_the_condition_senses_anew :
    let s := after .frameSent restartingLow
    s.lines[(31 : Fin 32)].latch = true ∧ (s.flag .lines).set = true ∧
      (s.flag .lines).pending = some ⟨.lines, none, none, 0⟩ ∧ s.link.tx = .notice ⟨.start, none, none, 0⟩ := by
  decide +kernel

theorem test_a_queued_request_takes_effect :
    (after .frameSent (behind [⟨0x30, 2, [100]⟩])).arbiter.budget = 100 ∧
      (after .frameSent (behind [⟨0x30, 2, [100]⟩])).link.reply = some ⟨0xB0, 2, [0, 100, 0, 0]⟩ := by
  decide +kernel


theorem test_a_frame_byte_by_byte :
    (match takeBytes (frameBytes ⟨0x13, 5, [15]⟩) ground with
      | .next t => t.link.reply
      | _ => none) = some ⟨0x93, 5, [0, 15, 0, 0, 0, 0, 0, 0, 0, 0, 0, 0, 0, 0, 0, 0, 0, 0, 5, 10]⟩ := by
  decide +kernel

theorem test_an_idle_tenth_runs_the_canopy :
    (match step (canopyAt .lowering 29) with
      | .next t => t.canopy.state
      | _ => .unknown) = .lowering ∧
    (match step (canopyAt .lowering 30) with
      | .next t => t.canopy.state
      | _ => .unknown) = .lowered := by
  decide +kernel

end Sys2Proof.Machine.Tests
end

section
/-! SUPPORT. Boom soundness and grid agreement: what they speak of, and which updates leave them. -/

namespace Sys2Proof.Machine

/-! ### What soundness and the grid speak of -/

/-- The fields of a boom that `Boom.sound` and `State.gridSound` read. -/
def Boom.gist (b : Boom) :
    List CartKind × Phase × Option Phase × Option WaitReason × Holds × FlowView × Option HoleCtx :=
  (b.magazine, b.phase, b.suspendedPhase, b.waitReason, b.holds, b.port.view, b.ctx)

/-- The cells and the booms' gists. -/
def State.gist (s : State) := (s.cells, s.boomA.gist, s.boomB.gist)

/-- Where a boom's hole context stands, and whether as a claim. -/
def Boom.stand (b : Boom) : Option (Pos × Bool) := b.ctx.map fun c => (c.pos, b.phase == .positioning)

theorem Boom.sound_of_gist {a b : Boom} (h : b.gist = a.gist) (ha : a.sound) : b.sound := by
  simp only [Boom.gist, Prod.mk.injEq] at h
  obtain ⟨hm, hp, hs, hw, hh, hv, hc⟩ := h
  simpa only [Boom.sound, Boom.heldPhase, hm, hp, hs, hw, hh, hv, hc] using ha

theorem Boom.stand_of_gist {a b : Boom} (h : b.gist = a.gist) : b.stand = a.stand := by
  simp only [Boom.gist, Prod.mk.injEq] at h
  obtain ⟨_, hp, _, _, _, _, hc⟩ := h
  simp only [Boom.stand, hp, hc]

theorem boom_gist {s t : State} (h : t.gist = s.gist) (x : Side) : (t.boom x).gist = (s.boom x).gist := by
  simp only [State.gist, Prod.mk.injEq] at h
  cases x
  · exact h.2.1
  · exact h.2.2

theorem cell_gist {s t : State} (h : t.gist = s.gist) (q : Pos) : t.cell q = s.cell q := by
  simp only [State.gist, Prod.mk.injEq] at h
  simp only [State.cell, h.1]

/-- A boom whose gist stays leaves the state's gist. -/
theorem gist_setBoom {s : State} {x : Side} {b : Boom} (h : b.gist = (s.boom x).gist) : (s.setBoom x b).gist = s.gist := by
  cases x <;> simpa [State.gist, State.setBoom, State.boom] using h

/-! ### The grid, by where the contexts stand -/

theorem gridSound_iff (s : State) :
    s.gridSound ↔ ∀ q : Pos,
      ((s.cell q).state = .claimed ∨ (s.cell q).state = .working →
        ∃ x p, (s.cell q).boom = some x ∧ (s.boom x).stand = some (q, p)) ∧
      ∀ x p, (s.boom x).stand = some (q, p) →
        (s.cell q).boom = some x ∧ (s.cell q).state = if p then .claimed else .working := by
  unfold State.gridSound
  refine forall_congr' fun q => and_congr (imp_congr_right fun _ => ?_) (forall_congr' fun x => ?_)
  · simp [Boom.stand]
  · simp only [Boom.stand, Option.map_eq_some_iff, Prod.mk.injEq]
    constructor
    · rintro h p ⟨c, hc, hq, rfl⟩
      simpa using h c hc hq
    · intro h c hc hq
      simpa using h _ ⟨c, hc, hq, rfl⟩

/-- The grid stays in agreement where cells keep state and boom, and contexts stay where they stand. -/
theorem gridSound_congr {s t : State} (hc : ∀ q, (t.cell q).state = (s.cell q).state ∧ (t.cell q).boom = (s.cell q).boom)
    (hb : ∀ x, (t.boom x).stand = (s.boom x).stand) (h : s.gridSound) : t.gridSound := by
  rw [gridSound_iff] at h ⊢
  intro q
  rw [(hc q).1, (hc q).2]
  simpa only [hb] using h q

/-- One cell and the boom that stands on it, before and after, change together. -/
theorem gridSound_at {s t : State} {q : Pos} {x : Side} (h : s.gridSound) 
    (hcells : ∀ r, r ≠ q → (t.cell r).state = (s.cell r).state ∧ (t.cell r).boom = (s.cell r).boom)
    (hother : (t.boom x.other).stand = (s.boom x.other).stand)
    (hfree : ∀ p, (s.boom x.other).stand ≠ some (q, p))
    (hold : ∀ r p, (s.boom x).stand = some (r, p) → r = q)
    (hnew : match (t.boom x).stand with
      | none => (t.cell q).state ≠ .claimed ∧ (t.cell q).state ≠ .working
      | some (r, p) => r = q ∧ (t.cell q).boom = some x ∧ (t.cell q).state = if p then .claimed else .working) :
    t.gridSound := by
  rw [gridSound_iff] at h ⊢
  have side : ∀ y : Side, y = x ∨ y = x.other := by intro y; cases x <;> cases y <;> simp [Side.other]
  intro r
  obtain ⟨h1, h2⟩ := h r
  by_cases hr : r = q
  · subst hr
    rcases hs : (t.boom x).stand with _ | ⟨r', p'⟩ <;> rw [hs] at hnew
    · refine ⟨fun hk => (hk.elim hnew.1 hnew.2).elim, fun y p hy => ?_⟩
      rcases side y with rfl | rfl
      · simp [hs] at hy
      · exact absurd (hother ▸ hy) (hfree p)
    · obtain ⟨rfl, hb, hst⟩ := hnew
      refine ⟨fun _ => ⟨x, p', hb, hs⟩, fun y p hy => ?_⟩
      rcases side y with rfl | rfl
      · rw [hs] at hy
        cases hy
        exact ⟨hb, hst⟩
      · exact absurd (hother ▸ hy) (hfree p)
  · rw [(hcells r hr).1, (hcells r hr).2]
    have hx : ∀ p, (t.boom x).stand ≠ some (r, p) := by
      intro p hp
      rw [hp] at hnew
      exact hr hnew.1
    refine ⟨fun hk => ?_, fun y p hy => ?_⟩
    · obtain ⟨y, p, hb, hy⟩ := h1 hk
      rcases side y with rfl | rfl
      · exact absurd (hold _ _ hy) hr
      · exact ⟨_, p, hb, hother ▸ hy⟩
    · rcases side y with rfl | rfl
      · exact absurd hy (hx p)
      · exact h2 _ p (hother ▸ hy)

/-- No other boom stands on the cell a boom stands on. -/
theorem gridSound_other_free {s : State} (h : s.gridSound) {x : Side} {q : Pos} {p : Bool}
    (hx : (s.boom x).stand = some (q, p)) (p' : Bool) : (s.boom x.other).stand ≠ some (q, p') := by
  rw [gridSound_iff] at h
  intro hy
  have h1 := ((h q).2 _ _ hx).1
  have h2 := ((h q).2 _ _ hy).1
  rw [h1] at h2
  exact ne_other x (Option.some.inj h2)

/-- No boom stands on a cell that is neither CLAIMED nor WORKING. -/
theorem gridSound_free {s : State} (h : s.gridSound) {q : Pos} (h1 : (s.cell q).state ≠ .claimed)
    (h2 : (s.cell q).state ≠ .working) (y : Side) (p : Bool) : (s.boom y).stand ≠ some (q, p) := by
  rw [gridSound_iff] at h
  intro hy
  have := ((h q).2 _ _ hy).2
  cases p <;> simp_all

/-! ### A boom's part and the grid through an event -/

/-- While boom `x` acts: it meets `P`, the other boom is sound, and, where the grid is followed too (`g`), the grid agrees. -/
structure During (g : Prop) (x : Side) (P : Boom → Prop) (s : State) : Prop where
  own : P (s.boom x)
  other : (s.boom x.other).sound
  grid : g → s.gridSound

/-- Both booms sound and, where it is followed, the grid in agreement. -/
def Kept (g : Prop) (s : State) : Prop := (∀ x, (s.boom x).sound) ∧ (g → s.gridSound)

variable {g : Prop} {x : Side} {s t : State} {P Q : Boom → Prop}

theorem kept_iff (x : Side) : Kept g s ↔ During g x Boom.sound s :=
  ⟨fun h => ⟨h.1 x, h.1 _, h.2⟩, fun h => ⟨fun y => by
    have : y = x ∨ y = x.other := by cases x <;> cases y <;> simp [Side.other]
    rcases this with rfl | rfl
    · exact h.own
    · exact h.other, h.grid⟩⟩

theorem Kept.of_gist (h : Kept g s) (hg : t.gist = s.gist) : Kept g t :=
  ⟨fun y => Boom.sound_of_gist (boom_gist hg y) (h.1 y), fun k => gridSound_congr
    (fun q => by rw [cell_gist hg q]; exact ⟨rfl, rfl⟩) (fun y => Boom.stand_of_gist (boom_gist hg y)) (h.2 k)⟩

/-- What changes neither boom nor cell. -/
theorem During.same (h : During g x P s) (ha : t.boomA = s.boomA) (hb : t.boomB = s.boomB) (hc : t.cells = s.cells) :
    During g x P t := by
  have hboom := boom_congr ha hb
  refine ⟨by rw [hboom]; exact h.own, by rw [hboom]; exact h.other, fun k => gridSound_congr (fun q => ?_) (fun y => ?_)
    (h.grid k)⟩
  · simp only [State.cell, hc, and_self]
  · rw [hboom]

/-- Boom `x` changes and its context, if any, stands where it stood. -/
theorem During.setBoom (h : During g x P s) {b : Boom} (hq : Q b)
    (hc : b.ctx.map (fun c => c.pos) = (s.boom x).ctx.map (fun c => c.pos))
    (hp : b.phase = .positioning ↔ (s.boom x).phase = .positioning) : During g x Q (s.setBoom x b) := by
  refine ⟨by rwa [setBoom_boom], by rw [setBoom_other]; exact h.other, fun k => gridSound_congr (fun q => ?_) (fun y => ?_)
    (h.grid k)⟩
  · simp
  · by_cases hy : y = x
    · subst hy
      rw [setBoom_boom]
      have he : (b.phase == .positioning) = ((s.boom y).phase == .positioning) := by
        rw [Bool.eq_iff_iff]
        simpa using hp
      unfold Boom.stand
      rw [he]
      have := congrArg (Option.map fun p => (p, (s.boom y).phase == .positioning)) hc
      simpa [Function.comp_def] using this
    · rw [setBoom_boom_ne s b hy]

theorem During.imp (h : During g x P s) (hq : P (s.boom x) → Q (s.boom x)) : During g x Q s := ⟨hq h.own, h.other, h.grid⟩

end Sys2Proof.Machine
end

section
/-! SUPPORT. Every operation of a boom keeps both booms sound and the grid in agreement. -/

namespace Sys2Proof.Machine

variable {g : Prop} {x : Side} {s t : State} {P Q : Boom → Prop}

/-! ### A boom between two of its states -/

/-- Without a hole: no context, no flow, no suspended phase. -/
structure Boom.Quit (b : Boom) : Prop where
  magazine : b.magazine.length ≤ 6
  ctx : b.ctx = none
  suspendedPhase : b.suspendedPhase = none
  view : b.port.view = .none

/-- In a hole past its claim, whatever its phase is about to become. -/
structure Boom.InWork (b : Boom) : Prop where
  magazine : b.magazine.length ≤ 6
  phase : b.phase ≠ .positioning
  ctx : ∃ c, b.ctx = some c ∧ c.runsSound

/-- In a hole, its last motion left and its next phase to come. -/
structure Boom.Entering (b : Boom) : Prop extends b.InWork where
  suspendedPhase : b.suspendedPhase = none
  view : b.port.view = .none

theorem drop_view (p : FlowPort) : p.drop.view = .none := by
  unfold FlowPort.drop
  split <;> rfl

theorem Holds.any_eq_false {h : Holds} (hn : h.any = false) : h = .empty := by
  rcases h with ⟨a, b, c, d⟩
  simpa [Holds.any, Holds.empty, and_assoc] using hn

theorem Boom.isHeld_of_heldPhase {b : Boom} (h : b.heldPhase = true) : b.phase.isHeld = true := by
  unfold Boom.heldPhase at h
  unfold Phase.isHeld
  split at h <;> simp_all

theorem Boom.sound.quit {b : Boom} (h : b.sound) (hp : b.phase.hasContext = false) : b.Quit := by
  obtain ⟨hm, _, hc, hs, _, _, hv, _⟩ := h
  refine ⟨hm, by simpa [hp] using hc, ?_, ?_⟩
  · by_contra hk
    obtain ⟨p, hk⟩ := Option.ne_none_iff_exists'.mp hk
    rw [(hs p hk).1] at hp
    simp [Phase.hasContext] at hp
  · by_contra hk
    have := hv hk
    revert hp this
    cases b.phase <;> simp [Phase.hasContext, Phase.usesFlow]

theorem Boom.sound.inWork {b : Boom} (h : b.sound) (hc : b.ctx ≠ none) (hp : b.phase ≠ .positioning) : b.InWork := by
  obtain ⟨c, hc⟩ := Option.ne_none_iff_exists'.mp hc
  exact ⟨h.1, hp, c, hc, h.2.2.2.2.2.2.2 c hc⟩

/-- The context a state of a hole holds. -/
theorem Boom.sound.ctx_ne {b : Boom} (h : b.sound) (hp : b.phase.hasContext = true) : b.ctx ≠ none := by
  obtain ⟨_, _, hc, _⟩ := h
  intro hn
  simp [hn, hp] at hc

theorem Boom.sound.noSuspendedPhase {b : Boom} (h : b.sound) (hp : b.phase ≠ .suspended) : b.suspendedPhase = none := by
  obtain ⟨_, _, _, hs, _⟩ := h
  by_contra hk
  obtain ⟨p, hk⟩ := Option.ne_none_iff_exists'.mp hk
  exact hp (hs p hk).1

theorem Boom.sound.noFlow {b : Boom} (h : b.sound) (hp : b.phase.usesFlow = false) : b.port.view = .none := by
  obtain ⟨_, _, _, _, _, _, hv, _⟩ := h
  by_contra hk
  simp [hp] at hv
  exact hk hv

/-- A boom without a hole is sound in IDLE, SEEK_WAIT, HALTED and STOPPED. -/
theorem Boom.Quit.sound {b : Boom} (h : b.Quit) (hp : b.phase.hasContext = false) : b.sound := by
  have hne : b.phase ≠ .assessing ∧ b.phase ≠ .suspended ∧ b.heldPhase = false := by
    unfold Boom.heldPhase
    revert hp
    cases b.phase <;> simp [Phase.hasContext]
  refine ⟨h.magazine, hne.1, by simp [h.ctx, hp], by simp [h.suspendedPhase], fun k => absurd k hne.2.1,
    by simp [hne.2.2], by simp [h.view], by simp [h.ctx]⟩

/-- A boom in a hole is sound in a phase whose own conditions it meets. -/
theorem Boom.InWork.sound {b : Boom} (h : b.InWork) (hp : b.phase.hasContext = true) (ha : b.phase ≠ .assessing)
    (hs : b.suspendedPhase = none) (hn : b.phase ≠ .suspended) (hh : b.heldPhase = true → b.holds = .empty)
    (hv : b.port.view ≠ .none → b.phase.usesFlow = true) : b.sound := by
  obtain ⟨c, hc, hr⟩ := h.ctx
  refine ⟨h.magazine, ha, by simp [hc, hp], by simp [hs], fun k => absurd k hn, hh, hv, fun d hd => ?_⟩
  rw [hc] at hd
  cases hd
  exact hr

/-! ### Seeks -/

/-- What a seek does: it claims a PLANNED cell, finds nothing left, or waits. -/
theorem seek_cases (x : Side) (s : State) :
    (∃ q, (s.cell q).state = .planned ∧ seek x s = claimCell x q s) ∨ seek x s = completionCheck (enterIdle x s) ∨
      seek x s = s.setBoom x { s.boom x with phase := .seekWait, reseekDue := false } := by
  unfold seek
  split
  · exact .inr (.inl rfl)
  · dsimp only
    split
    · next q hq =>
      have := List.mem_of_find?_eq_some hq
      exact .inl ⟨q, by simpa using (List.mem_filter.mp this).2, rfl⟩
    · split
      · exact .inr (.inl rfl)
      · exact .inr (.inr rfl)

/-- The completion check changes the completion mark and flags. -/
theorem completionCheck_only (s : State) :
    completionCheck s = { s with complete := (completionCheck s).complete, flags := (completionCheck s).flags } := by
  unfold completionCheck
  split
  · rw [raiseFlag_only]
  · rfl

theorem completionCheck_boom (s : State) (y : Side) : (completionCheck s).boom y = s.boom y := by
  rw [completionCheck_only]
  cases y <;> rfl

theorem completionCheck_cell (s : State) (q : Pos) : (completionCheck s).cell q = s.cell q := by
  rw [completionCheck_only]
  rfl

/-- A re-seek noted changes at most the mark that it is due. -/
theorem noteReseek_gist (y : Side) (s : State) : (noteReseek y s).gist = s.gist := by
  unfold noteReseek
  refine gist_setBoom ?_
  dsimp only
  split <;> rfl

theorem noteReseek_other (x : Side) (s : State) : (noteReseek x.other s).boom x = s.boom x := by simp [noteReseek]

/-- The boom that seeks, apart from the other's note of a claim. -/
theorem claimCell_boom (x : Side) (q : Pos) (s : State) : ∃ c : HoleCtx, c.pos = q ∧ c.runsSound ∧
    (claimCell x q s).boom x = { s.boom x with phase := .positioning, cursor := some q, ctx := some c, reseekDue := false } :=
  ⟨newContext q (s.cell q).classIdx ((classAt s.classes (s.cell q).classIdx).getD .blank), rfl,
    by simp [HoleCtx.runsSound, newContext], by simp [claimCell, noteReseek_other]⟩

/-- A seek from outside a hole leaves its boom sound. -/
theorem seek_own (h : (s.boom x).Quit) : ((seek x s).boom x).sound := by
  rcases seek_cases x s with ⟨q, _, hk⟩ | hk | hk <;> rw [hk]
  · obtain ⟨c, _, hr, hb⟩ := claimCell_boom x q s
    rw [hb]
    refine ⟨h.magazine, by simp, by simp [Phase.hasContext], by simp [h.suspendedPhase], by simp, by simp [Boom.heldPhase],
      by simp [h.view], ?_⟩
    rintro _ ⟨⟩
    exact hr
  · rw [completionCheck_boom]
    exact Boom.Quit.sound (by simpa [enterIdle] using ⟨h.magazine, h.ctx, h.suspendedPhase, h.view⟩) (by simp [enterIdle, Phase.hasContext])
  · exact Boom.Quit.sound (by simpa using ⟨h.magazine, h.ctx, h.suspendedPhase, h.view⟩) (by simp [Phase.hasContext])

/-- A seek leaves the other boom's gist. -/
theorem seek_other_gist (x : Side) (s : State) : ((seek x s).boom x.other).gist = (s.boom x.other).gist := by
  rcases seek_cases x s with ⟨q, _, hk⟩ | hk | hk <;> rw [hk]
  · unfold claimCell
    rw [boom_gist (noteReseek_gist _ _)]
    simp
  · rw [completionCheck_boom]
    simp [enterIdle]
  · simp

/-- A seek from outside a hole keeps the grid in agreement. -/
theorem seek_grid (hg : s.gridSound) (h : (s.boom x).ctx = none) : (seek x s).gridSound := by
  rcases seek_cases x s with ⟨q, hq, hk⟩ | hk | hk <;> rw [hk]
  · have hst : ((claimCell x q s).boom x).stand = some (q, true) := by
      obtain ⟨c, hc, _, hb⟩ := claimCell_boom x q s
      simp [hb, Boom.stand, hc]
    have hcell : ∀ r, (claimCell x q s).cell r =
        (s.setCell q { s.cell q with state := .claimed, boom := some x }).cell r := fun r => by
      unfold claimCell
      rw [cell_gist (noteReseek_gist _ _)]
      simp
    refine gridSound_at (x := x) (q := q) hg (fun r hr => by simp [hcell, setCell_cell_ne _ _ hr]) ?_
      (fun p => gridSound_free hg (by simp [hq]) (by simp [hq]) _ p) (by simp [Boom.stand, h]) (by simp [hst, hcell])
    exact Boom.stand_of_gist (hk ▸ seek_other_gist x s)
  · refine gridSound_congr (fun q => by simp [completionCheck_cell, enterIdle]) (fun y => ?_) hg
    rw [completionCheck_boom]
    by_cases hy : y = x
    · subst hy
      simp [enterIdle, Boom.stand, h]
    · simp [enterIdle, setBoom_boom_ne s _ hy]
  · refine gridSound_congr (fun q => by simp) (fun y => ?_) hg
    by_cases hy : y = x
    · subst hy
      simp [Boom.stand, h]
    · rw [setBoom_boom_ne s _ hy]

theorem During.seek (h : During g x Boom.Quit s) : Kept g (Machine.seek x s) :=
  (kept_iff x).mpr ⟨seek_own h.own, Boom.sound_of_gist (seek_other_gist x s) h.other, fun k => seek_grid (h.grid k) h.own.ctx⟩

theorem Kept.reseek (h : Kept g s) (y : Side) : Kept g (Machine.reseek y s) := by
  unfold Machine.reseek
  split
  · next hp => exact ((kept_iff y).mp h |>.imp fun hs => hs.quit (by simp [hp, Phase.hasContext])).seek
  · exact h

theorem Kept.reseekBoth (h : Kept g s) : Kept g (Machine.reseekBoth s) := (h.reseek .a).reseek .b

theorem Kept.completionCheck (h : Kept g s) : Kept g (Machine.completionCheck s) :=
  h.of_gist (by rw [completionCheck_only]; rfl)

theorem During.completionCheck (h : During g x P s) : During g x P (Machine.completionCheck s) := by
  rw [completionCheck_only]
  exact h.same rfl rfl rfl

/-- A boom between two holes is there still after the other boom's seek. -/
theorem During.reseekOther (h : During g x Boom.Quit s) : During g x Boom.Quit (Machine.reseek x.other s) := by
  unfold Machine.reseek
  split
  · next hp =>
    have hq : (s.boom x.other).Quit := h.other.quit (by simp [hp, Phase.hasContext])
    refine ⟨?_, seek_own hq, fun k => seek_grid (h.grid k) hq.ctx⟩
    have hgist := seek_other_gist x.other s
    rw [other_other] at hgist
    simp only [Boom.gist, Prod.mk.injEq] at hgist
    obtain ⟨hm, _, hsp, _, _, hv, hc⟩ := hgist
    exact ⟨hm ▸ h.own.magazine, hc ▸ h.own.ctx, hsp ▸ h.own.suspendedPhase, hv ▸ h.own.view⟩
  · exact h

theorem During.seekAmong (h : During g x Boom.Quit s) : Kept g (Machine.seekAmong x s) := by
  have hs : During g x Boom.Quit { s with freeCount := s.freeCount + 1 } := h.same rfl rfl rfl
  unfold Machine.seekAmong
  split
  · dsimp only
    split
    · exact hs.reseekOther.seek
    · exact hs.seek
  · exact h.seek

/-! ### The end of a context -/

theorem endContext_boom (x : Side) (s : State) : (endContext x s).boom x =
    { s.boom x with ctx := none, base := none, holdEnd := none, waitReason := none, suspendedPhase := none, backOff := false,
                    port := (s.boom x).port.drop, stallTime := 0 } := by
  simp [endContext, dropFlow]

theorem endContext_other (x : Side) (s : State) : (endContext x s).boom x.other = s.boom x.other := by
  simp [endContext, dropFlow]

theorem endContext_cell (x : Side) (s : State) (q : Pos) : (endContext x s).cell q = s.cell q := by
  simp [endContext, dropFlow]

theorem endContext_quit (h : (s.boom x).magazine.length ≤ 6) : ((endContext x s).boom x).Quit := by
  rw [endContext_boom]
  exact ⟨h, rfl, rfl, drop_view _⟩

/-- The cell a context stands on becomes free as the context ends. -/
theorem gridSound_leave {u : State} {c : HoleCtx} (h : s.gridSound) (hs : (s.boom x).ctx = some c)
    (hcells : ∀ r, r ≠ c.pos → (u.cell r).state = (s.cell r).state ∧ (u.cell r).boom = (s.cell r).boom)
    (hother : (u.boom x.other).stand = (s.boom x.other).stand)
    (h1 : (u.cell c.pos).state ≠ .claimed) (h2 : (u.cell c.pos).state ≠ .working) : (endContext x u).gridSound := by
  have hst : (s.boom x).stand = some (c.pos, (s.boom x).phase == .positioning) := by simp [Boom.stand, hs]
  refine gridSound_at (x := x) (q := c.pos) h (fun r hr => by simpa only [endContext_cell] using hcells r hr) ?_
    (gridSound_other_free h hst) (fun r p hr => ?_) ?_
  · rw [endContext_other, hother]
  · rw [hst] at hr
    cases hr
    rfl
  · simp [endContext_boom, endContext_cell, Boom.stand, h1, h2]

theorem During.noteReseek (h : During g x P s) : During g x P (Machine.noteReseek x.other s) := by
  have hg := noteReseek_gist x.other s
  refine ⟨by rw [noteReseek_other]; exact h.own, Boom.sound_of_gist (boom_gist hg _) h.other, fun k => gridSound_congr
    (fun q => by rw [cell_gist hg q]; exact ⟨rfl, rfl⟩) (fun y => Boom.stand_of_gist (boom_gist hg y)) (h.grid k)⟩

theorem During.raiseFlag (h : During g x P s) (f : Flag) (b : Option Side) (p : Option Pos) (r : Nat) :
    During g x P (Machine.raiseFlag f b p r s) := by
  rw [raiseFlag_only]
  exact h.same rfl rfl rfl

theorem Kept.raiseFlag (h : Kept g s) (f : Flag) (b : Option Side) (p : Option Pos) (r : Nat) :
    Kept g (Machine.raiseFlag f b p r s) := (kept_iff .a).mpr (((kept_iff .a).mp h).raiseFlag f b p r)

theorem raiseFlag_boom (f : Flag) (b : Option Side) (p : Option Pos) (r : Nat) (s : State) (y : Side) :
    (raiseFlag f b p r s).boom y = s.boom y := by
  rw [raiseFlag_only]
  cases y <;> rfl

theorem raiseFlag_cell (f : Flag) (b : Option Side) (p : Option Pos) (r : Nat) (s : State) (q : Pos) :
    (raiseFlag f b p r s).cell q = s.cell q := by
  rw [raiseFlag_only]
  rfl

/-- A released claim leaves the boom without a hole. -/
theorem During.releaseClaim (h : During g x P s) (hm : (s.boom x).magazine.length ≤ 6) (hc : (s.boom x).ctx ≠ none) :
    During g x Boom.Quit (Machine.releaseClaim x s) := by
  obtain ⟨c, hc⟩ := Option.ne_none_iff_exists'.mp hc
  unfold Machine.releaseClaim
  rw [hc]
  dsimp only
  refine During.noteReseek ⟨endContext_quit (by simpa using hm), ?_, fun k => ?_⟩
  · simpa only [endContext_other, setCell_boom] using h.other
  · exact gridSound_leave (h.grid k) hc (fun r hr => by simp [setCell_cell_ne _ _ hr]) (by simp) (by simp) (by simp)

/-! ### Hole ends -/

theorem placeRecord_boom (x y : Side) (d : HoleData) (s : State) : (placeRecord x d s).boom y = s.boom y := by
  unfold placeRecord
  split <;> simp [raiseFlag_boom]

theorem setSlot_cell (s : State) (x : Side) (v : Option Slot) (q : Pos) : (s.setSlot x v).cell q = s.cell q := by
  cases x <;> rfl

/-- A record placed marks at most a cell whose detail is lost. -/
theorem placeRecord_cell (x : Side) (d : HoleData) (s : State) (r : Pos) :
    ((placeRecord x d s).cell r).state = (s.cell r).state ∧ ((placeRecord x d s).cell r).boom = (s.cell r).boom := by
  unfold placeRecord
  split
  · simp [raiseFlag_cell, setSlot_cell]
  · next old _ =>
    simp only [raiseFlag_cell, setSlot_cell]
    by_cases hr : r = old.record.data.pos
    · subst hr
      simp
    · simp [setCell_cell_ne _ _ hr]

theorem takeOutcome_boom (d : HoleData) (o : HoleOutcome) (s : State) (y : Side) : (takeOutcome d o s).boom y = s.boom y := by
  unfold takeOutcome
  rw [completionCheck_boom]
  cases y <;> rfl

theorem takeOutcome_cell (d : HoleData) (o : HoleOutcome) (s : State) (r : Pos) :
    (takeOutcome d o s).cell r = (s.setCell d.pos
      { s.cell d.pos with state := if o.good then .done else .failed, outcome := some o,
                          finalDepth := some d.depth, torque := some d.torque }).cell r := by
  unfold takeOutcome
  rw [completionCheck_cell]
  rfl

/-- A hole's end leaves the boom without a hole. -/
theorem During.handHole {c : HoleCtx} (h : During g x P s) (hm : (s.boom x).magazine.length ≤ 6)
    (hc : (s.boom x).ctx = some c) (o : HoleOutcome) : During g x Boom.Quit (Machine.handHole x c o s) := by
  unfold Machine.handHole
  dsimp only
  refine During.noteReseek ⟨endContext_quit ?_, ?_, fun k => gridSound_leave (h.grid k) hc (fun r hr => ?_) ?_ ?_ ?_⟩
  · simpa only [placeRecord_boom, takeOutcome_boom] using hm
  · simpa only [endContext_other, placeRecord_boom, takeOutcome_boom] using h.other
  · simp [placeRecord_cell, takeOutcome_cell, setCell_cell_ne _ _ hr]
  · rw [placeRecord_boom, takeOutcome_boom]
  · rw [(placeRecord_cell _ _ _ _).1, takeOutcome_cell]
    cases o <;> simp [HoleOutcome.good]
  · rw [(placeRecord_cell _ _ _ _).1, takeOutcome_cell]
    cases o <;> simp [HoleOutcome.good]

/-- A boom without a hole enters a state without one. -/
theorem During.quitTo (h : During g x Boom.Quit s) {b : Boom} (hm : b.magazine.length ≤ 6) (hc : b.ctx = none)
    (hs : b.suspendedPhase = none) (hv : b.port.view = .none) (hp : b.phase.hasContext = false) : Kept g (s.setBoom x b) := by
  refine (kept_iff x).mpr ⟨?_, by simpa using h.other, fun k => gridSound_congr (fun q => by simp) (fun y => ?_) (h.grid k)⟩
  · rw [setBoom_boom]
    exact Boom.Quit.sound ⟨hm, hc, hs, hv⟩ hp
  · by_cases hy : y = x
    · subst hy
      simp [Boom.stand, hc, h.own.ctx]
    · rw [setBoom_boom_ne s _ hy]

theorem During.enterIdle (h : During g x Boom.Quit s) : Kept g (Machine.enterIdle x s) :=
  h.quitTo h.own.magazine h.own.ctx h.own.suspendedPhase h.own.view rfl

theorem During.enterStopped (h : During g x Boom.Quit s) : Kept g (Machine.enterStopped x s) :=
  h.quitTo h.own.magazine h.own.ctx rfl h.own.view rfl

theorem During.enterHalted (h : During g x Boom.Quit s) (p : Option Pos) (r : Nat) : Kept g (Machine.enterHalted x p r s) := by
  have hk : Kept g (Machine.raiseFlag (.halt x) (some x) p r (s.modBoom x fun b => { b with phase := .halted })) :=
    (h.quitTo (b := { s.boom x with phase := .halted }) h.own.magazine h.own.ctx h.own.suspendedPhase h.own.view rfl).raiseFlag
      _ _ _ _
  unfold Machine.enterHalted
  dsimp only
  split
  · exact ((kept_iff x).mp hk |>.imp fun hs => hs.quit (by rw [raiseFlag_boom]; simp [Phase.hasContext])).enterIdle
  · exact hk

theorem During.stopHole (h : During g x P s) (hm : (s.boom x).magazine.length ≤ 6) (hc : (s.boom x).ctx ≠ none)
    (o : HoleOutcome) : Kept g (Machine.stopHole x o s) := by
  obtain ⟨c, hc⟩ := Option.ne_none_iff_exists'.mp hc
  unfold Machine.stopHole
  rw [hc]
  exact (h.handHole hm hc _).enterStopped.raiseFlag _ _ _ _

theorem During.releaseDone (h : During g x P s) (hm : (s.boom x).magazine.length ≤ 6) (hc : (s.boom x).ctx ≠ none) :
    Kept g (Machine.releaseDone x s) := by
  obtain ⟨c, hc⟩ := Option.ne_none_iff_exists'.mp hc
  have hh := h.handHole hm hc (c.outcome.getD .abandoned)
  unfold Machine.releaseDone
  rw [hc]
  dsimp only
  split
  · exact hh.enterIdle
  · exact hh.seekAmong

theorem During.abortDone (h : During g x P s) (hm : (s.boom x).magazine.length ≤ 6) (hc : (s.boom x).ctx ≠ none) :
    Kept g (Machine.abortDone x s) := by
  obtain ⟨c, hc⟩ := Option.ne_none_iff_exists'.mp hc
  unfold Machine.abortDone
  rw [hc]
  exact (h.handHole hm hc _).enterHalted _ _

end Sys2Proof.Machine
end

section
namespace Sys2Proof.Machine

variable {g : Prop} {x : Side} {s t : State} {P Q : Boom → Prop}

/-! ### Updates of one boom -/

/-- The acting boom changes and is sound again. -/
theorem During.sets (h : During g x P s) {b : Boom} (hq : b.sound)
    (hc : b.ctx.map (fun c => c.pos) = (s.boom x).ctx.map (fun c => c.pos))
    (hp : b.phase = .positioning ↔ (s.boom x).phase = .positioning) : Kept g (s.setBoom x b) :=
  (kept_iff x).mpr (h.setBoom hq hc hp)

theorem Kept.during (h : Kept g s) (x : Side) : During g x Boom.sound s := (kept_iff x).mp h

/-- A boom in a phase of its hole past the claim is at work there. -/
theorem Kept.inWork (h : Kept g s) (hp : (s.boom x).phase.hasContext = true) (hn : (s.boom x).phase ≠ .positioning) :
    During g x Boom.InWork s :=
  (h.during x).imp fun hs => hs.inWork (hs.ctx_ne hp) hn

theorem Boom.sound.setPort {b : Boom} (h : b.sound) {p : FlowPort} (hv : p.view ≠ .none → b.phase.usesFlow = true) :
    ({ b with port := p } : Boom).sound := by
  obtain ⟨hm, ha, hc, hs, hs', hh, _, hr⟩ := h
  exact ⟨hm, ha, hc, hs, hs', hh, hv, hr⟩

theorem Boom.sound.setCtx {b : Boom} (h : b.sound) {o : Option HoleCtx} (ho : o.isSome = b.ctx.isSome)
    (hr : ∀ c, o = some c → c.runsSound) : ({ b with ctx := o } : Boom).sound := by
  obtain ⟨hm, ha, hc, hs, hs', hh, hv, _⟩ := h
  exact ⟨hm, ha, ho.trans hc, hs, hs', hh, hv, hr⟩

/-- A context changed in place keeps its boom sound where place and strata runs stay lawful. -/
theorem Kept.modCtx (h : Kept g s) (x : Side) {f : HoleCtx → HoleCtx} (hp : ∀ c, (f c).pos = c.pos)
    (hr : ∀ c, c.runsSound → (f c).runsSound) : Kept g (s.modCtx x f) := by
  have hs := h.1 x
  refine (h.during x).sets (hs.setCtx (by simp) fun c hc => ?_) ?_ Iff.rfl
  · obtain ⟨d, hd, rfl⟩ := Option.map_eq_some_iff.mp hc
    exact hr d (hs.2.2.2.2.2.2.2 d hd)
  · simp [Function.comp_def, hp]

theorem During.modCtx (h : During g x Boom.InWork s) {f : HoleCtx → HoleCtx} (hp : ∀ c, (f c).pos = c.pos)
    (hr : ∀ c, c.runsSound → (f c).runsSound) : During g x Boom.InWork (s.modCtx x f) := by
  obtain ⟨c, hc, hs⟩ := h.own.ctx
  refine h.setBoom ⟨h.own.magazine, h.own.phase, f c, by simp [hc], hr c hs⟩ ?_ Iff.rfl
  simp [Function.comp_def, hp]

/-- The phase a boom is in, through a change of its context. -/
theorem modCtx_phase (x : Side) (f : HoleCtx → HoleCtx) (s : State) : ((s.modCtx x f).boom x).phase = (s.boom x).phase := by
  simp

/-- What the gist does not hold may change. -/
theorem Kept.aside (h : Kept g s) (x : Side) {b : Boom} (hb : b.gist = (s.boom x).gist) : Kept g (s.setBoom x b) :=
  h.of_gist (gist_setBoom hb)

theorem During.aside (h : During g x Boom.InWork s) {b : Boom} (hb : b.gist = (s.boom x).gist) :
    During g x Boom.InWork (s.setBoom x b) := by
  simp only [Boom.gist, Prod.mk.injEq] at hb
  obtain ⟨hm, hp, _, _, _, _, hc⟩ := hb
  exact h.setBoom ⟨hm ▸ h.own.magazine, hp ▸ h.own.phase, hc ▸ h.own.ctx⟩ (by rw [hc]) (by rw [hp])

/-! ### Flow -/

/-- Asking for flow changes the boom's port, and the count of tickets. -/
theorem askFlow_eq (x : Side) (m : Motion) (d : Nat) (s : State) :
    ∃ p n, p.view ≠ .none ∧ (∀ k, p.view ≠ .held k) ∧ askFlow x m d s = { s.setBoom x { s.boom x with port := p } with ticket := n } := by
  unfold askFlow
  split
  · exact ⟨{ (s.boom x).port with view := .free }, s.ticket, by simp, by simp, by cases x <;> rfl⟩
  · exact ⟨(s.boom x).port.ask d m s.ticket, s.ticket + 1, by simp [FlowPort.ask], by simp [FlowPort.ask], rfl⟩

theorem setTicket_boom (s : State) (n : Nat) (x : Side) : ({ s with ticket := n } : State).boom x = s.boom x := by
  cases x <;> rfl

/-- A motion that asks for its flow stays in its phase, with the rest of its boom. -/
theorem askFlow_boom (x : Side) (m : Motion) (d : Nat) (s : State) :
    ∃ p, (askFlow x m d s).boom x = { s.boom x with port := p } := by
  obtain ⟨p, n, _, _, he⟩ := askFlow_eq x m d s
  exact ⟨p, by rw [he, setTicket_boom, setBoom_boom]⟩

theorem askFlow_phase (x : Side) (m : Motion) (d : Nat) (s : State) :
    ((askFlow x m d s).boom x).phase = (s.boom x).phase := by
  obtain ⟨p, he⟩ := askFlow_boom x m d s
  rw [he]

theorem Kept.askFlow (h : Kept g s) (hu : (s.boom x).phase.usesFlow = true) (m : Motion) (d : Nat) :
    Kept g (Machine.askFlow x m d s) := by
  obtain ⟨p, n, _, _, he⟩ := askFlow_eq x m d s
  rw [he]
  have hk : Kept g (s.setBoom x { s.boom x with port := p }) := (h.during x).sets ((h.1 x).setPort fun _ => hu) rfl Iff.rfl
  exact hk.of_gist rfl

theorem Kept.dropFlow (h : Kept g s) (x : Side) : Kept g (Machine.dropFlow x s) :=
  (h.during x).sets (b := { s.boom x with port := (s.boom x).port.drop, stallTime := 0 })
    ((h.1 x).setPort (p := (s.boom x).port.drop) fun k => absurd (drop_view _) k) rfl Iff.rfl

/-! ### Retractions, ABORTING, RELEASING -/

/-- A wait leaves its boom sound: a boom that waits in a steel change is in no held phase. -/
theorem Kept.waitFor (h : Kept g s) (x : Side) (r : WaitReason) : Kept g (Machine.waitFor x r s) := by
  have hs : ({ s.boom x with waitReason := some r } : Boom).sound := by
    obtain ⟨hm, ha, hc, hsp, hsp', hh, hv, hr⟩ := h.1 x
    refine ⟨hm, ha, hc, hsp, hsp', fun k => hh ?_, hv, hr⟩
    revert k
    unfold Boom.heldPhase
    cases (s.boom x).phase <;> simp
  exact ((h.during x).sets hs rfl Iff.rfl).raiseFlag _ _ _ _

/-- A wait entered with the phase that waits: the boom need only be sound with its wait reason. -/
theorem During.waitIn (h : During g x P s) {b : Boom} (r : WaitReason) (hq : ({ b with waitReason := some r } : Boom).sound)
    (hc : b.ctx.map (fun c => c.pos) = (s.boom x).ctx.map (fun c => c.pos))
    (hp : b.phase = .positioning ↔ (s.boom x).phase = .positioning) : Kept g (Machine.waitFor x r (s.setBoom x b)) := by
  unfold Machine.waitFor
  simp only [modBoom_eq, setBoom_boom, setBoom_setBoom]
  exact (h.sets hq hc hp).raiseFlag _ _ _ _

theorem Kept.retractDone (h : Kept g s) (x : Side) : Kept g (Machine.retractDone x s) := by
  have hb := h.1 x
  have work (hp : (s.boom x).phase.hasContext = true) (hn : (s.boom x).phase ≠ .positioning) := (h.inWork hp hn).own
  unfold Machine.retractDone
  split
  · next hp =>
    have hw := work (by simp [hp, Phase.hasContext]) (by simp [hp])
    exact (h.during x).waitIn (b := { s.boom x with port := (s.boom x).port.drop, stallTime := 0 }) _
      (Boom.InWork.sound ⟨hw.magazine, hw.phase, hw.ctx⟩ (by simp [hp, Phase.hasContext]) (by simp [hp])
        (hb.noSuspendedPhase (by simp [hp])) (by simp [hp]) (by simp [Boom.heldPhase, hp]) (by simp [drop_view])) rfl Iff.rfl
  · next hp =>
    have hw := work (by simp [hp, Phase.hasContext]) (by simp [hp])
    simp only [Machine.dropFlow, modBoom_eq, setBoom_boom, setBoom_setBoom]
    exact (h.during x).waitIn _
      (Boom.InWork.sound ⟨hw.magazine, by simp, hw.ctx⟩ (by simp [Phase.hasContext]) (by simp)
        (hb.noSuspendedPhase (by simp [hp])) (by simp) (by simp [Boom.heldPhase]) (by simp [drop_view])) rfl (by simp [hp])
  · next hp => exact (h.during x).releaseDone hb.1 (hb.ctx_ne (by simp [hp, Phase.hasContext]))
  · next hp => exact (h.during x).abortDone hb.1 (hb.ctx_ne (by simp [hp, Phase.hasContext]))
  · exact h

theorem Kept.retractBegins (h : Kept g s) (x : Side) : Kept g (Machine.retractBegins x s) := by
  unfold Machine.retractBegins
  split
  · exact h.retractDone x
  · exact h

theorem Kept.askRetract (h : Kept g s) (hu : (s.boom x).phase.usesFlow = true) : Kept g (Machine.askRetract x s) := by
  have hk := h.askFlow hu .retract (s.boom x).snap.retractDemand
  unfold Machine.askRetract
  dsimp only
  split
  · exact hk.retractBegins x
  · exact hk

theorem During.enterReleasing (h : During g x Boom.InWork s) : Kept g (Machine.enterReleasing x s) := by
  have hw := h.own
  unfold Machine.enterReleasing
  simp only [Machine.dropFlow, modBoom_eq, setBoom_boom, setBoom_setBoom]
  refine Kept.askRetract (h.sets ?_ rfl (by simp [hw.phase])) (by simp [Phase.usesFlow])
  exact Boom.InWork.sound ⟨hw.magazine, by simp, hw.ctx⟩ rfl (by simp) rfl (by simp) (by simp [Boom.heldPhase]) (by simp [Phase.usesFlow])

theorem During.enterAborting (h : During g x Boom.InWork s) (o : HoleOutcome) (f : Option FaultCode) :
    Kept g (Machine.enterAborting x o f s) := by
  have hm := h.modCtx (f := fun c => { c with outcome := some o, fault := f.or c.fault }) (fun _ => rfl) (fun _ hr => hr)
  have hw := hm.own
  unfold Machine.enterAborting
  dsimp only
  generalize s.modCtx x (fun c => { c with outcome := some o, fault := f.or c.fault }) = u at hm hw ⊢
  simp only [Machine.dropFlow, modBoom_eq, setBoom_boom, setBoom_setBoom]
  have hk : Kept g (u.setBoom x { u.boom x with
      phase := .aborting, waitReason := none, backOff := false, suspendedPhase := none, retractTime := 0
      port := (u.boom x).port.drop, stallTime := 0 }) := by
    refine hm.sets ?_ rfl (by simp [hw.phase])
    exact Boom.InWork.sound ⟨hw.magazine, by simp, hw.ctx⟩ rfl (by simp) rfl (by simp) (by simp [Boom.heldPhase]) (by simp [Phase.usesFlow])
  split
  · exact (hk.during x).abortDone (hk.1 x).1 ((hk.1 x).ctx_ne (by simp [Phase.hasContext]))
  · exact hk.askRetract (by simp [Phase.usesFlow])

theorem Kept.secondFailure (h : Kept g s) (hc : (s.boom x).ctx ≠ none) (f : FaultCode) : Kept g (Machine.secondFailure x f s) := by
  have hk := h.modCtx x (f := fun c => { c with fault := some f }) (fun _ => rfl) (fun _ hr => hr)
  exact (hk.during x).stopHole (hk.1 x).1 (by simpa using hc) _

/-! ### Lateness, suspension, entries -/

theorem During.takeLate (h : During g x Boom.InWork s) : Kept g (Machine.takeLate x s) :=
  During.enterReleasing (h.modCtx (fun _ => rfl) (fun _ hr => hr))

/-- A late boom is at work in a hole. -/
theorem Boom.sound.inWork_of_late {b : Boom} (h : b.sound) (hl : b.late = true) : b.InWork := by
  obtain ⟨hu, _, c, _, _, hc, _⟩ := (late_iff b).mp hl
  refine h.inWork (by simp [hc]) fun hp => ?_
  simp [Boom.underDeadline, hp] at hu

theorem Kept.takeLate (h : Kept g s) (hl : (s.boom x).late = true) : Kept g (Machine.takeLate x s) :=
  ((h.during x).imp fun hs => hs.inWork_of_late hl).takeLate

theorem Kept.lateCheck (h : Kept g s) (x : Side) : Kept g (Machine.lateCheck x s) := by
  unfold Machine.lateCheck
  split
  · next hl => exact h.takeLate hl
  · exact h

theorem During.suspend (h : During g x Boom.InWork s) (hp : (s.boom x).phase.isHeld = true) : Kept g (Machine.suspend x s) := by
  obtain ⟨hm, hn, c, hc, hr⟩ := h.own
  unfold Machine.suspend
  simp only [Machine.dropFlow, modBoom_eq, setBoom_boom, setBoom_setBoom]
  refine Kept.lateCheck (h.sets ?_ (by simp [hc]) (by simp [hn])) x
  refine ⟨hm, by simp, by simp [hc, Phase.hasContext], ?_, by simp, by simp [Boom.heldPhase], by simp [drop_view], ?_⟩
  · rintro p ⟨⟩
    exact ⟨rfl, hp⟩
  · simp only [hc, Option.map_some, Option.some.injEq, forall_eq']
    exact hr

/-- A boom that enters a held phase is sound there, or SUSPENDED. -/
theorem During.heldEntry (h : During g x Boom.Entering s) {ph : Phase} (hp : ph.isHeld = true) {go : State → State}
    (hgo : ∀ u, Kept g u → (u.boom x).phase = ph → Kept g (go u)) : Kept g (Machine.heldEntry x ph go s) := by
  have hw := h.own
  have hne : ph ≠ .positioning ∧ ph ≠ .assessing ∧ ph ≠ .suspended ∧ ph.hasContext = true := by
    revert hp
    cases ph <;> simp [Phase.isHeld, Phase.hasContext]
  have hiff : ph = .positioning ↔ (s.boom x).phase = .positioning := by simp [hne.1, hw.phase]
  unfold Machine.heldEntry
  simp only [modBoom_eq, setBoom_boom]
  split
  · exact During.suspend (h.setBoom ⟨hw.magazine, hne.1, hw.ctx⟩ rfl hiff) (by simpa using hp)
  · next hn =>
    refine hgo _ (h.sets ?_ rfl hiff) (by simp)
    exact Boom.InWork.sound ⟨hw.magazine, hne.1, hw.ctx⟩ hne.2.2.2 hne.2.1 hw.suspendedPhase hne.2.2.1
      (fun _ => Holds.any_eq_false (by simpa using hn)) (by simp [hw.view])

/-- A hold reason added leaves a boom outside the held phases sound, and suspends one in them. -/
theorem Kept.addHold (h : Kept g s) (x : Side) (f : Holds → Holds) : Kept g (Machine.addHold x f s) := by
  have hb := h.1 x
  unfold Machine.addHold
  split
  · simp only [modBoom_eq, setBoom_boom]
    split
    · next hh =>
      have hp := Boom.isHeld_of_heldPhase hh
      have hne : (s.boom x).phase.hasContext = true ∧ (s.boom x).phase ≠ .positioning := by
        revert hp
        cases (s.boom x).phase <;> simp [Phase.isHeld, Phase.hasContext]
      have hw := hb.inWork (hb.ctx_ne hne.1) hne.2
      exact During.suspend ((h.during x).setBoom ⟨hw.magazine, hw.phase, hw.ctx⟩ rfl Iff.rfl) (by simpa using hp)
    · next hh =>
      obtain ⟨hm, ha, hc, hs, hs', _, hv, hr⟩ := hb
      exact (h.during x).sets ⟨hm, ha, hc, hs, hs', fun k => absurd k hh, hv, hr⟩ rfl Iff.rfl
  · exact h

/-- A hold reason removed leaves every boom sound: none is added where none was. -/
theorem Kept.removeHold (h : Kept g s) (x : Side) {f : Holds → Holds} (hf : f .empty = .empty) :
    Kept g (Machine.removeHold x f s) := by
  obtain ⟨hm, ha, hc, hs, hs', hh, hv, hr⟩ := h.1 x
  exact (h.during x).sets ⟨hm, ha, hc, hs, hs', fun k => (congrArg f (hh k)).trans hf, hv, hr⟩ rfl Iff.rfl

end Sys2Proof.Machine
end

section
namespace Sys2Proof.Machine

variable {g : Prop} {x : Side} {s t : State} {P Q : Boom → Prop}

/-! ### Increments, runs and assessments -/

/-- An increment joins the runs without exceeding their room. -/
theorem joinRuns_length (cls : StrataClass) (start : Nat) (runs : List StrataRun) (room : Nat) (h : runs.length ≤ room)
    (h1 : 1 ≤ room) : (joinRuns cls start room runs).1.length ≤ room := by
  induction runs generalizing room with
  | nil => simpa [joinRuns] using h1
  | cons r rs ih =>
    cases rs with
    | nil =>
      unfold joinRuns
      split
      · simpa using h1
      · split
        · next hr => exact hr
        · simpa using h1
    | cons r' rs =>
      simp only [List.length_cons] at h ih
      have := ih (room - 1) (by omega) (by omega)
      simp only [joinRuns, List.length_cons]
      omega

/-- An increment adds its length to the runs. -/
theorem joinRuns_sum (cls : StrataClass) (start : Nat) (runs : List StrataRun) (room : Nat) :
    ((joinRuns cls start room runs).1.map (·.length)).sum = (runs.map (·.length)).sum + 25 := by
  induction runs generalizing room with
  | nil => simp [joinRuns, incrementMm]
  | cons r rs ih =>
    cases rs with
    | nil =>
      unfold joinRuns
      split
      · simp [incrementMm]
      · split <;> simp [incrementMm]
    | cons r' rs =>
      simp only [joinRuns, List.map_cons, List.sum_cons] at ih ⊢
      rw [ih]
      omega

/-- Increments keep the runs few and as long as their count, and leave place and depth. -/
theorem addIncrements_spec (cls : Nat → StrataClass) (n time : Nat) (c : HoleCtx) (hl : c.runs.length ≤ 16)
    (hs : (c.runs.map (·.length)).sum = 25 * c.incCount) :
    (addIncrements cls n time c).runs.length ≤ 16 ∧
      ((addIncrements cls n time c).runs.map (·.length)).sum = 25 * (addIncrements cls n time c).incCount ∧
      (addIncrements cls n time c).incCount = c.incCount + n ∧ (addIncrements cls n time c).depth = c.depth ∧
      (addIncrements cls n time c).pos = c.pos := by
  induction n generalizing time c with
  | zero => exact ⟨hl, hs, rfl, rfl, rfl⟩
  | succ n ih =>
    have hone : (addIncrement (cls time) c).runs.length ≤ 16 ∧
        ((addIncrement (cls time) c).runs.map (·.length)).sum = 25 * (addIncrement (cls time) c).incCount :=
      ⟨joinRuns_length _ _ _ _ hl (by decide), (joinRuns_sum _ _ _ _).trans (by simp only [addIncrement]; omega)⟩
    obtain ⟨h1, h2, h3, h4, h5⟩ := ih 0 _ hone.1 hone.2
    exact ⟨h1, h2, h3.trans (by simp only [addIncrement]; omega), h4, h5⟩

/-- What `HoleCtx.runsSound` and the grid read of a context. -/
def HoleCtx.drilled (c : HoleCtx) : Pos × List StrataRun × Nat × Nat := (c.pos, c.runs, c.incCount, c.depth)

theorem runsSound_of_drilled {c d : HoleCtx} (h : d.drilled = c.drilled) (hc : c.runsSound) : d.runsSound := by
  simp only [HoleCtx.drilled, Prod.mk.injEq] at h
  obtain ⟨_, hr, hi, hd⟩ := h
  simpa only [HoleCtx.runsSound, hr, hi, hd] using hc

theorem drillEntry_drilled {f : HoleCtx → HoleCtx × NextMove} (hf : ∀ c, (f c).1.drilled = c.drilled) (c : HoleCtx) :
    (drillEntry f c).1.drilled = c.drilled := by
  unfold drillEntry
  split
  · exact hf c
  · split <;> rfl

theorem afterSubstitution_drilled {f : HoleCtx → HoleCtx × NextMove} (hf : ∀ c, (f c).1.drilled = c.drilled) (c : HoleCtx) :
    (afterSubstitution f c).1.drilled = c.drilled := by
  unfold afterSubstitution
  split
  · split
    · exact drillEntry_drilled hf c
    · rfl
  · exact hf c

/-- An assessment judges what was drilled and changes none of it. -/
theorem assess_drilled (classes : Vector (Option ClassRec) 8) (n : Nat) (c : HoleCtx) :
    (assess classes n c).1.drilled = c.drilled := by
  induction n generalizing c with
  | zero => rfl
  | succ n ih =>
    unfold assess
    dsimp only
    split
    · rfl
    · split
      · rfl
      · rfl
      · split
        · exact drillEntry_drilled ih _
        · rfl
      · split
        · exact afterSubstitution_drilled ih _
        · rfl

/-! ### Drilling -/

/-- A boom that leaves its motion is ready for its next phase. -/
theorem Boom.InWork.entering {b : Boom} (h : b.InWork) (hs : b.suspendedPhase = none) (hv : b.port.view = .none) : b.Entering :=
  ⟨h, hs, hv⟩

theorem Kept.takeBaseFeed (h : Kept g s) (x : Side) : Kept g (Machine.takeBaseFeed x s) := by
  refine h.aside x ?_
  dsimp only
  split <;> rfl

theorem During.enterDrilling (h : During g x Boom.Entering s) : Kept g (Machine.enterDrilling x s) := by
  have hw := h.own
  unfold Machine.enterDrilling
  refine During.heldEntry ?_ rfl fun u hu hp => ?_
  · exact h.setBoom ⟨⟨hw.magazine, hw.phase, hw.ctx⟩, hw.suspendedPhase, hw.view⟩ rfl Iff.rfl
  have hk := hu.askFlow (x := x) (by simp [hp, Phase.usesFlow]) .drill (u.boom x).snap.drillDemand
  dsimp only
  split
  · exact hk.takeBaseFeed x
  · exact hk

theorem During.enterSteelChange (h : During g x Boom.InWork s) (hs : (s.boom x).suspendedPhase = none) :
    Kept g (Machine.enterSteelChange x s) := by
  have hw := h.own
  unfold Machine.enterSteelChange
  simp only [Machine.dropFlow, modBoom_eq, setBoom_boom, setBoom_setBoom]
  refine During.heldEntry ?_ rfl fun u hu hp => hu.askRetract (by simp [hp, Phase.usesFlow])
  exact h.setBoom ⟨⟨hw.magazine, hw.phase, hw.ctx⟩, hs, drop_view _⟩ rfl Iff.rfl

theorem During.enterRetracting (h : During g x Boom.InWork s) (hs : (s.boom x).suspendedPhase = none) :
    Kept g (Machine.enterRetracting x s) := by
  have hw := h.own
  unfold Machine.enterRetracting
  simp only [Machine.dropFlow, modBoom_eq, setBoom_boom, setBoom_setBoom]
  refine During.heldEntry ?_ rfl fun u hu hp => hu.askRetract (by simp [hp, Phase.usesFlow])
  exact h.setBoom ⟨⟨hw.magazine, hw.phase, hw.ctx⟩, hs, drop_view _⟩ rfl Iff.rfl

theorem During.enterDecisionWait (h : During g x Boom.InWork s) (hs : (s.boom x).suspendedPhase = none) :
    Kept g (Machine.enterDecisionWait x s) := by
  have hw := h.own
  unfold Machine.enterDecisionWait
  simp only [Machine.dropFlow, modBoom_eq, setBoom_boom, setBoom_setBoom]
  refine h.waitIn _ ?_ rfl (by simp [hw.phase])
  exact Boom.InWork.sound ⟨hw.magazine, by simp, hw.ctx⟩ rfl (by simp) hs (by simp) (by simp [Boom.heldPhase]) (by simp [drop_view])

/-- After an assessment, or where none was due, the boom goes where it was sent. -/
theorem During.moveOn (h : During g x Boom.InWork s) (hs : (s.boom x).suspendedPhase = none) {c : HoleCtx}
    (hc : (s.boom x).ctx = some c) {r : HoleCtx × NextMove} (hr : r.1.drilled = c.drilled) : Kept g (Machine.moveOn x r s) := by
  obtain ⟨hm, hp, c', hc', hsound⟩ := h.own
  obtain rfl : c = c' := Option.some.inj (hc ▸ hc')
  have hu : During g x Boom.Entering (s.setBoom x { s.boom x with
      ctx := some r.1, backOff := false, port := (s.boom x).port.drop, stallTime := 0 }) := by
    refine h.setBoom ⟨⟨hm, hp, r.1, rfl, runsSound_of_drilled hr hsound⟩, hs, drop_view _⟩ ?_ Iff.rfl
    simp only [hc, Option.map_some, Option.some.injEq]
    exact congrArg Prod.fst hr
  have hi : During g x Boom.InWork _ := hu.imp fun k => k.toInWork
  unfold Machine.moveOn
  simp only [Machine.dropFlow, modBoom_eq, setBoom_boom, setBoom_setBoom]
  split
  · exact hu.enterDrilling
  · exact hi.enterSteelChange (by simpa using hs)
  · exact hi.enterRetracting (by simpa using hs)
  · exact hi.enterDecisionWait (by simpa using hs)

/-- A phase of drilling or collaring is one of work, outside a suspension. -/
theorem Kept.drilling (h : Kept g s) (hp : (s.boom x).phase = .collaring ∨ (s.boom x).phase = .drilling) :
    During g x Boom.InWork s ∧ (s.boom x).suspendedPhase = none := by
  rcases hp with hp | hp <;>
    exact ⟨h.inWork (by simp [hp, Phase.hasContext]) (by simp [hp]), (h.1 x).noSuspendedPhase (by simp [hp])⟩

theorem Kept.assessBoom (h : Kept g s) (hp : (s.boom x).phase = .drilling) : Kept g (Machine.assessBoom x s) := by
  obtain ⟨hw, hs⟩ := h.drilling (.inr hp)
  unfold Machine.assessBoom
  split
  · exact h
  · next c hc => exact hw.moveOn hs hc (assess_drilled _ _ _)

theorem Kept.afterRise (h : Kept g s) (x : Side) : Kept g (Machine.afterRise x s) := by
  unfold Machine.afterRise
  split
  · exact h
  · next c hc =>
    split
    · next hp =>
      obtain ⟨hw, hs⟩ := h.drilling (.inl hp)
      split
      · refine During.enterDrilling (hw.setBoom ⟨⟨hw.own.magazine, hw.own.phase, hw.own.ctx⟩, hs, drop_view _⟩ rfl Iff.rfl)
      · exact h
    · next hp =>
      obtain ⟨hw, hs⟩ := h.drilling (.inr hp)
      split
      · exact h.assessBoom hp
      · split
        · exact hw.enterSteelChange hs
        · exact h
    · exact h

/-- A deeper hole has its increments: one for each 25 mm, up to 3000 mm. -/
theorem Kept.raiseDepth (h : Kept g s) {c : HoleCtx} (hc : (s.boom x).ctx = some c) {d : Nat} (hd : c.depth < d) :
    Kept g (Machine.raiseDepth x d s) := by
  have hb := h.1 x
  obtain ⟨hl, hs, hi⟩ := hb.2.2.2.2.2.2.2 c hc
  have hspec := addIncrements_spec (classify s (s.rotPressure x)) (incrementsAt d - c.incCount) (s.boom x).phaseTime
    { c with depth := d } hl hs
  unfold Machine.raiseDepth
  simp only [modBoom_eq, hc]
  generalize addIncrements (classify s (s.rotPressure x)) (incrementsAt d - c.incCount) (s.boom x).phaseTime
    { c with depth := d } = e at hspec ⊢
  obtain ⟨h1, h2, h3, h4, h5⟩ := hspec
  have he : e.runsSound := by
    refine ⟨h1, h2, ?_⟩
    simp only [incrementsAt, maxDepth, incrementMm] at h3
    rw [h3, h4]
    dsimp only
    omega
  have hk : Kept g (s.setBoom x { s.boom x with ctx := some e }) := by
    refine (h.during x).sets (hb.setCtx (by simp [hc]) ?_) (by simp [hc, h5]) Iff.rfl
    rintro _ ⟨⟩
    exact he
  split
  · exact hk
  · have := hk.aside x (b := { s.boom x with ctx := some e, phaseTime := 0, progressTime := 0 }) (by rw [setBoom_boom]; rfl)
    rwa [setBoom_setBoom] at this

/-- A reach past the depth deepens the hole; the consequences follow. -/
theorem Kept.takeRise (h : Kept g s) {c : HoleCtx} (hc : (s.boom x).ctx = some c) (r : Int) : Kept g
    (if c.depth < r then Machine.afterRise x (Machine.raiseDepth x r.toNat s)
     else if r < c.depth then s.modBoom x fun b => { b with stallTime := 0 } else s) := by
  split
  · next hr => exact (h.raiseDepth hc (by omega)).afterRise x
  · split
    · exact h.aside x rfl
    · exact h

theorem Kept.judgeFeed (h : Kept g s) (x : Side) (mm : Nat) : Kept g (Machine.judgeFeed x mm s) := by
  unfold Machine.judgeFeed
  dsimp only
  split
  · next hc => exact h.takeRise hc _
  · next hc => exact h.takeRise hc _
  · exact h

theorem Kept.feedBegins (h : Kept g s) (x : Side) : Kept g (Machine.feedBegins x s) :=
  (h.takeBaseFeed x).judgeFeed x _

theorem During.goOn (h : During g x Boom.InWork s) (hs : (s.boom x).suspendedPhase = none) {c : HoleCtx}
    (hc : (s.boom x).ctx = some c) {r : HoleCtx × NextMove} (hr : r.1.drilled = c.drilled) : Kept g (Machine.goOn x r s) := by
  have hk := h.moveOn hs hc hr
  unfold Machine.goOn
  dsimp only
  split
  · exact hk.judgeFeed x _
  · exact hk

/-- A hole starts: the cell of the claim becomes WORKING as the boom leaves POSITIONING. -/
theorem Kept.startHole (h : Kept g s) (hp : (s.boom x).phase = .positioning) : Kept g (Machine.startHole x s) := by
  have hb := h.1 x
  obtain ⟨c, hc⟩ := Option.ne_none_iff_exists'.mp (hb.ctx_ne (by simp [hp, Phase.hasContext]))
  have hst : (s.boom x).stand = some (c.pos, true) := by simp [Boom.stand, hc, hp]
  unfold Machine.startHole
  rw [hc]
  simp only [modBoom_eq, setCell_boom]
  have hk : Kept g ((s.setCell c.pos { s.cell c.pos with state := .working }).setBoom x { s.boom x with
      phase := .collaring, holds := .empty, base := some ⟨0, none⟩, phaseTime := 0 }) := by
    refine (kept_iff x).mpr ⟨?_, by simpa using h.1 x.other, fun k => ?_⟩
    · rw [setBoom_boom]
      exact Boom.InWork.sound ⟨hb.1, by simp, c, hc, hb.2.2.2.2.2.2.2 c hc⟩ rfl (by simp)
        (hb.noSuspendedPhase (by simp [hp])) (by simp) (by simp) (by simp [Phase.usesFlow])
    · have hg := h.2 k
      refine gridSound_at (x := x) (q := c.pos) hg (fun r hr => by simp [setCell_cell_ne _ _ hr]) (by simp)
        (gridSound_other_free hg hst) (fun r p hr => ?_) ?_
      · rw [hst] at hr
        cases hr
        rfl
      · have := ((gridSound_iff s).mp hg c.pos).2 x true hst
        simp [Boom.stand, hc, this.1]
  have ha := hk.askFlow (x := x) (by simp [Phase.usesFlow]) .collar
  split
  · exact (ha _).takeBaseFeed x
  · exact ha _

theorem Kept.takeStall (h : Kept g s) (hp : (s.boom x).phase = .drilling) : Kept g (Machine.takeStall x s) := by
  have hb := h.1 x
  have hk : Kept g (s.setBoom x { s.boom x with
      progressTime := 0, stallTime := 0, ctx := (s.boom x).ctx.map fun c => { c with stallCount := c.stallCount + 1 } }) := by
    have hm := h.modCtx x (f := fun c => { c with stallCount := c.stallCount + 1 }) (fun _ => rfl) (fun _ hr => hr)
    have := hm.aside x (b := { s.boom x with
      progressTime := 0, stallTime := 0, ctx := (s.boom x).ctx.map fun c => { c with stallCount := c.stallCount + 1 } })
      (by simp [Boom.gist])
    simpa using this
  unfold Machine.takeStall
  simp only [modBoom_eq]
  split
  · exact hk
  · split
    · exact (hk.inWork (by simp [hp, Phase.hasContext]) (by simp [hp])).enterAborting _ _
    · exact hk.aside x (by simp only [setBoom_boom]; rfl)

theorem Kept.endBackOff (h : Kept g s) (x : Side) : Kept g (Machine.endBackOff x s) := h.aside x rfl

/-- A steel added: the hole goes on by the checks on entry to DRILLING. -/
theorem Kept.addSteel (h : Kept g s) (hp : (s.boom x).phase = .steelChange) : Kept g (Machine.addSteel x s) := by
  have hw := h.inWork (x := x) (by simp [hp, Phase.hasContext]) (by simp [hp])
  have hs := (h.1 x).noSuspendedPhase (by simp [hp])
  unfold Machine.addSteel
  split
  · exact h
  · next c hc =>
    have hon : ∀ (v : State) (classes : Vector (Option ClassRec) 8), During g x Boom.InWork v →
        (v.boom x).suspendedPhase = none → (v.boom x).ctx = some c → Kept g (Machine.goOn x
          (drillEntry (assess classes assessFuel) { c with steelCount := c.steelCount + 1 }) v) :=
      fun v classes hv hvs hvc => hv.goOn hvs hvc (drillEntry_drilled (assess_drilled classes assessFuel) _)
    have hu : During g x Boom.InWork (s.setBoom x { s.boom x with
        base := some ⟨c.steelCount * c.snap.steelLength, none⟩, waitReason := none }) :=
      hw.setBoom ⟨hw.own.magazine, hw.own.phase, hw.own.ctx⟩ rfl Iff.rfl
    refine hon _ _ ?_ ?_ ?_
    · split
      · exact hu
      · exact hu.setBoom ⟨hu.own.magazine, hu.own.phase, hu.own.ctx⟩ rfl Iff.rfl
    · split <;> simpa using hs
    · split <;> simpa using hc

end Sys2Proof.Machine
end

section
namespace Sys2Proof.Machine

variable {g : Prop} {x : Side} {s t : State} {P Q : Boom → Prop}

/-! ### Insertion -/

/-- BOLT_WAIT is entered from INSERTING with its wait reason. -/
theorem Kept.enterBoltWait (h : Kept g s) (hp : (s.boom x).phase = .inserting) : Kept g (Machine.enterBoltWait x s) := by
  have hb := h.1 x
  have hw := (h.inWork (x := x) (by simp [hp, Phase.hasContext]) (by simp [hp])).own
  refine (h.during x).waitIn _ ?_ rfl (by simp [hp])
  exact Boom.InWork.sound ⟨hw.magazine, by simp, hw.ctx⟩ rfl (by simp) (hb.noSuspendedPhase (by simp [hp])) (by simp)
    (by simp [Boom.heldPhase]) (by simp [hb.noFlow (by simp [hp, Phase.usesFlow])])

theorem Kept.selectCartridge (h : Kept g s) (hp : (s.boom x).phase = .inserting) : Kept g (Machine.selectCartridge x s) := by
  obtain ⟨hm, ha, hc', hs, hs', hh, hv, hr⟩ := h.1 x
  unfold Machine.selectCartridge
  split
  · exact h
  · next c hc =>
    split
    · exact h.enterBoltWait hp
    · split
      · exact h.waitFor x _
      · next front rest hmag =>
        split
        · refine (h.during x).sets ⟨?_, ha, ?_, hs, hs', hh, hv, ?_⟩ (by simp [hc]) Iff.rfl
          · rw [hmag, List.length_cons] at hm
            exact Nat.le_of_succ_le hm
          · simpa [hc] using hc'
          · rintro _ ⟨⟩
            exact hr c hc
        · exact h.waitFor x _

theorem During.enterInserting (h : During g x Boom.Entering s) : Kept g (Machine.enterInserting x s) := by
  have hw := h.own
  refine During.heldEntry ?_ rfl fun u hu hp => hu.selectCartridge hp
  exact h.setBoom ⟨⟨hw.magazine, hw.phase, hw.ctx⟩, hw.suspendedPhase, hw.view⟩ rfl Iff.rfl

theorem Kept.completePush (h : Kept g s) (x : Side) : Kept g (Machine.completePush x s) := by
  unfold Machine.completePush
  split
  · next hp _ =>
    split
    · refine Kept.selectCartridge (h.modCtx x (fun _ => rfl) (fun _ hr => hr)) ?_
      simpa using hp
    · exact h
  · exact h

theorem Kept.takeJam (h : Kept g s) (hp : (s.boom x).phase = .inserting) : Kept g (Machine.takeJam x s) := by
  have hk := h.modCtx x (f := fun c => { c with inFlight := none, jamCount := c.jamCount + 1 }) (fun _ => rfl) (fun _ hr => hr)
  unfold Machine.takeJam
  dsimp only
  split
  · exact hk
  · split
    · exact (hk.inWork (by simp [hp, Phase.hasContext]) (by simp [hp])).enterAborting _ _
    · exact hk.waitFor x _

theorem Kept.resumeInserting (h : Kept g s) (hp : (s.boom x).phase = .inserting) : Kept g (Machine.resumeInserting x s) := by
  unfold Machine.resumeInserting
  split
  · exact h
  · split
    · exact h.aside x rfl
    · split
      · exact h
      · exact h.selectCartridge hp

/-! ### Spin and torque -/

/-- The spin's start latches what belongs to the context and leaves what was drilled. -/
theorem Kept.startSpin (h : Kept g s) (x : Side) : Kept g (Machine.startSpin x s) := by
  refine h.modCtx x (fun c => ?_) (fun c hr => ?_)
  · split <;> rfl
  · split
    · exact hr
    · exact hr

theorem Kept.askSpin (h : Kept g s) (hp : (s.boom x).phase = .spinning) : Kept g (Machine.askSpin x s) := by
  have hk := h.askFlow (x := x) (by simp [hp, Phase.usesFlow]) .spin (s.boom x).snap.spinDemand
  unfold Machine.askSpin
  dsimp only
  split
  · exact hk.startSpin x
  · exact hk

theorem During.enterSpinning (h : During g x Boom.Entering s) : Kept g (Machine.enterSpinning x s) := by
  have hw := h.own
  refine During.heldEntry ?_ rfl fun u hu hp => hu.askSpin hp
  exact h.setBoom ⟨⟨hw.magazine, hw.phase, hw.ctx⟩, hw.suspendedPhase, hw.view⟩ rfl Iff.rfl

theorem Kept.endSpin (h : Kept g s) (hp : (s.boom x).phase = .spinning) : Kept g (Machine.endSpin x s) := by
  have hw := (h.inWork (x := x) (by simp [hp, Phase.hasContext]) (by simp [hp])).own
  unfold Machine.endSpin
  simp only [Machine.dropFlow, modBoom_eq, setBoom_boom, setBoom_setBoom]
  refine (h.during x).sets ?_ rfl (by simp [hp])
  exact Boom.InWork.sound ⟨hw.magazine, by simp, hw.ctx⟩ rfl (by simp) ((h.1 x).noSuspendedPhase (by simp [hp])) (by simp)
    (by simp [Boom.heldPhase]) (by simp [drop_view])

/-- A boom that torques is at work. -/
theorem Kept.torquing (h : Kept g s) (hp : (s.boom x).phase = .torquing) : During g x Boom.InWork s :=
  h.inWork (by simp [hp, Phase.hasContext]) (by simp [hp])

theorem Boom.phase_of_torquingActive {b : Boom} (h : b.torquingActive = true) : b.phase = .torquing := by
  simp only [Boom.torquingActive, Bool.and_eq_true, beq_iff_eq] at h
  exact h.1

theorem Kept.computeTorque (h : Kept g s) (x : Side) (bar : Nat) : Kept g (Machine.computeTorque x bar s) := by
  unfold Machine.computeTorque
  split
  · next ht =>
    have hk := h.modCtx x (f := fun c => { c with torque := max c.torque (torqueOf c.snap bar) }) (fun _ => rfl) (fun _ hr => hr)
    have hw := hk.torquing (x := x) (by simpa using Boom.phase_of_torquingActive ht)
    dsimp only
    split
    · exact hk
    · split
      · exact During.enterReleasing (hw.modCtx (fun _ => rfl) (fun _ hr => hr))
      · exact hk
  · exact h

theorem Kept.torqueBegins (h : Kept g s) (x : Side) : Kept g (Machine.torqueBegins x s) := by
  refine Kept.computeTorque (h.modCtx x (fun c => ?_) (fun c hr => ?_)) x _
  · split <;> rfl
  · split
    · exact hr
    · exact hr

theorem Kept.askTorque (h : Kept g s) (hp : (s.boom x).phase = .torquing) : Kept g (Machine.askTorque x s) := by
  have hk := h.askFlow (x := x) (by simp [hp, Phase.usesFlow]) .torque (s.boom x).snap.torqueDemand
  unfold Machine.askTorque
  split
  · next hl => exact h.takeLate hl
  · dsimp only
    split
    · exact hk.torqueBegins x
    · exact hk

theorem During.enterTorquing (h : During g x Boom.Entering s) : Kept g (Machine.enterTorquing x s) := by
  have hw := h.own
  have hiff : Phase.torquing = .positioning ↔ (s.boom x).phase = .positioning := by simp [hw.phase]
  unfold Machine.enterTorquing
  simp only [modBoom_eq, setBoom_boom]
  split
  · exact During.takeLate (h.setBoom ⟨hw.magazine, by simp, hw.ctx⟩ rfl hiff)
  · refine During.heldEntry ?_ rfl fun u hu hp => hu.askTorque hp
    exact h.setBoom ⟨⟨hw.magazine, by simp, hw.ctx⟩, hw.suspendedPhase, hw.view⟩ rfl hiff

theorem Kept.takePulse (h : Kept g s) (x : Side) : Kept g (Machine.takePulse x s) := by
  unfold Machine.takePulse
  split
  · next ht =>
    have hk := h.modCtx x (f := fun c => { c with turns := c.turns + 1 }) (fun _ => rfl) (fun _ hr => hr)
    have hw := hk.torquing (x := x) (by simpa using Boom.phase_of_torquingActive ht)
    dsimp only
    split
    · exact hk
    · split
      · exact During.enterReleasing (hw.modCtx (fun _ => rfl) (fun _ hr => hr))
      · exact hk
  · exact h

/-! ### Grants, take-backs, refusals -/

theorem Kept.motionBegins (h : Kept g s) (x : Side) : Kept g (Machine.motionBegins x s) := by
  unfold Machine.motionBegins
  split
  · exact h.feedBegins x
  · exact h.feedBegins x
  · exact h.retractBegins x
  · exact h.retractBegins x
  · exact h.retractBegins x
  · exact h.retractBegins x
  · exact h.startSpin x
  · exact h.torqueBegins x
  · exact h

/-- A boom that waits for flow or holds it is in a motion's state. -/
theorem Kept.usesFlow (h : Kept g s) {v : FlowView} (hv : (s.boom x).port.view = v) (hn : v ≠ .none) :
    (s.boom x).phase.usesFlow = true :=
  (h.1 x).2.2.2.2.2.2.1 (hv ▸ hn)

theorem Kept.setPort (h : Kept g s) (x : Side) {p : FlowPort} (hu : (s.boom x).phase.usesFlow = true) :
    Kept g (s.setBoom x { s.boom x with port := p }) :=
  (h.during x).sets ((h.1 x).setPort fun _ => hu) rfl Iff.rfl

theorem Kept.takeGrant (h : Kept g s) (x : Side) (k : Nat) : Kept g (Machine.takeGrant x k s) := by
  unfold Machine.takeGrant
  split
  · next hv =>
    split
    · next hl => exact h.takeLate hl
    · exact (h.setPort x (h.usesFlow hv (by simp))).motionBegins x
  · exact h

theorem Kept.takeTakeBack (h : Kept g s) (x : Side) (k : Nat) : Kept g (Machine.takeTakeBack x k s) := by
  unfold Machine.takeTakeBack
  split
  · next hv =>
    have hu : (s.boom x).phase.usesFlow = true := hv.elim (fun hv => h.usesFlow hv (by simp)) fun hv => h.usesFlow hv (by simp)
    have hk : Kept g (s.setBoom x { s.boom x with port := { (s.boom x).port with view := .none }, stallTime := 0 }) := by
      have := (h.setPort x (p := { (s.boom x).port with view := .none }) hu).aside x
        (b := { s.boom x with port := { (s.boom x).port with view := .none }, stallTime := 0 }) (by rw [setBoom_boom]; rfl)
      rwa [setBoom_setBoom] at this
    exact Kept.lateCheck (hk.askFlow (by simpa using hu) _ _) x
  · exact h

theorem Kept.takeRefusal (h : Kept g s) (x : Side) (k : Nat) : Kept g (Machine.takeRefusal x k s) := by
  unfold Machine.takeRefusal
  split
  · next hv =>
    have hu := h.usesFlow hv (by simp)
    have hk := h.setPort x (p := { (s.boom x).port with view := .none }) hu
    have hne : (s.boom x).phase.hasContext = true ∧ (s.boom x).phase ≠ .positioning := by
      revert hu
      cases (s.boom x).phase <;> simp [Phase.usesFlow, Phase.hasContext]
    have hw : During g x Boom.InWork (s.setBoom x { s.boom x with port := { (s.boom x).port with view := .none } }) :=
      hk.inWork (by simpa using hne.1) (by simpa using hne.2)
    have hc := (hk.1 x).ctx_ne (by simpa using hne.1)
    simp only [modBoom_eq]
    split
    · exact hw.enterAborting _ _
    · exact hw.enterAborting _ _
    · exact hk.secondFailure hc _
    · exact hk.secondFailure hc _
    · exact hw.enterAborting _ _
  · exact h

/-! ### Events at a boom -/

theorem Kept.confirmAtHole (h : Kept g s) (x : Side) : Kept g (Machine.confirmAtHole x s) := by
  unfold Machine.confirmAtHole
  split
  · exact h.modCtx x (fun _ => rfl) (fun _ hr => hr)
  · exact h

/-- A motion that feeds asks for its demand again, and judges its feed where it needs none. -/
theorem Kept.resumeFeed (h : Kept g s) (hu : (s.boom x).phase.usesFlow = true) : Kept g
    (if ((Machine.askFlow x (s.boom x).motion.1 (s.boom x).motion.2 s).boom x).port.view = .free
     then Machine.feedBegins x (Machine.askFlow x (s.boom x).motion.1 (s.boom x).motion.2 s)
     else Machine.askFlow x (s.boom x).motion.1 (s.boom x).motion.2 s) := by
  have hk := h.askFlow hu (s.boom x).motion.1 (s.boom x).motion.2
  split
  · exact hk.feedBegins x
  · exact hk

/-- A SUSPENDED boom goes on, once its last hold reason is gone. -/
theorem Kept.resumeBoom (h : Kept g s) (hp : (s.boom x).phase = .suspended) (hh : (s.boom x).holds = .empty) :
    Kept g (Machine.resumeBoom x s) := by
  have hb := h.1 x
  have hw := (h.inWork (x := x) (by simp [hp, Phase.hasContext]) (by simp [hp])).own
  have hv := hb.noFlow (by simp [hp, Phase.usesFlow])
  unfold Machine.resumeBoom
  split
  · exact h
  · next ph hph =>
    have hheld := (hb.2.2.2.1 ph hph).2
    have hne : ph.hasContext = true ∧ ph ≠ .positioning ∧ ph ≠ .assessing ∧ ph ≠ .suspended := by
      revert hheld
      cases ph <;> simp [Phase.isHeld, Phase.hasContext]
    have hk : Kept g (s.modBoom x fun b => { b with phase := ph, suspendedPhase := none }) := by
      refine (h.during x).sets ?_ rfl (by simp [hp, hne.2.1])
      exact Boom.InWork.sound ⟨hw.magazine, hne.2.1, hw.ctx⟩ hne.1 hne.2.2.1 rfl hne.2.2.2 (fun _ => hh) (by simp [hv])
    have hup : ((s.modBoom x fun b => { b with phase := ph, suspendedPhase := none }).boom x).phase = ph := by simp
    dsimp only
    split
    · exact hk.resumeFeed (by rw [hup]; rfl)
    · exact hk.resumeFeed (by rw [hup]; rfl)
    · exact hk.askRetract (by rw [hup]; rfl)
    · exact hk.askRetract (by rw [hup]; rfl)
    · exact hk.resumeInserting hup
    · exact hk.askSpin hup
    · exact hk.askTorque hup
    · exact hk

theorem Kept.pressDeadman (h : Kept g s) (x : Side) : Kept g (Machine.pressDeadman x s) := by
  have hr : Kept g (Machine.removeHold x (fun k => { k with deadman := false }) s) := h.removeHold x rfl
  unfold Machine.pressDeadman
  dsimp only
  split
  · next hp =>
    split
    · exact h.startHole hp
    · exact hr
  · next hp =>
    split
    · next ho =>
      refine hr.resumeBoom (by simpa [Machine.removeHold] using hp) ?_
      simp only [Holds.onlyDeadman, Bool.and_eq_true, Bool.not_eq_true'] at ho
      simp [Machine.removeHold, ho, Holds.empty]
    · exact hr
  · exact hr

theorem Kept.boomStops (h : Kept g s) (x : Side) : Kept g (Machine.boomStops x s) := by
  have hb := h.1 x
  have hstop (hp : (s.boom x).phase.hasContext = true) : Kept g (Machine.stopHole x .stopped s) :=
    (h.during x).stopHole hb.1 (hb.ctx_ne hp) _
  have hquit (hp : (s.boom x).phase.hasContext = false) : Kept g (Machine.enterStopped x s) :=
    ((h.during x).imp fun k => k.quit hp).enterStopped
  unfold Machine.boomStops
  dsimp only
  split
  case h_1 | h_2 => exact h
  case h_3 hp => exact (hquit (by rw [hp]; rfl)).raiseFlag _ _ _ _
  case h_4 hp => exact (hquit (by rw [hp]; rfl)).raiseFlag _ _ _ _
  case h_5 hp =>
    exact ((h.during x).releaseClaim hb.1 (hb.ctx_ne (by rw [hp]; rfl))).enterStopped.raiseFlag _ _ _ _
  all_goals
    next hp => exact hstop (by rw [hp]; rfl)

theorem Kept.takePressureChange (h : Kept g s) (x : Side) (bar : Nat) : Kept g (Machine.takePressureChange x bar s) := by
  unfold Machine.takePressureChange
  dsimp only
  refine Kept.computeTorque ?_ x bar
  split
  · exact h.aside x rfl
  · exact h

theorem Kept.takeFeedHome (h : Kept g s) (x : Side) : Kept g (Machine.takeFeedHome x s) := by
  unfold Machine.takeFeedHome
  split
  · exact h.retractDone x
  · exact h

/-- A boom that waits for the operator, its flow given up, is ready for its next phase. -/
theorem Kept.entering (h : Kept g s) (hc : (s.boom x).phase.hasContext = true) (hn : (s.boom x).phase ≠ .positioning)
    (hs : (s.boom x).phase ≠ .suspended) (hv : (s.boom x).phase.usesFlow = false) : During g x Boom.Entering s :=
  (h.inWork hc hn).imp fun hw => ⟨hw, (h.1 x).noSuspendedPhase hs, (h.1 x).noFlow hv⟩

theorem Kept.takeBoltPresent (h : Kept g s) (x : Side) : Kept g (Machine.takeBoltPresent x s) := by
  unfold Machine.takeBoltPresent
  split
  · next hp => exact During.enterSpinning (h.entering (by rw [hp]; rfl) (by simp [hp]) (by simp [hp]) (by rw [hp]; rfl))
  · exact h

end Sys2Proof.Machine
end

section
namespace Sys2Proof.Machine

variable {g : Prop} {x : Side} {s t : State} {P Q : Boom → Prop}

/-! ### What the other blocks do leaves the booms' gists and the cells -/

section
variable (s : State)

@[simp] theorem gist_setFlagRec (f : Flag) (r : FlagRec) : (s.setFlagRec f r).gist = s.gist := rfl

@[simp] theorem gist_raiseFlag (f : Flag) (b : Option Side) (p : Option Pos) (r : Nat) : (raiseFlag f b p r s).gist = s.gist := by
  rw [raiseFlag_only]
  rfl

@[simp] theorem gist_setLines (ls : Vector LineRec 32) : (setLines ls s).gist = s.gist := by
  rw [setLines_only]
  rfl

@[simp] theorem gist_setLine (i : Fin 32) (l : LineRec) : (setLine i l s).gist = s.gist := gist_setLines s _

@[simp] theorem gist_settleLines : (settleLines s).gist = s.gist := gist_setLines s _

@[simp] theorem gist_settle : (settle s).gist = s.gist := by
  rw [settle_only]
  rfl

@[simp] theorem gist_uplinkChoose (r : Bool) : (uplinkChoose r s).gist = s.gist := by
  rw [uplinkChoose_only]
  rfl

@[simp] theorem gist_handBoom (y : Side) (e : BoomEvent) : (s.handBoom y e).gist = s.gist := gist_setBoom rfl

@[simp] theorem gist_handBooms (e : BoomEvent) : (s.handBooms e).gist = s.gist :=
  (gist_handBoom _ .b e).trans (gist_handBoom s .a e)

@[simp] theorem gist_takeEvent (y : Side) (e : BoomEvent) : (s.takeEvent y e).gist = s.gist := gist_setBoom rfl

@[simp] theorem gist_dropEvents (y : Side) (k : Nat) : (s.dropEvents y k).gist = s.gist := gist_setBoom rfl

@[simp] theorem gist_handCanopy (e : CanopyEvent) : (s.handCanopy e).gist = s.gist := rfl

@[simp] theorem gist_modCanopy (f : Canopy → Canopy) : (s.modCanopy f).gist = s.gist := rfl

@[simp] theorem gist_openStopLoop : (openStopLoop s).gist = s.gist := gist_handBooms _ _

/-- A consumer's messages change and its view stays. -/
theorem gist_setPort (k : Consumer) {p : FlowPort} (h : p.view = (s.port k).view) : (s.setPort k p).gist = s.gist := by
  cases k with
  | canopy => rfl
  | boom y => exact gist_setBoom (by simp only [Boom.gist, h]; rfl)

@[simp] theorem gist_handFlow (k : Consumer) (m : FlowMsg) : (handFlow k m s).gist = s.gist := gist_setPort s k rfl

@[simp] theorem gist_popFlow (k : Consumer) : (popFlow k s).gist = s.gist := gist_setPort s k rfl

@[simp] theorem gist_popRefusal (k : Consumer) (n : Nat) : (popRefusal k n s).gist = s.gist := gist_popFlow s k

theorem gist_handAll (m : FlowEntry → FlowMsg) (es : List FlowEntry) :
    (es.foldl (fun s e => handFlow e.consumer (m e) s) s).gist = s.gist := by
  induction es generalizing s with
  | nil => rfl
  | cons e es ih => exact (ih _).trans (gist_handFlow s _ _)

@[simp] theorem gist_grantCheck : (grantCheck s).gist = s.gist := by
  unfold grantCheck
  split
  · rfl
  · exact gist_handAll _ (fun e => .grant e.ticket) _

@[simp] theorem gist_takeRelease (gone : FlowEntry → Bool) : (takeRelease gone s).gist = s.gist := by
  unfold takeRelease
  split
  · exact gist_grantCheck _
  · rfl

@[simp] theorem gist_takeRequest (k : Consumer) (d : Nat) (m : Motion) (n : Nat) : (takeRequest k d m n s).gist = s.gist := by
  unfold takeRequest
  dsimp only
  split
  · exact (gist_handFlow _ _ _).trans (gist_takeRelease s _)
  · exact (gist_grantCheck _).trans (gist_takeRelease s _)

@[simp] theorem gist_requestArrives (k : Consumer) : (requestArrives k s).gist = s.gist := by
  unfold requestArrives
  dsimp only
  split
  · exact (gist_takeRequest _ _ _ _ _).trans (gist_setPort s k rfl)
  · rfl

@[simp] theorem gist_releaseArrives (k : Consumer) : (releaseArrives k s).gist = s.gist := by
  unfold releaseArrives
  dsimp only
  split
  · exact (gist_takeRelease _ _).trans (gist_setPort s k rfl)
  · rfl

@[simp] theorem gist_viewFalls : (viewFalls s).gist = s.gist :=
  (gist_raiseFlag _ _ _ _ _).trans (gist_handAll _ (fun e => .takeBack e.ticket) _)

@[simp] theorem gist_viewRises : (viewRises s).gist = s.gist := gist_grantCheck _

@[simp] theorem gist_popPump : (popPump s).gist = s.gist := rfl

@[simp] theorem gist_refuseOver (n : Nat) : (refuseOver n s).gist = s.gist := gist_handAll _ (fun e => .refusal e.ticket) _

/-! ### The canopy -/

@[simp] theorem gist_canopyTo (st : CanopyState) : (canopyTo st s).gist = s.gist := by
  unfold canopyTo
  dsimp only
  split
  · exact gist_handBooms _ _
  · split
    · exact gist_handBooms _ _
    · rfl

@[simp] theorem gist_canopyEntersSet : (canopyEntersSet s).gist = s.gist := gist_canopyTo _ _

@[simp] theorem gist_raiseFails (f : CanopyFailure) : (raiseFails f s).gist = s.gist :=
  (gist_raiseFlag _ _ _ _ _).trans (gist_canopyTo _ _)

@[simp] theorem gist_takePressure (high : Bool) : (takePressure high s).gist = s.gist := by
  unfold takePressure
  split
  · exact gist_canopyTo _ _
  all_goals rfl

@[simp] theorem gist_adopt : (adopt s).gist = s.gist := by
  unfold adopt
  split
  · exact gist_takePressure _ _
  · rfl

@[simp] theorem gist_pressureUnbound : (pressureUnbound s).gist = s.gist := by
  unfold pressureUnbound
  split
  · exact gist_canopyTo _ _
  · exact gist_canopyTo _ _
  · exact gist_canopyTo _ _
  all_goals rfl

@[simp] theorem gist_canopyIsLost : (canopyIsLost s).gist = s.gist := (gist_raiseFlag _ _ _ _ _).trans (gist_canopyTo _ _)

@[simp] theorem gist_canopyStops : (canopyStops s).gist = s.gist := by
  unfold canopyStops
  split
  · exact gist_canopyTo _ _
  · exact gist_canopyTo _ _
  · rfl

@[simp] theorem gist_canopyGrant (n : Nat) : (canopyGrant n s).gist = s.gist := by
  unfold canopyGrant
  split <;> rfl

@[simp] theorem gist_canopyTakenBack (n : Nat) : (canopyTakenBack n s).gist = s.gist := by
  unfold canopyTakenBack
  split
  · exact gist_raiseFails _ _
  · rfl

@[simp] theorem gist_canopyRefused (n : Nat) : (canopyRefused n s).gist = s.gist := by
  unfold canopyRefused
  split
  · exact gist_raiseFails _ _
  · rfl

@[simp] theorem gist_takeCanopyEvent (e : CanopyEvent) : (takeCanopyEvent e s).gist = s.gist := rfl

/-! ### Lines -/

@[simp] theorem gist_handEdge (fn : Fn) (high : Bool) : (handEdge fn high s).gist = s.gist := by
  have hite (y : Side) (e : BoomEvent) : (if high = true then s.handBoom y e else s).gist = s.gist := by
    split
    · exact gist_handBoom s y e
    · rfl
  unfold handEdge
  split
  · exact gist_handBoom _ _ _
  · exact hite _ _
  · exact hite _ _
  · exact hite _ _
  · exact hite _ _
  · exact hite _ _
  · rfl
  · exact gist_handBooms _ _
  · split
    · rfl
    · exact gist_openStopLoop s
  · rfl

@[simp] theorem gist_handValue (b : Binding) (n : Nat) : (handValue b n s).gist = s.gist := by
  unfold handValue
  split
  · exact gist_handBoom _ _ _
  · exact gist_handBoom _ _ _
  · rfl

@[simp] theorem gist_takeTerminal (i : Fin 32) (l : LineRec) : (takeTerminal i l s).gist = s.gist := by
  unfold takeTerminal
  dsimp only
  split
  · exact gist_setLine s _ _
  · split
    · exact (gist_handEdge _ _ _).trans (gist_setLine s _ _)
    · exact gist_setLine s _ _

@[simp] theorem gist_presentLevel (i : Fin 32) (a b : Bool) : (presentLevel i a b s).gist = s.gist := by
  unfold presentLevel
  dsimp only
  split
  · exact gist_takeTerminal s _ _
  · exact gist_setLine s _ _

@[simp] theorem gist_presentCount (i : Fin 32) (n : Nat) : (presentCount i n s).gist = s.gist := by
  unfold presentCount
  dsimp only
  split
  · split
    · exact (gist_handValue _ _ _).trans (gist_setLine s _ _)
    · exact gist_setLine s _ _
  · exact gist_setLine s _ _

@[simp] theorem gist_takeOpening : (takeOpening s).gist = s.gist :=
  (gist_settleLines _).trans (gist_raiseFlag _ _ _ _ _)

@[simp] theorem gist_dropOnWay (fn : Fn) : (dropOnWay fn s).gist = s.gist := by
  unfold dropOnWay
  split
  · split
    · exact gist_dropEvents _ _ _
    · rfl
  · rfl
  · exact (gist_dropEvents _ _ _).trans (gist_dropEvents _ _ _)
  · rfl

@[simp] theorem gist_bindEffect (fn : Fn) : (bindEffect fn s).gist = s.gist := by
  unfold bindEffect
  split
  · exact gist_adopt s
  · split
    · exact gist_viewRises s
    · rfl
  · split
    · rfl
    · exact gist_openStopLoop s
  · rfl

@[simp] theorem gist_unbindEffect (fn : Fn) : (unbindEffect fn s).gist = s.gist := by
  unfold unbindEffect
  split
  · exact gist_pressureUnbound s
  · split
    · exact gist_viewFalls s
    · rfl
  · rfl
  · rfl

/-! ### Requests that concern no boom and no cell -/

@[simp] theorem gist_clearFlags (flags : List Flag) (p : Flag → Bool) :
    (flags.foldl (fun s f => if p f then clearFlag f s else s) s).gist = s.gist := by
  induction flags generalizing s with
  | nil => rfl
  | cons f flags ih =>
    refine (ih _).trans ?_
    dsimp only
    split <;> rfl

theorem gist_reqClear (hi lo : Byte) : (reqClear hi lo s).1.gist = s.gist := by
  unfold reqClear
  dsimp only
  split
  · rfl
  · dsimp only [accept]
    split <;> simp

theorem gist_reqNoticeSet (f e l : Byte) : (reqNoticeSet f e l s).1.gist = s.gist := by
  unfold reqNoticeSet
  split
  · split
    · rfl
    · split <;> rfl
  · rfl

theorem gist_reqLineConfig (l m p n k : Byte) : (reqLineConfig l m p n k s).1.gist = s.gist := by
  unfold reqLineConfig
  split
  · dsimp only
    split
    · rfl
    · dsimp only [accept]
      split <;> simp
  · rfl

theorem gist_unbindLine (i : Fin 32) : (unbindLine i s).1.gist = s.gist := by
  unfold unbindLine
  dsimp only
  split
  · rfl
  · split
    · rfl
    · exact (gist_unbindEffect _ _).trans (gist_dropOnWay _ _)

theorem gist_bindLine (i : Fin 32) (fn : Fn) (sc : Scaling) : (bindLine i fn sc s).1.gist = s.gist := by
  unfold bindLine
  dsimp only
  iterate 5
    split
    · rfl
  exact gist_bindEffect _ _

theorem gist_reqLineBind (l f hi lo o p : Byte) : (reqLineBind l f hi lo o p s).1.gist = s.gist := by
  unfold reqLineBind
  split
  · rfl
  · split
    · exact gist_unbindLine s _
    · split
      · rfl
      · split
        · rfl
        · exact gist_bindLine s _ _ _

theorem gist_reqLineRead : (reqLineRead s).1.gist = s.gist := gist_setLines s _

theorem gist_reqLineWrite (l v : Byte) : (reqLineWrite l v s).1.gist = s.gist := by
  unfold reqLineWrite
  split
  · rfl
  · dsimp only
    repeat' split
    all_goals rfl

theorem gist_reqClassWrite (i : Byte) (r : List Byte) : (reqClassWrite i r s).1.gist = s.gist := by
  unfold reqClassWrite
  split
  · split <;> rfl
  · rfl

theorem gist_reqClassRead (i : Byte) : (reqClassRead i s).1.gist = s.gist := by
  unfold reqClassRead
  split <;> rfl

theorem gist_reqStrataWrite (f : Byte) (r : List Byte) : (reqStrataWrite f r s).1.gist = s.gist := by
  unfold reqStrataWrite
  split
  · split <;> rfl
  · split <;> rfl
  · rfl

theorem gist_reqStrataRead (b : Byte) : (reqStrataRead b s).1.gist = s.gist := by
  unfold reqStrataRead
  split <;> rfl

theorem gist_reqTempWrite (b : List Byte) : (reqTempWrite b s).1.gist = s.gist := by
  unfold reqTempWrite
  dsimp only
  split
  · split <;> rfl
  · rfl

theorem gist_reqCellRead (a b : Byte) : (reqCellRead a b s).1.gist = s.gist := by
  unfold reqCellRead
  split <;> rfl

theorem gist_reqBoomRead (b : Byte) : (reqBoomRead b s).1.gist = s.gist := by
  unfold reqBoomRead
  split <;> rfl

theorem gist_reqPumpSet (b : Byte) : (reqPumpSet b s).1.gist = s.gist := by
  unfold reqPumpSet
  dsimp only
  split
  · rfl
  · split
    · rfl
    · dsimp only [accept]
      split <;> simp

theorem gist_reqCanopyRaise (d : Byte) : (reqCanopyRaise d s).1.gist = s.gist := by
  unfold reqCanopyRaise
  dsimp only
  iterate 4
    split
    · rfl
  exact gist_canopyTo _ _

theorem gist_reqCanopyLower : (reqCanopyLower s).1.gist = s.gist := by
  have hlower : (if s.anyWorking || s.loopOpen then refuse .refusedState s
      else accept [byteOf CanopyState.lowering.code]
        (canopyTo .lowering ((dropCanopyFlow s).modCanopy fun k => { k with lowerTime := 0 }))).1.gist = s.gist := by
    split
    · rfl
    · exact gist_canopyTo _ _
  unfold reqCanopyLower
  split
  · rfl
  · split
    case h_1 | h_2 | h_3 => rfl
    case h_4 | h_5 | h_6 => exact hlower

theorem gist_setSlot (y : Side) (v : Option Slot) : (s.setSlot y v).gist = s.gist := by cases y <;> rfl

theorem gist_reqRecordFetch (b : Byte) : (reqRecordFetch b s).1.gist = s.gist := by
  unfold reqRecordFetch
  split
  · rfl
  · split
    · rfl
    · exact gist_setSlot _ _ _

theorem gist_reqRecordRelease (b c r : Byte) : (reqRecordRelease b c r s).1.gist = s.gist := by
  unfold reqRecordRelease
  split
  · split
    · rfl
    · split
      · exact gist_setSlot _ _ _
      · rfl
  · rfl

end

end Sys2Proof.Machine
end

section
namespace Sys2Proof.Machine

variable {g : Prop} {x : Side} {s t : State} {P Q : Boom → Prop}

/-! ### The grid's own requests -/

/-- A cell that is neither CLAIMED nor WORKING may become another such cell. -/
theorem Kept.setCell (h : Kept g s) {q : Pos} {c : Cell} (h1 : (s.cell q).state ≠ .claimed) (h2 : (s.cell q).state ≠ .working)
    (k1 : c.state ≠ .claimed) (k2 : c.state ≠ .working) : Kept g (s.setCell q c) := by
  refine ⟨fun y => by simpa using h.1 y, fun k => (gridSound_iff _).mpr fun r => ?_⟩
  have hg := h.2 k
  by_cases hr : r = q
  · subst hr
    refine ⟨fun hc => ?_, fun y p hy => ?_⟩
    · rw [setCell_cell] at hc
      exact (hc.elim k1 k2).elim
    · rw [setCell_boom] at hy
      exact absurd hy (gridSound_free hg h1 h2 y p)
  · simpa only [setCell_cell_ne s c hr, setCell_boom] using (gridSound_iff s).mp hg r

/-- Booms at their power-on values over an empty grid. -/
theorem kept_fresh (hc : s.cells = .replicate 96 .blank) (ha : s.boomA = .powerOn) (hb : s.boomB = .powerOn) : Kept g s := by
  have hboom : ∀ y, s.boom y = .powerOn := by
    intro y
    cases y
    · exact ha
    · exact hb
  refine ⟨fun y => ?_, fun _ q => ⟨fun hq => ?_, fun y c hy => ?_⟩⟩
  · rw [hboom]
    exact Boom.Quit.sound ⟨by decide, rfl, rfl, rfl⟩ rfl
  · simp [State.cell, hc, Cell.blank] at hq
  · rw [hboom] at hy
    simp [Boom.powerOn] at hy

theorem Kept.reqPatternDefine (h : Kept g s) (xs xe ys ye oA mxA myA oB mxB myB clr : Byte) :
    Kept g (Machine.reqPatternDefine xs xe ys ye oA mxA myA oB mxB myB clr s).1 := by
  unfold Machine.reqPatternDefine
  split
  · split
    · exact h
    · split
      · exact h
      · next hi =>
        have hidle : ∀ y, (s.boom y).phase = .idle := by
          simp only [State.bothIdle, Bool.not_eq_true', Bool.not_eq_false, Bool.and_eq_true, beq_iff_eq] at hi
          intro y
          cases y
          · exact hi.1
          · exact hi.2
        have hctx : ∀ y, (s.boom y).ctx = none := fun y => ((h.1 y).quit (by rw [hidle]; rfl)).ctx
        refine ⟨fun y => ?_, fun _ q => ⟨fun hq => ?_, fun y c hy => ?_⟩⟩
        · cases y
          · exact Boom.sound_of_gist (a := s.boomA) rfl (h.1 .a)
          · exact Boom.sound_of_gist (a := s.boomB) rfl (h.1 .b)
        · simp [State.cell, accept, Cell.blank, State.setBoom] at hq
        · have : (s.boom y).ctx = some c := by
            cases y
            · exact hy
            · exact hy
          simp [hctx] at this
  · exact h

theorem markCell_free (k : Nat) (c : Cell) : (markCell k c).state ≠ .claimed ∧ (markCell k c).state ≠ .working := by
  unfold markCell
  dsimp only
  split <;> simp

/-- Cells that are neither CLAIMED nor WORKING, marked one after another. -/
theorem Kept.markCells (h : Kept g s) (k : Nat) (cells : List Pos)
    (hf : ∀ q ∈ cells, (s.cell q).state ≠ .claimed ∧ (s.cell q).state ≠ .working) :
    Kept g (cells.foldl (fun s q => s.setCell q (markCell k (s.cell q))) s) := by
  induction cells generalizing s with
  | nil => exact h
  | cons q cells ih =>
    obtain ⟨h1, h2⟩ := hf q (by simp)
    refine ih (h.setCell h1 h2 (markCell_free _ _).1 (markCell_free _ _).2) fun r hr => ?_
    by_cases he : r = q
    · subst he
      rw [setCell_cell]
      exact markCell_free _ _
    · rw [setCell_cell_ne _ _ he]
      exact hf r (by simp [hr])

theorem Kept.reqCellMark (h : Kept g s) (x1 x2 y1 y2 cls : Byte) : Kept g (Machine.reqCellMark x1 x2 y1 y2 cls s).1 := by
  unfold Machine.reqCellMark
  split
  · exact h
  · split
    · next lo hi _ _ =>
      dsimp only
      split
      · exact h
      · split
        · exact h
        · split
          · exact h
          · next hu =>
            split
            · exact h
            · split
              · exact h
              · have hm := h.markCells cls.toNat (rectangle lo hi) (fun q hq => by
                  simp only [List.any_eq_true, not_exists, not_and, Bool.or_eq_true, not_or, beq_iff_eq] at hu
                  exact ⟨(hu q hq).1.1.1, (hu q hq).1.1.2⟩)
                refine Kept.completionCheck (Kept.reseekBoth ?_)
                split
                · exact hm.of_gist rfl
                · exact hm
    · exact h

/-- A boom's own claim becomes free as its context ends. -/
theorem Kept.claimLeft (h : Kept g s) {u : State} {q : Pos} {c : Cell} (hq : (s.cell q).state = .claimed)
    (hb : (s.cell q).boom = some x) (hbooms : ∀ y, u.boom y = s.boom y) (hcells : ∀ r, u.cell r = (s.setCell q c).cell r)
    (h1 : c.state ≠ .claimed) (h2 : c.state ≠ .working) : During g x Boom.Quit (endContext x u) := by
  refine ⟨endContext_quit (by rw [hbooms]; exact (h.1 x).1), by rw [endContext_other, hbooms]; exact h.1 _, fun k => ?_⟩
  have hg := h.2 k
  obtain ⟨y, d, hy, hd, rfl⟩ := (hg q).1 (.inl hq)
  obtain rfl : x = y := Option.some.inj (hb ▸ hy)
  refine gridSound_leave hg hd (fun r hr => ?_) (by rw [hbooms]) ?_ ?_
  · simp [hcells, setCell_cell_ne s _ hr]
  · rwa [hcells, setCell_cell]
  · rwa [hcells, setCell_cell]

/-- The own claim skipped: its cell is free as its context ends, and the boom seeks. -/
theorem Kept.skipOwnClaim (h : Kept g s) {q : Pos} (hq : (s.cell q).state = .claimed) (hb : (s.cell q).boom = some x) :
    Kept g (Machine.skipOwnClaim x q s) := by
  refine During.seekAmong (During.completionCheck ?_)
  exact h.claimLeft (c := { s.cell q with state := .skipped }) hq hb (fun y => by cases y <;> rfl) (fun _ => rfl) (by simp)
    (by simp)

theorem Kept.reqSkip (h : Kept g s) (boom a b : Byte) : Kept g (Machine.reqSkip boom a b s).1 := by
  unfold Machine.reqSkip
  split
  · next side q _ _ =>
    split
    · exact h
    · split
      · exact h
      · split
        · next hq =>
          have hk : Kept g (s.setCell q { s.cell q with state := .skipped, boom := none }) :=
            h.setCell (by simp [hq]) (by simp [hq]) (by simp) (by simp)
          refine Kept.completionCheck (Kept.reseekBoth ?_)
          exact hk.of_gist rfl
        · next hq hb =>
          split
          · next ho => exact (h.skipOwnClaim hq (ho ▸ hb)).reseekBoth.completionCheck
          · exact h
        · exact h
  · exact h

/-! ### The requests on a boom -/

theorem Kept.reqBoomStart (h : Kept g s) (boom : Byte) : Kept g (Machine.reqBoomStart boom s).1 := by
  unfold Machine.reqBoomStart
  split
  · exact h
  · next side _ =>
    split
    · exact h
    · next hp =>
      iterate 3
        split
        · exact h
      have hq : (s.boom side).Quit := (h.1 side).quit (by
        simp only [not_and, not_not, ne_eq] at hp
        by_cases hi : (s.boom side).phase = .idle
        · rw [hi]; rfl
        · rw [hp hi]; rfl)
      refine During.seek (x := side) ?_
      exact (h.during side).setBoom ⟨hq.magazine, hq.ctx, hq.suspendedPhase, hq.view⟩ rfl Iff.rfl

theorem Kept.reqBoomStop (h : Kept g s) (boom : Byte) : Kept g (Machine.reqBoomStop boom s).1 := by
  unfold Machine.reqBoomStop
  split
  · exact h
  · next side _ =>
    have hidle (hp : (s.boom side).phase.hasContext = false) : Kept g (Machine.enterIdle side s) :=
      ((h.during side).imp fun k => k.quit hp).enterIdle
    split
    case h_1 => exact h
    case h_2 hp => exact hidle (by rw [hp]; rfl)
    case h_3 hp => exact hidle (by rw [hp]; rfl)
    case h_4 hp => exact hidle (by rw [hp]; rfl)
    case h_5 hp => exact ((h.during side).releaseClaim (h.1 side).1 ((h.1 side).ctx_ne (by rw [hp]; rfl))).enterIdle
    all_goals exact h.aside side rfl

theorem Kept.reqAtHole (h : Kept g s) (boom : Byte) : Kept g (Machine.reqAtHole boom s).1 := by
  unfold Machine.reqAtHole
  split
  · exact h
  · split
    · exact h.confirmAtHole _
    · exact h

/-- PROCEED takes a boom past its wait, and leaves it sound. -/
theorem Kept.proceedFrom (h : Kept g s) (x : Side) (hp : Machine.proceedFrom x s = some t) : Kept g t := by
  unfold Machine.proceedFrom at hp
  dsimp only at hp
  split at hp
  · next hph =>
    split at hp <;> cases hp
    exact h.addSteel hph
  · next hph =>
    cases hp
    exact During.enterInserting (h.entering (by rw [hph]; rfl) (by simp [hph]) (by simp [hph]) (by rw [hph]; rfl))
  · next hph =>
    split at hp <;> cases hp
    have hk : Kept g (s.setBoom x { s.boom x with waitReason := none }) := by
      obtain ⟨hm, ha, hc, hs, hs', hh, hv, hr⟩ := h.1 x
      exact (h.during x).sets ⟨hm, ha, hc, hs, hs', fun _ => hh (by simp [Boom.heldPhase, hph]), hv, hr⟩ rfl Iff.rfl
    exact hk.selectCartridge (by simpa using hph)
  · next hph =>
    cases hp
    exact During.enterSpinning (h.entering (by rw [hph]; rfl) (by simp [hph]) (by simp [hph]) (by rw [hph]; rfl))
  · next hph =>
    cases hp
    exact ((h.during x).imp fun k => k.quit (by rw [hph]; rfl)).seek
  · cases hp

theorem Kept.reqProceed (h : Kept g s) (boom : Byte) : Kept g (Machine.reqProceed boom s).1 := by
  unfold Machine.reqProceed
  split
  · exact h
  · split
    · next hp => exact h.proceedFrom _ hp
    · exact h

theorem Kept.reqDecide (h : Kept g s) (boom choice hi lo cls : Byte) : Kept g (Machine.reqDecide boom choice hi lo cls s).1 := by
  unfold Machine.reqDecide
  split
  · next side ch _ _ =>
    dsimp only
    split
    · exact h
    · split
      · next c hp hc =>
        have hw := h.inWork (x := side) (by rw [hp]; rfl) (by simp [hp])
        have hs := (h.1 side).noSuspendedPhase (by simp [hp])
        have hu : During g side Boom.InWork
            (s.modBoom side fun b => { b with waitReason := none, ctx := some { c with hostDecided := true } }) :=
          hw.setBoom ⟨hw.own.magazine, hw.own.phase, _, rfl, (h.1 side).2.2.2.2.2.2.2 c hc⟩ (by simp [hc]) Iff.rfl
        have hus : ((s.modBoom side fun b =>
            { b with waitReason := none, ctx := some { c with hostDecided := true } }).boom side).suspendedPhase = none := by
          simpa using hs
        have huc : ((s.modBoom side fun b =>
            { b with waitReason := none, ctx := some { c with hostDecided := true } }).boom side).ctx =
              some { c with hostDecided := true } := by simp
        split
        · exact hu.moveOn hus huc rfl
        · exact hu.enterAborting _ _
        · split
          · exact h
          · exact hu.goOn hus huc (drillEntry_drilled (assess_drilled _ _) _)
        · split
          · exact h
          · split
            · exact h
            · exact hu.goOn hus huc (afterSubstitution_drilled (assess_drilled _ _) _)
      · exact h
  · exact h

theorem Kept.reqHold (h : Kept g s) (boom : Byte) : Kept g (Machine.reqHold boom s).1 := by
  unfold Machine.reqHold
  split
  · exact h
  · split
    · exact h.addHold _ _
    · exact h

theorem Kept.reqResume (h : Kept g s) (boom : Byte) : Kept g (Machine.reqResume boom s).1 := by
  unfold Machine.reqResume
  split
  · exact h
  · split
    · exact h.removeHold _ rfl
    · exact h

/-- The phase an ABORT acts by is the boom's own, or the held phase of its suspension. -/
theorem Kept.abortPhase (h : Kept g s) {ph : Phase} (hp : (s.boom x).abortPhase = ph) :
    (s.boom x).phase = ph ∨ (ph.isHeld = true ∨ ph = .suspended) := by
  unfold Boom.abortPhase at hp
  split at hp
  · rcases hs : (s.boom x).suspendedPhase with _ | p
    · rw [hs] at hp
      exact .inr (.inr hp.symm)
    · rw [hs] at hp
      exact .inr (.inl (hp ▸ ((h.1 x).2.2.2.1 p hs).2))
  · exact .inl hp

theorem Kept.reqAbort (h : Kept g s) (boom : Byte) : Kept g (Machine.reqAbort boom s).1 := by
  unfold Machine.reqAbort
  split
  · exact h
  · next side _ =>
    have habort {ph : Phase} {c : HoleCtx} (hp : (s.boom side).abortPhase = ph) (hc : (s.boom side).ctx = some c)
        (hn : ph ≠ .positioning) (o : HoleOutcome) : Kept g (Machine.enterAborting side o none s) := by
      refine During.enterAborting ((h.during side).imp fun k => k.inWork (by simp [hc]) fun hpos => hn ?_) _ _
      rw [← hp, Boom.abortPhase, hpos]
    split
    case h_1 hp hc =>
      exact ((h.during side).releaseClaim (h.1 side).1 (by simp [hc])).enterHalted _ _
    case h_13 | h_14 => exact h
    all_goals
      next hp hc => exact habort hp hc (by simp) _

theorem Kept.reqMagazineLoad (h : Kept g s) (boom purge count : Byte) (kinds : List Byte) :
    Kept g (Machine.reqMagazineLoad boom purge count kinds s).1 := by
  unfold Machine.reqMagazineLoad
  split
  · next side purge _ _ =>
    dsimp only
    generalize (if purge = true then [] else (s.boom side).magazine) = left
    split
    · next ks _ =>
      split
      · exact h
      · next hl =>
        obtain ⟨_, ha, hc, hs, hs', hh, hv, hr⟩ := h.1 side
        refine (h.during side).sets ⟨?_, ha, hc, hs, hs', hh, hv, hr⟩ rfl Iff.rfl
        simp only [magazineSize] at hl
        rw [List.length_append]
        omega
    · exact h
  · exact h

end Sys2Proof.Machine
end

section
namespace Sys2Proof.Machine

variable {g : Prop} {x : Side} {s t : State} {P Q : Boom → Prop}

/-! ### Frames -/

/-- The answer to a request of a named kind with a body length of its own keeps the booms sound and the grid in agreement. -/
theorem Kept.ownerAnswer (h : Kept g s) {kind : Nat} {body : List Byte} {ls : List Nat} (hk : bodyLengths kind = some ls)
    (hb : body.length ∈ ls) : Kept g (Machine.ownerAnswer kind body s).1 := by
  unfold bodyLengths at hk
  split at hk
  all_goals cases hk
  · match body, List.mem_singleton.mp hb with
    | [], _ => exact h
  · match body, List.mem_singleton.mp hb with
    | [_, _], _ => exact h.of_gist (gist_reqClear _ _ _)
  · match body, List.mem_singleton.mp hb with
    | [_, _, _], _ => exact h.of_gist (gist_reqNoticeSet _ _ _ _)
  · match body, List.mem_singleton.mp hb with
    | [], _ => exact h
  · match body, List.mem_singleton.mp hb with
    | [_, _, _, _, _], _ => exact h.of_gist (gist_reqLineConfig _ _ _ _ _ _)
  · match body, List.mem_singleton.mp hb with
    | [_, _, _, _, _, _], _ => exact h.of_gist (gist_reqLineBind _ _ _ _ _ _ _)
  · match body, List.mem_singleton.mp hb with
    | [], _ => exact h.of_gist (gist_reqLineRead _)
  · match body, List.mem_singleton.mp hb with
    | [_, _], _ => exact h.of_gist (gist_reqLineWrite _ _ _)
  · match body, hb with
    | a0 :: rest, _ => exact h.of_gist (gist_reqClassWrite _ _ _)
  · match body, List.mem_singleton.mp hb with
    | [_], _ => exact h.of_gist (gist_reqClassRead _ _)
  · match body, hb with
    | a0 :: rest, _ => exact h.of_gist (gist_reqStrataWrite _ _ _)
  · match body, List.mem_singleton.mp hb with
    | [_], _ => exact h.of_gist (gist_reqStrataRead _ _)
  · exact h.of_gist (gist_reqTempWrite _ _)
  · match body, List.mem_singleton.mp hb with
    | [_, _, _, _, _, _, _, _, _, _, _], _ => exact h.reqPatternDefine _ _ _ _ _ _ _ _ _ _ _
  · match body, List.mem_singleton.mp hb with
    | [_, _, _, _, _], _ => exact h.reqCellMark _ _ _ _ _
  · match body, List.mem_singleton.mp hb with
    | [_, _], _ => exact h.of_gist (gist_reqCellRead _ _ _)
  · match body, List.mem_singleton.mp hb with
    | [], _ => exact h
  · match body, List.mem_singleton.mp hb with
    | [_], _ => exact h.reqBoomStart _
  · match body, List.mem_singleton.mp hb with
    | [_], _ => exact h.reqBoomStop _
  · match body, List.mem_singleton.mp hb with
    | [_], _ => exact h.of_gist (gist_reqBoomRead _ _)
  · match body, List.mem_singleton.mp hb with
    | [_], _ => exact h.reqAtHole _
  · match body, List.mem_singleton.mp hb with
    | [_], _ => exact h.reqProceed _
  · match body, List.mem_singleton.mp hb with
    | [_, _, _, _, _], _ => exact h.reqDecide _ _ _ _ _
  · match body, List.mem_singleton.mp hb with
    | [_], _ => exact h.reqHold _
  · match body, List.mem_singleton.mp hb with
    | [_], _ => exact h.reqResume _
  · match body, List.mem_singleton.mp hb with
    | [_], _ => exact h.reqAbort _
  · match body, List.mem_singleton.mp hb with
    | [_, _, _], _ => exact h.reqSkip _ _ _
  · match body, hb with
    | a0 :: a1 :: a2 :: rest, _ => exact h.reqMagazineLoad _ _ _ _
  · match body, List.mem_singleton.mp hb with
    | [_], _ => exact h.of_gist (gist_reqPumpSet _ _)
  · match body, List.mem_singleton.mp hb with
    | [], _ => exact h
  · match body, List.mem_singleton.mp hb with
    | [_], _ => exact h.of_gist (gist_reqCanopyRaise _ _)
  · match body, List.mem_singleton.mp hb with
    | [], _ => exact h.of_gist (gist_reqCanopyLower _)
  · match body, List.mem_singleton.mp hb with
    | [_], _ => exact h.of_gist (gist_reqRecordFetch _ _)
  · match body, List.mem_singleton.mp hb with
    | [_, _, _], _ => exact h.of_gist (gist_reqRecordRelease _ _ _ _)

theorem Kept.answer (h : Kept g s) (kind : Byte) (body : List Byte) : Kept g (Machine.answer kind body s).1 := by
  unfold Machine.answer
  split
  · exact h
  · split
    · exact h
    · next hl =>
      simp only [lengthAllowed, Bool.not_eq_true', Bool.not_eq_false] at hl
      split at hl
      · cases hl
      · next ls hk =>
        simp only [Bool.and_eq_true, List.contains_iff_mem] at hl
        exact h.ownerAnswer hk hl.1

/-- What the link keeps concerns no boom and no cell. -/
theorem Kept.setLink (h : Kept g s) (l : Link) : Kept g { s with link := l } := h.of_gist rfl

theorem Kept.takeFrame (h : Kept g s) : Kept g (Machine.takeFrame s) := by
  unfold Machine.takeFrame
  split
  · exact Kept.setLink ((h.setLink _).answer _ _) _
  · exact h

theorem Kept.linkError (h : Kept g s) (cause : LinkCause) : Kept g (Machine.linkError cause s) := h.of_gist (gist_raiseFlag _ _ _ _ _)

theorem Kept.frameArrives (h : Kept g s) (f : Frame) : Kept g (Machine.frameArrives f s) := by
  unfold Machine.frameArrives
  split
  · exact (h.setLink _).takeFrame
  · exact h.linkError _

theorem Kept.settle (h : Kept g s) : Kept g (Machine.settle s) := h.of_gist (gist_settle s)

theorem Kept.hostSends (h : Kept g s) (kind tag : Byte) (body : List Byte) : Kept g (Machine.hostSends kind tag body s) :=
  (h.frameArrives _).settle

theorem Kept.discard (h : Kept g s) (cause : LinkCause) : Kept g (Machine.discard cause s) := Kept.linkError (h.setLink _) _

theorem Kept.takeByte (h : Kept g s) (bytes : List Byte) : Kept g (Machine.takeByte bytes s) := by
  unfold Machine.takeByte
  split
  · exact h
  · split
    · exact h.discard _
    · split
      · exact h.setLink _
      · split
        · split
          · exact (h.setLink _).frameArrives _
          · exact h.discard _
        · exact h.discard _

theorem Kept.receive (h : Kept g s) (data : Byte) (parity stop : Bool) : Kept g (Machine.receive data parity stop s) := by
  unfold Machine.receive
  split
  · split
    · exact h.setLink _
    · exact h
  · split
    · exact h.discard _
    · split
      · exact h.discard _
      · exact h.takeByte _

/-! ### Power-on, RESTART, the end of sending -/

theorem kept_powerUp (g : Prop) (s : State) : Kept g (powerUp s) := kept_fresh rfl rfl rfl

theorem kept_restartPart (g : Prop) (s : State) : Kept g (restartPart s) := by
  unfold restartPart
  refine Kept.of_gist (kept_fresh ?_ ?_ ?_) (((gist_setLines _ _).trans (gist_raiseFlag _ _ _ _ _)).trans (gist_adopt _))
  all_goals rfl

theorem Kept.sendingEnds (h : Kept g s) : Kept g (Machine.sendingEnds s) := by
  unfold Machine.sendingEnds
  split
  · exact h
  · exact h.of_gist (gist_uplinkChoose s _)
  · split
    · exact kept_restartPart g s
    · exact Kept.of_gist (Kept.takeFrame (h.setLink _)) ((gist_uplinkChoose _ _).trans (gist_settleLines _))

/-! ### A tenth of a second -/

/-- Time runs on timers and clocks alone. -/
theorem Kept.tick (h : Kept g s) : Kept g (Machine.tick s) := by
  have hboom : ∀ y, (Machine.tick s).boom y = tickBoom y s := by
    intro y
    cases y <;> rfl
  have hctx : ∀ y, ({ s.boom y with ctx := (s.boom y).ctx.map (tickCtx (s.boom y)) } : Boom).sound := fun y =>
    (h.1 y).setCtx (by simp) fun c hc => by
      obtain ⟨d, hd, rfl⟩ := Option.map_eq_some_iff.mp hc
      exact (h.1 y).2.2.2.2.2.2.2 d hd
  refine ⟨fun y => ?_, fun k => gridSound_congr (s := s) (fun q => ⟨rfl, rfl⟩) (fun y => ?_) (h.2 k)⟩
  · rw [hboom]
    exact Boom.sound_of_gist rfl (hctx y)
  · rw [hboom]
    simp [Boom.stand, tickBoom, tickCtx, Function.comp_def]

/-! ### Commands and steps -/

theorem Kept.onEvent (h : Kept g s) {side : Side} {e : BoomEvent} {effect : State → State}
    (he : ∀ u, Kept g u → Kept g (effect u)) : Kept g (Machine.onEvent side e effect s) := by
  unfold Machine.onEvent
  split
  · exact (he _ (h.of_gist (gist_takeEvent s side e))).settle
  · exact h

/-- An effect taken where its condition holds. -/
theorem Kept.onCondition (h : Kept g s) {c : Prop} [Decidable c] (hu : c → Kept g t) :
    Kept g (if c then Machine.settle t else s) := by
  split
  · next hc => exact (hu hc).settle
  · exact h

theorem phase_of_stallDue (h : pressureStallDue x s = true ∨ progressStallDue x s = true) : (s.boom x).phase = .drilling := by
  simp only [pressureStallDue, progressStallDue, Bool.and_eq_true, beq_iff_eq, and_assoc] at h
  exact h.elim And.left And.left

/-- A retraction under way is one of a boom at work. -/
theorem Kept.retracting (h : Kept g s) (hm : (s.boom x).retractMoving = true) :
    During g x Boom.InWork s ∧ (s.boom x).ctx ≠ none := by
  simp only [Boom.retractMoving, Bool.and_eq_true, Option.isSome_iff_ne_none] at hm
  obtain ⟨⟨_, hc⟩, hp⟩ := hm
  refine ⟨(h.during x).imp fun k => k.inWork hc fun hpos => ?_, hc⟩
  simp [hpos] at hp

theorem Kept.exec (h : Kept g s) {c : Instr} (he : Machine.exec c s = .next t) : Kept g t := by
  cases c
  case powerOn => cases he; exact kept_powerUp g s
  case characterReceived => cases he; exact (h.receive _ _ _).settle
  case gap => cases he; exact h.onCondition fun _ => h.discard _
  case unknownKind | badLength =>
    simp only [Machine.exec, execUnknownKind, execBadLength] at he
    split at he <;> cases he
    exact h.hostSends _ _ _
  case frameSent => cases he; exact h.sendingEnds.settle
  case partRestart => cases he; exact h.onCondition fun _ => kept_restartPart g s
  case digitalEdge => cases he; exact Kept.settle (h.of_gist (gist_presentLevel _ _ _ _))
  case analogChange => cases he; exact Kept.settle (h.of_gist (gist_presentCount _ _ _))
  case stopLoopOpen => cases he; exact h.onCondition fun _ => h.of_gist (gist_takeOpening s)
  case boomStopLoopOpen => cases he; exact h.onEvent fun u hu => hu.boomStops _
  case canopyStopLoopOpen =>
    cases he
    exact h.onCondition fun _ => h.of_gist ((gist_canopyStops _).trans (gist_takeCanopyEvent _ _))
  case deadmanPress => cases he; exact h.onEvent fun u hu => hu.pressDeadman _
  case deadmanRelease => cases he; exact h.onEvent fun u hu => hu.addHold _ _
  case atHoleRise => cases he; exact h.onEvent fun u hu => hu.confirmAtHole _
  case feedPositionChange =>
    cases he
    split
    · exact h.onEvent fun u hu => hu.judgeFeed _ _
    · exact h
  case rotationPressureChange =>
    cases he
    split
    · exact h.onEvent fun u hu => hu.takePressureChange _ _
    · exact h
  case pressureStall => cases he; exact h.onCondition fun hd => h.takeStall (phase_of_stallDue (.inl hd))
  case progressStall => cases he; exact h.onCondition fun hd => h.takeStall (phase_of_stallDue (.inr hd))
  case backOffEnd => cases he; exact h.onCondition fun _ => h.endBackOff _
  case feedHomeRise => cases he; exact h.onEvent fun u hu => hu.takeFeedHome _
  case retractTimeout =>
    cases he
    refine h.onCondition fun hd => ?_
    simp only [retractTimeoutDue, Bool.and_eq_true] at hd
    exact (h.retracting hd.1.1).1.enterAborting _ _
  case secondFailureTimeout =>
    cases he
    refine h.onCondition fun hd => ?_
    simp only [secondFailureDue, Bool.and_eq_true] at hd
    exact h.secondFailure (h.retracting hd.1.1).2 _
  case cartridgePass => cases he; exact h.onEvent fun u hu => hu.completePush _
  case jam => cases he; exact h.onCondition fun hd => h.takeJam ((jamDue_iff _ s).mp hd).1
  case boltPresentRise => cases he; exact h.onEvent fun u hu => hu.takeBoltPresent _
  case spinEnd =>
    cases he
    refine h.onCondition fun hd => h.endSpin ?_
    simp only [spinEndDue, Bool.and_eq_true, beq_iff_eq] at hd
    exact hd.1.1
  case holdEnd =>
    cases he
    refine h.onCondition fun hd => ?_
    simp only [holdEndDue, Bool.and_eq_true, beq_iff_eq] at hd
    exact During.enterTorquing (h.entering (by rw [hd.1]; rfl) (by simp [hd.1]) (by simp [hd.1]) (by rw [hd.1]; rfl))
  case tensionLate => cases he; exact h.onCondition fun hd => h.takeLate hd
  case rotationPulse => cases he; exact h.onEvent fun u hu => hu.takePulse _
  case reSeek side =>
    cases he
    exact h.onCondition fun hd => ((h.during side).imp fun k => k.quit (by rw [hd.1]; rfl)).seek
  case flowRequestArrival => cases he; exact Kept.settle (h.of_gist (gist_requestArrives _ _))
  case flowRelease => cases he; exact Kept.settle (h.of_gist (gist_releaseArrives _ _))
  case boomGrantTaken =>
    cases he
    split
    · exact Kept.settle (Kept.takeGrant (h.of_gist (gist_popFlow _ _)) _ _)
    · exact h
  case boomTakeBack =>
    cases he
    split
    · exact Kept.settle (Kept.takeTakeBack (h.of_gist (gist_popFlow _ _)) _ _)
    · exact h
  case boomFlowRefusal =>
    cases he
    split
    · exact h.onCondition fun _ => Kept.takeRefusal (h.of_gist (gist_popRefusal _ _ _)) _ _
    · exact h
  case pumpFall => cases he; exact h.onCondition fun _ => h.of_gist ((gist_viewFalls _).trans (gist_popPump s))
  case pumpRise => cases he; exact h.onCondition fun _ => h.of_gist ((gist_viewRises _).trans (gist_popPump s))
  case boomPumpFall | canopyLossAtBoom => cases he; exact h.onEvent fun u hu => hu.addHold _ _
  case boomPumpRise | canopyRegainAtBoom => cases he; exact h.onEvent fun u hu => hu.removeHold _ rfl
  case canopyPressureChange =>
    cases he
    split
    · exact Kept.settle (h.of_gist ((gist_takePressure _ _).trans (gist_takeCanopyEvent _ _)))
    · exact h
  case canopyAdoptSet | canopySet => cases he; exact h.onCondition fun _ => h.of_gist (gist_canopyEntersSet s)
  case raiseTimeout => cases he; exact h.onCondition fun _ => h.of_gist (gist_raiseFails s _)
  case canopyGrantTaken =>
    cases he
    split
    · exact Kept.settle (h.of_gist ((gist_canopyGrant _ _).trans (gist_popFlow _ _)))
    · exact h
  case canopyTakeBack =>
    cases he
    split
    · exact Kept.settle (h.of_gist ((gist_canopyTakenBack _ _).trans (gist_popFlow _ _)))
    · exact h
  case canopyFlowRefusal =>
    cases he
    split
    · exact h.onCondition fun _ => h.of_gist ((gist_canopyRefused _ _).trans (gist_popRefusal _ _ _))
    · exact h
  case canopyLost => cases he; exact h.onCondition fun _ => h.of_gist (gist_canopyIsLost s)
  case canopyLowered => cases he; exact h.onCondition fun _ => h.of_gist (gist_canopyTo s _)
  all_goals
    cases he
    exact h.hostSends _ _ _

/-- A step keeps both booms sound and, where it is followed, the grid in agreement. -/
theorem Kept.step (h : Kept g s) (he : Machine.step s = .next t) : Kept g t := by
  rcases step_cases s t he with ⟨c, rest, _, hc⟩ | ⟨_, c, _, hc⟩ | ⟨_, rfl⟩
  · exact Kept.exec (s := { s with pending := rest }) (h.of_gist rfl) hc
  · exact h.exec hc
  · exact h.tick

/-- Settles O11: both booms' soundness is kept whatever the grid holds, and with it the grid's agreement. -/
theorem stepKeepsBoomsSound : Obligations.StepKeepsBoomsSound :=
  ⟨fun _ _ hs he => (Kept.step (g := False) ⟨hs, False.elim⟩ he).1,
    fun _ _ hs hg he => (Kept.step (g := True) ⟨hs, fun _ => hg⟩ he).2 trivial⟩

end Sys2Proof.Machine
end

section
/-! SUPPORT. The operands of the requests on booms and cells: what each field may hold. -/

namespace Sys2Proof.Machine

/-! ### Fields of a request (section 10.6) -/

theorem byteOf_toNat (b : Byte) : byteOf b.toNat = b := BitVec.ofNat_toNat _ _

theorem byte_eq_iff (b : Byte) (n : Nat) (hn : n < 256) : b = byteOf n ↔ b.toNat = n := by
  rw [← BitVec.toNat_inj, byteOf, BitVec.toNat_ofNat, Nat.mod_eq_of_lt (by simpa using hn)]

theorem sideOf_none {b : Byte} (h : b ≠ 1 ∧ b ≠ 2) : sideOf b = none := by
  have h1 : b.toNat ≠ 1 := fun e => h.1 ((byte_eq_iff b 1 (by decide)).mpr e)
  have h2 : b.toNat ≠ 2 := fun e => h.2 ((byte_eq_iff b 2 (by decide)).mpr e)
  unfold sideOf
  split
  · contradiction
  · contradiction
  · rfl

theorem sideOf_side {b : Byte} {x : Side} (h : b = match x with | .a => 1 | .b => 2) : sideOf b = some x := by
  subst h
  cases x <;> rfl

theorem posOf_eq_some {x y : Nat} {q : Pos} : posOf x y = some q ↔ x = q.col.val + 1 ∧ y = q.row.val + 1 := by
  rcases q with ⟨c, r⟩
  unfold posOf
  split
  · next h =>
    simp only [Option.some.injEq, Pos.mk.injEq, Fin.ext_iff]
    omega
  · next h =>
    simp only [reduceCtorEq, false_iff]
    intro ⟨hx, hy⟩
    exact h (by omega)

theorem posOf_eq_none {x y : Nat} (h : x = 0 ∨ 8 < x ∨ y = 0 ∨ 12 < y) : posOf x y = none := by
  unfold posOf
  rw [dif_neg (by omega)]

theorem walkOrderOf_eq_some {b : Byte} {o : WalkOrder} (h : walkOrderOf b = some o) : b.toNat = 1 ∨ b.toNat = 2 := by
  unfold walkOrderOf at h
  split at h
  · exact .inl ‹_›
  · exact .inr ‹_›
  · cases h

theorem walkOrderOf_of {b : Byte} (h : b = 1 ∨ b = 2) : walkOrderOf b = some (if b = 1 then .row else .column) := by
  rcases h with rfl | rfl <;> rfl

theorem onOffOf_eq_some {b : Byte} {v : Bool} (h : onOffOf b = some v) : b.toNat ≤ 1 := by
  unfold onOffOf at h
  split at h
  · omega
  · omega
  · cases h

theorem onOffOf_of {b : Byte} (h : b.toNat ≤ 1) : onOffOf b = some (decide (b = 1)) := by
  have : b = 0 ∨ b = 1 := by
    rcases Nat.le_one_iff_eq_zero_or_eq_one.mp h with h | h
    · exact .inl ((byte_eq_iff b 0 (by decide)).mpr h)
    · exact .inr ((byte_eq_iff b 1 (by decide)).mpr h)
  rcases this with rfl | rfl <;> rfl

/-- The window, as the statements spell it. -/
theorem inWindow_iff (p : PatternDef) (q : Pos) :
    p.inWindow q = true ↔ p.xs ≤ q.col ∧ q.col ≤ p.xe ∧ p.ys ≤ q.row ∧ q.row ≤ p.ye := by
  simp [PatternDef.inWindow, and_assoc]

/-! ### PATTERN_DEFINE -/

/-- A field out of its range refuses a PATTERN_DEFINE (R4). -/
theorem reqPatternDefine_range (xs xe ys ye oA xA yA oB xB yB clr : Byte) (s : State)
    (h : xs.toNat = 0 ∨ 8 < xs.toNat ∨ xe.toNat = 0 ∨ 8 < xe.toNat ∨ ys.toNat = 0 ∨ 12 < ys.toNat ∨ ye.toNat = 0 ∨
        12 < ye.toNat ∨ xe.toNat < xs.toNat ∨ ye.toNat < ys.toNat ∨ oA.toNat = 0 ∨ 2 < oA.toNat ∨ oB.toNat = 0 ∨
        2 < oB.toNat ∨ 1 < xA.toNat ∨ 1 < yA.toNat ∨ 1 < xB.toNat ∨ 1 < yB.toNat ∨ 3 < clr.toNat) :
    reqPatternDefine xs xe ys ye oA xA yA oB xB yB clr s = refuse .refusedRange s := by
  unfold reqPatternDefine
  split
  · next lo hi _ _ _ _ _ _ hlo hhi hoA hxA hyA hoB hxB hyB =>
    have hlo := posOf_eq_some.mp hlo
    have hhi := posOf_eq_some.mp hhi
    have hoA := walkOrderOf_eq_some hoA
    have hoB := walkOrderOf_eq_some hoB
    have hxA := onOffOf_eq_some hxA
    have hyA := onOffOf_eq_some hyA
    have hxB := onOffOf_eq_some hxB
    have hyB := onOffOf_eq_some hyB
    have hbad : hi.col < lo.col ∨ hi.row < lo.row ∨ 3 < clr.toNat := by
      simp only [Fin.lt_def]
      omega
    rw [if_pos hbad]
  · rfl

theorem not_bothIdle_iff (s : State) : (!s.bothIdle) = true ↔ s.boomA.phase ≠ .idle ∨ s.boomB.phase ≠ .idle := by
  simp [State.bothIdle, or_iff_not_imp_left]

/-- An emptied grid with the cursors before start drives what the booms drove. -/
theorem settled_cursors {s : State} (h : s.settled) (p : Option PatternDef) (cells : Vector Cell 96) (tally : Tally)
    (complete : Bool) (a b : Option Pos) :
    ({ s with pattern := p, cells := cells, tally := tally, complete := complete, boomA := { s.boomA with cursor := a },
              boomB := { s.boomB with cursor := b } } : State).settled :=
  settled_congr h rfl rfl rfl rfl (ownerCommand_congr (fun x => by cases x <;> rfl) rfl rfl)

/-- Settles O30. -/
theorem patternDefineEmptiesTheGrid : Obligations.PatternDefineEmptiesTheGrid := by
  intro tag xs xe ys ye oA xA yA oB xB yB clr s hs
  refine ⟨fun hbad => ?_, fun lo hi hxs hxe hys hye hcol hrow hoA hoB hxA hyA hxB hyB hclr => ?_⟩
  · exact congrArg Host.Outcome.next (hostSends_same hs (reqPatternDefine_range _ _ _ _ _ _ _ _ _ _ _ s hbad))
  · refine congrArg Host.Outcome.next ?_
    have ha : answer 0x18 [xs, xe, ys, ye, oA, xA, yA, oB, xB, yB, clr] s = _ := answer_patternDefine ..
    unfold reqPatternDefine at ha
    have hrange : ¬ (hi.col < lo.col ∨ hi.row < lo.row ∨ 3 < clr.toNat) := by
      simp only [Fin.lt_def, Fin.le_def] at *
      omega
    simp only [posOf_eq_some.mpr ⟨hxs, hys⟩, posOf_eq_some.mpr ⟨hxe, hye⟩, walkOrderOf_of hoA, walkOrderOf_of hoB,
      onOffOf_of hxA, onOffOf_of hyA, onOffOf_of hxB, onOffOf_of hyB, if_neg hrange] at ha
    by_cases hidle : s.boomA.phase ≠ .idle ∨ s.boomB.phase ≠ .idle
    · rw [if_pos ((not_bothIdle_iff s).mpr hidle)] at ha
      rw [if_pos hidle]
      exact hostSends_same hs ha
    · rw [if_neg (fun k => hidle ((not_bothIdle_iff s).mp k))] at ha
      rw [if_neg hidle]
      exact hostSends_exact hs ha (settled_cursors hs.1 _ _ _ _ _ _)

/-! ### CELL_READ -/

theorem bitsByte_two (a b : Bool) : bitsByte [a, b] = byteOf ((if a then 1 else 0) + if b then 2 else 0) := by
  cases a <;> cases b <;> rfl

theorem boolByte_eq (b : Bool) : boolByte b = if b then 1 else 0 := by cases b <;> rfl

/-- Settles O32. -/
theorem cellReadReportsTheCell : Obligations.CellReadReportsTheCell := by
  intro tag x y s hs
  refine ⟨fun hbad => congrArg Host.Outcome.next (hostSends_same hs ?_), fun q hx hy =>
    congrArg Host.Outcome.next (hostSends_same hs ?_)⟩
  · rw [answer_cellRead, reqCellRead, posOf_eq_none hbad]
    rfl
  · have hinside : boolByte (s.inside q) = match s.pattern with
        | none => 0
        | some p => if p.xs ≤ q.col ∧ q.col ≤ p.xe ∧ p.ys ≤ q.row ∧ q.row ≤ p.ye then 1 else 0 := by
      unfold State.inside
      cases s.pattern with
      | none => rfl
      | some p =>
        dsimp only [Option.map_some, Option.getD_some]
        rw [boolByte_eq]
        simp only [inWindow_iff]
    have hside : sideByte (s.cell q).boom = match (s.cell q).boom with | none => 0 | some .a => 1 | some .b => 2 := by
      rcases (s.cell q).boom with _ | _ | _ <;> rfl
    rw [answer_cellRead, reqCellRead, posOf_eq_some.mpr ⟨hx, hy⟩]
    simp only [accept, cellBytes, posBytes, ← hx, ← hy, byteOf_toNat, hinside, hside, bitsByte_two, outcomeByte,
      boolByte_eq, List.cons_append, List.nil_append, List.append_assoc]
    rfl

end Sys2Proof.Machine
end

section
/-! SUPPORT. BOOM_START, BOOM_STOP and ABORT by the boom's state. -/

namespace Sys2Proof.Machine

/-! ### The end of a claim, in full -/

/-- A re-seek noted for a boom, as the statements say it. -/
theorem noteReseek_eq (y : Side) (s : State) : noteReseek y s =
    if (s.boom y).phase = .seekWait then s.setBoom y { s.boom y with reseekDue := true } else s := by
  unfold noteReseek
  rw [modBoom_eq]
  dsimp only
  split
  · rfl
  · exact setBoom_self s y

theorem endContext_eq (x : Side) (s : State) : endContext x s = s.setBoom x { s.boom x with
    ctx := none, base := none, holdEnd := none, waitReason := none, suspendedPhase := none, backOff := false,
    stallTime := 0, port := (s.boom x).port.drop } := by
  simp [endContext, dropFlow]

/-- A released claim: the cell PLANNED again, the context ended, the other boom told. -/
theorem releaseClaim_eq {x : Side} {s : State} {c : HoleCtx} (h : (s.boom x).ctx = some c) :
    releaseClaim x s = noteReseek x.other
      (endContext x (s.setCell c.pos { s.cell c.pos with state := .planned, boom := none })) := by
  unfold releaseClaim
  rw [h]

/-- A released claim leaves the marks and the phase of its boom. -/
theorem releaseClaim_boom (x : Side) (s : State) :
    ((releaseClaim x s).boom x).phase = (s.boom x).phase ∧
      ((releaseClaim x s).boom x).stopPending = (s.boom x).stopPending := by
  rcases h : (s.boom x).ctx with _ | c
  · unfold releaseClaim
    rw [h]
    exact ⟨rfl, rfl⟩
  · rw [releaseClaim_eq h, noteReseek_other, endContext_boom]
    simp

/-- A boom drives nothing before and after its hole. -/
theorem boomOutputs_idle {b : Boom} (h : b.phase = .idle ∨ b.phase = .seekWait ∨ b.phase = .positioning ∨ b.phase = .halted ∨
    b.phase = .stopped) : boomOutputs b = ⟨0, 0, 0, false⟩ := by
  unfold boomOutputs
  rcases h with h | h | h | h | h <;> rw [h]

theorem settled_setCell {s : State} (h : s.settled) (q : Pos) (c : Cell) : (s.setCell q c).settled :=
  settled_congr h rfl rfl rfl rfl (ownerCommand_congr (fun _ => by rw [setCell_boom]) rfl rfl)

theorem settled_noteReseek {s : State} (h : s.settled) (y : Side) : (noteReseek y s).settled := by
  rw [noteReseek_eq]
  split
  · exact settled_setBoom h y _ rfl
  · exact h

theorem settled_endContext {s : State} (h : s.settled) {x : Side} (hp : (s.boom x).phase = .positioning) :
    (endContext x s).settled := by
  rw [endContext_eq]
  exact settled_setBoom h x _ (by rw [boomOutputs_idle (by simp [hp]), boomOutputs_idle (by simp [hp])])

theorem settled_releaseClaim {s : State} (h : s.settled) {x : Side} (hp : (s.boom x).phase = .positioning) :
    (releaseClaim x s).settled := by
  unfold releaseClaim
  split
  · exact h
  · exact settled_noteReseek (settled_endContext (settled_setCell h _ _) (by simpa using hp)) _

theorem settled_enterIdle {s : State} (h : s.settled) {x : Side} (hp : (s.boom x).phase = .idle ∨
    (s.boom x).phase = .seekWait ∨ (s.boom x).phase = .positioning ∨ (s.boom x).phase = .halted ∨
    (s.boom x).phase = .stopped) : (enterIdle x s).settled :=
  settled_setBoom h x _ (by rw [boomOutputs_idle hp, boomOutputs_idle (by simp)])

/-! ### BOOM_STOP -/

/-- Settles O41, by the boom's state. -/
theorem boomStopActsByState : Obligations.BoomStopActsByState := by
  intro tag boom s hs
  refine ⟨fun hb => congrArg Host.Outcome.next (hostSends_same hs ?_), fun x hx => congrArg Host.Outcome.next ?_⟩
  · rw [answer_boomStop, reqBoomStop, sideOf_none hb]
    rfl
  · have ha : answer 0x21 [boom] s = _ := answer_boomStop boom s
    unfold reqBoomStop at ha
    rw [sideOf_side hx] at ha
    dsimp only at ha ⊢
    have hpend := settled_setBoom hs.1 x { s.boom x with stopPending := true } rfl
    split
    case h_1 hp =>
      rw [hp] at ha
      exact hostSends_same hs ha
    case h_2 hp | h_3 hp | h_4 hp =>
      rw [hp] at ha
      exact hostSends_exact hs ha (settled_enterIdle hs.1 (by simp [hp]))
    case h_5 hp =>
      rw [hp] at ha
      exact hostSends_exact hs ha (settled_enterIdle (settled_releaseClaim hs.1 hp) (by simp [releaseClaim_boom, hp]))
    case h_6 =>
      split at ha
      case h_1 | h_2 | h_3 | h_4 | h_5 => contradiction
      all_goals exact hostSends_exact hs ha hpend

/-! ### BOOM_START and RE_SEEK -/

/-- The functions a boom needs bound at BOOM_START (R48), as the statement lists them. -/
theorem boundAll_iff (s : State) (x : Side) :
    (s.bound .stopLoop && s.bound .pumpOk && requiredFns.all fun f => s.bound (.boom x f)) = true ↔
      ∀ f ∈ [Fn.stopLoop, .pumpOk, .boom x .feedUp, .boom x .feedDown, .boom x .rotation, .boom x .loader,
        .boom x .feedPosition, .boom x .rotationPressure, .boom x .deadman, .boom x .cartridgePass,
        .boom x .rotationPulse, .boom x .feedHome], s.bound f = true := by
  simp [requiredFns, and_assoc]

/-- Settles O40. -/
theorem boomStartAndReSeekSeek : Obligations.BoomStartAndReSeekSeek := by
  intro tag boom s
  refine ⟨fun hs hb => congrArg Host.Outcome.next (hostSends_same hs ?_), fun x hx hs => ?_, fun x hs hp hd => ?_⟩
  · rw [answer_boomStart, reqBoomStart, sideOf_none hb]
    rfl
  · have ha : answer 0x20 [boom] s = _ := answer_boomStart boom s
    unfold reqBoomStart at ha
    rw [sideOf_side hx] at ha
    dsimp only at ha ⊢
    have hstate : ¬ ((s.boom x).phase ≠ .idle ∧ (s.boom x).phase ≠ .stopped) ↔
        (s.boom x).phase = .idle ∨ (s.boom x).phase = .stopped := by simp only [ne_eq, not_and_or, not_not]
    have hpat : s.pattern.isNone = true ↔ s.pattern = none := Option.isNone_iff_eq_none
    rw [← hstate, ← boundAll_iff]
    refine ⟨fun hr => ?_, fun hi hn hb => ?_, fun hi hn hb hl => ?_, fun hi hn hb hl => ?_⟩
    · refine congrArg Host.Outcome.next (hostSends_same hs ?_)
      rcases hr with hr | hr
      · rw [if_pos (not_not.mp hr)] at ha
        exact ha
      · rw [if_pos (hpat.mpr hr), ite_self] at ha
        exact ha
    · rw [if_neg hi, if_neg (fun k => hn (hpat.mp k)), if_pos (by rwa [Bool.not_eq_true', ← Bool.not_eq_true])] at ha
      exact congrArg Host.Outcome.next (hostSends_same hs ha)
    · have hopen : s.loopOpen = true := by
        have := ((boundAll_iff s x).mp hb) .stopLoop (by simp)
        simp [State.loopOpen, this, hl]
      rw [if_neg hi, if_neg (fun k => hn (hpat.mp k)), if_neg (by simpa using hb), if_pos hopen] at ha
      exact congrArg Host.Outcome.next (hostSends_same hs ha)
    · have hclosed : ¬ s.loopOpen = true := by simp [State.loopOpen, hl]
      rw [if_neg hi, if_neg (fun k => hn (hpat.mp k)), if_neg (by simpa using hb), if_neg hclosed] at ha
      exact ⟨_, _, rfl, rfl, hostSends_ends hs ha (by simp)
        ((calm_setBoom _ s x _).trans (calm_seek _ (by simp) x))⟩
  · refine ⟨settle (seek x s), ?_, ends_settle hs (by simp) (calm_seek s (by simp) x)⟩
    exact congrArg Host.Outcome.next (if_pos ⟨hp, hd⟩)

/-! ### ABORT -/

theorem abortPhase_eq {b : Boom} {ph : Phase} (hne : ph ≠ .suspended)
    (h : b.phase = ph ∨ (b.phase = .suspended ∧ b.suspendedPhase = some ph)) : b.abortPhase = ph := by
  unfold Boom.abortPhase
  rcases h with h | ⟨h, hs⟩
  · split
    · next hk => exact absurd (h ▸ hk) hne
    · exact h
  · rw [h, hs]
    rfl

/-- With no stop pending a boom that enters HALTED stays there. -/
theorem enterHalted_eq {x : Side} {s : State} (h : (s.boom x).stopPending = false) (p : Option Pos) (r : Nat) :
    enterHalted x p r s = raiseFlag (.halt x) (some x) p r (s.setBoom x { s.boom x with phase := .halted }) := by
  unfold enterHalted
  dsimp only
  rw [raiseFlag_boom, modBoom_eq, setBoom_boom]
  simp [h]

/-- Settles O45, by the boom's state or its suspended phase. -/
theorem abortActsByState : Obligations.AbortActsByState := by
  intro tag boom s hs
  refine ⟨fun hb => congrArg Host.Outcome.next (hostSends_same hs ?_), fun x hx => ?_⟩
  · rw [answer_abort, reqAbort, sideOf_none hb]
    rfl
  · have ha : answer 0x28 [boom] s = _ := answer_abort boom s
    unfold reqAbort at ha
    rw [sideOf_side hx] at ha
    dsimp only at ha ⊢
    have taken {v : State} (hv : answer 0x28 [boom] s = (v, [0])) (hc : Calm (holeFlags x) s v) :
        ∃ t, exec (.abort tag boom) s = .next t ∧ endsAnswered (holeFlags x) 0xA8 tag [0] s v t :=
      ⟨_, rfl, hostSends_ends hs hv (lines_not_mem_holeFlags x) hc⟩
    refine ⟨fun c hp hc hst => ?_, fun ph c hph hc => ⟨fun hk => ?_, fun hk => ?_, fun hk => ?_⟩, fun hp => ?_, fun hp => ?_⟩
    · have hap : (s.boom x).abortPhase = .positioning := abortPhase_eq (by simp) (.inl hp)
      rw [hap, hc] at ha
      have hcalm := (calm_releaseClaim (n := holeFlags x) s x).trans (calm_enterHalted _ x (some c.pos) 0)
      rw [enterHalted_eq (by rw [(releaseClaim_boom x s).2, hst])] at hcalm
      dsimp only at ha
      rw [enterHalted_eq (by rw [(releaseClaim_boom x s).2, hst])] at ha
      exact taken ha hcalm
    · have hap := abortPhase_eq (by rintro rfl; simp at hk) hph
      rw [hap, hc] at ha
      rcases hk with rfl | rfl | rfl | rfl | rfl | rfl <;> exact taken ha (calm_enterAborting s x _ _)
    · have hap := abortPhase_eq (by rintro rfl; simp at hk) hph
      have hres : resinOutcome c = if c.inserted = [] then .abandoned else .resinLost := by
        simp [resinOutcome, List.isEmpty_iff]
      rw [hap, hc] at ha
      rw [← hres]
      rcases hk with rfl | rfl <;> exact taken ha (calm_enterAborting s x _ _)
    · have hap := abortPhase_eq (by rintro rfl; simp at hk) hph
      rw [hap, hc] at ha
      rcases hk with rfl | rfl | rfl <;> exact taken ha (calm_enterAborting s x _ _)
    · rw [abortPhase_eq (by simp) (.inl hp)] at ha
      exact congrArg Host.Outcome.next (hostSends_same hs ha)
    · refine congrArg Host.Outcome.next (hostSends_same hs ?_)
      rcases hp with hp | hp | hp | hp | hp <;>
        · rw [abortPhase_eq (by simp) (.inl hp)] at ha
          exact ha

end Sys2Proof.Machine
end

section
/-! SUPPORT. Walks, seeks, the completion check, and the ends of claims and holes. -/

namespace Sys2Proof.Machine

/-! ### The ends of claims and holes -/

/-- A hole's outcome in the table and the tally, as the statements say it. -/
theorem takeOutcome_eq (c : HoleCtx) (o : HoleOutcome) (s : State) :
    takeOutcome { c.toHoleData with outcome := some o } o s =
      (let one (k : HoleOutcome) : Nat := if o = k then 1 else 0
       completionCheck { s.setCell c.pos { s.cell c.pos with
           state := if o = .installed ∨ o = .installedMarked then .done else .failed
           outcome := some o, finalDepth := some c.depth, torque := some c.torque } with
         tally :=
           { installed := s.tally.installed + one .installed
             installedMarked := s.tally.installedMarked + one .installedMarked
             untensioned := s.tally.untensioned + one .untensioned
             spinThrough := s.tally.spinThrough + one .spinThrough
             abandoned := s.tally.abandoned + one .abandoned
             resinLost := s.tally.resinLost + one .resinLost
             stopped := s.tally.stopped + one .stopped
             skipped := s.tally.skipped
             inserted := s.tally.inserted + c.inserted.length
             lostToJams := s.tally.lostToJams + c.jamCount
             substitutions := s.tally.substitutions + if c.substituted then 1 else 0
             extensions := s.tally.extensions + c.extensions
             metres := s.tally.metres + c.depth } }) := by
  cases o <;> rfl

/-- Settles O36: the equations of a release, a hole end, a context's end and a record placed. -/
theorem claimsAndHolesEndWithTheirContext : Obligations.ClaimsAndHolesEndWithTheirContext := by
  refine ⟨fun x c o s => ⟨fun hc => ?_, ?_, endContext_eq x s, fun p => ⟨fun _ _ _ => rfl, fun t hv => ?_, fun hv => ?_⟩⟩,
    fun x d s => ⟨fun hn => ?_, fun old ho => ?_⟩⟩
  · rw [releaseClaim_eq hc, noteReseek_eq, endContext_eq]
  · unfold handHole
    dsimp only
    rw [noteReseek_eq, endContext_eq, takeOutcome_eq]
  · unfold FlowPort.drop
    rcases hv with hv | hv <;> rw [hv]
  · unfold FlowPort.drop
    rcases hv with hv | hv <;> rw [hv]
  · unfold placeRecord
    rw [hn]
  · unfold placeRecord
    rw [ho]

/-! ### Completion -/

theorem mem_allRows (y : Fin 12) : y ∈ allRows := by revert y; decide

theorem mem_allCols (c : Fin 8) : c ∈ allCols := by revert c; decide

/-- The window's cells, as the statements name them. -/
theorem mem_windowCells (s : State) (q : Pos) : q ∈ s.windowCells ↔
    ∃ p, s.pattern = some p ∧ p.xs ≤ q.col ∧ q.col ≤ p.xe ∧ p.ys ≤ q.row ∧ q.row ≤ p.ye := by
  unfold State.windowCells
  split
  · next hp => simp [hp]
  · next p hp =>
    rcases q with ⟨c, r⟩
    simp [hp, inWindow_iff, mem_allRows, mem_allCols]

theorem isOpen_eq_false (st : CellState) : st.isOpen = false ↔ st ≠ .planned ∧ st ≠ .claimed ∧ st ≠ .working := by
  cases st <;> simp [CellState.isOpen]

/-- The pattern is found complete (R20), as the statements say it. -/
theorem patternComplete_iff (s : State) : s.patternComplete = true ↔
    s.complete = false ∧ (∃ q ∈ s.windowCells, (s.cell q).state ≠ .off) ∧
      ∀ q ∈ s.windowCells, (s.cell q).state ≠ .planned ∧ (s.cell q).state ≠ .claimed ∧ (s.cell q).state ≠ .working := by
  have hsome : (∃ q ∈ s.windowCells, (s.cell q).state ≠ .off) → s.pattern.isSome = true := by
    rintro ⟨q, hq, _⟩
    obtain ⟨p, hp, _⟩ := (mem_windowCells s q).mp hq
    simp [hp]
  simp only [State.patternComplete, Bool.and_eq_true, Bool.not_eq_true', List.any_eq_true, List.all_eq_true, bne_iff_ne,
    isOpen_eq_false]
  constructor
  · rintro ⟨⟨⟨_, hc⟩, he⟩, ha⟩
    exact ⟨hc, he, ha⟩
  · rintro ⟨hc, he, ha⟩
    exact ⟨⟨⟨hsome he, hc⟩, he⟩, ha⟩

/-! ### Seeks -/

/-- A cell is blocked within the clearance in both directions (R13). -/
theorem blockedFor_iff (s : State) (x : Side) (n : Nat) (q : Pos) : s.blockedFor x n q = true ↔
    ∃ o, (s.boom x.other).ctx = some o ∧ q.col.val ≤ o.pos.col.val + n ∧ o.pos.col.val ≤ q.col.val + n ∧
      q.row.val ≤ o.pos.row.val + n ∧ o.pos.row.val ≤ q.row.val + n := by
  unfold State.blockedFor
  split
  · next o ho =>
    have hle : distance q o.pos ≤ n ↔ _ := max_le_iff
    simp only [ho, Option.some.injEq, exists_eq_left', decide_eq_true_eq, hle]
    omega
  · next hn => simp [hn]

/-- A seek over a defined pattern that finds a cell, the search spelled as one pass over its order. -/
theorem seek_found {s : State} {p : PatternDef} {x : Side} {q : Pos} (hp : s.pattern = some p)
    (h : (seekOrder (p.walkCells x) (s.boom x).cursor).find?
      (fun q => (s.cell q).state == .planned && !s.blockedFor x p.clearance q) = some q) : seek x s = claimCell x q s := by
  unfold seek
  rw [hp]
  dsimp only
  rw [List.find?_filter]
  simp only [Bool.decide_and, Bool.decide_eq_true, h]

/-- A seek over a defined pattern that finds none. -/
theorem seek_not_found {s : State} {p : PatternDef} {x : Side} (hp : s.pattern = some p)
    (h : (seekOrder (p.walkCells x) (s.boom x).cursor).find?
      (fun q => (s.cell q).state == .planned && !s.blockedFor x p.clearance q) = none) : seek x s =
    if ((seekOrder (p.walkCells x) (s.boom x).cursor).filter fun q => (s.cell q).state == .planned).isEmpty then
      completionCheck (enterIdle x s)
    else s.modBoom x fun b => { b with phase := .seekWait, reseekDue := false } := by
  unfold seek
  rw [hp]
  dsimp only
  rw [List.find?_filter]
  simp only [Bool.decide_and, Bool.decide_eq_true, h]

/-- A claim, as the statements say it. -/
theorem claimCell_eq {s : State} {x : Side} {q : Pos} {r : ClassRec} (hr : classAt s.classes (s.cell q).classIdx = some r) :
    claimCell x q s =
      (let u := (s.setCell q { s.cell q with state := .claimed, boom := some x }).setBoom x { s.boom x with
        phase := .positioning, cursor := some q, ctx := some (newContext q (s.cell q).classIdx r), reseekDue := false }
       if (s.boom x.other).phase = .seekWait then u.setBoom x.other { s.boom x.other with reseekDue := true } else u) := by
  unfold claimCell
  simp only [setCell_classes, hr, Option.getD_some, noteReseek_eq, modBoom_eq, setCell_boom, setBoom_other]

/-- The first planned cell that is not blocked is claimed. -/
theorem seek_claims {s : State} {p : PatternDef} {x : Side} (hp : s.pattern = some p) {pre post : List Pos} {q : Pos}
    (ho : seekOrder (p.walkCells x) (s.boom x).cursor = pre ++ q :: post) (hq : (s.cell q).state = .planned)
    (hb : s.blockedFor x p.clearance q = false)
    (hpre : ∀ o ∈ pre, (s.cell o).state = .planned → s.blockedFor x p.clearance o = true) :
    seek x s = claimCell x q s := by
  have hfind : (seekOrder (p.walkCells x) (s.boom x).cursor).find?
      (fun q => (s.cell q).state == .planned && !s.blockedFor x p.clearance q) = some q := by
    rw [List.find?_eq_some_iff_append]
    refine ⟨by simp [hq, hb], pre, post, ho, fun o hm => ?_⟩
    by_cases hpl : (s.cell o).state = .planned
    · simp [hpre o hm hpl]
    · simp [hpl]
  exact seek_found hp hfind

/-- Where every planned cell is blocked, or none is, nothing is claimed. -/
theorem seek_unclaimed {s : State} {p : PatternDef} {x : Side} (hp : s.pattern = some p)
    (hall : ∀ q ∈ seekOrder (p.walkCells x) (s.boom x).cursor, (s.cell q).state = .planned →
      s.blockedFor x p.clearance q = true) : seek x s =
    if ∃ q ∈ seekOrder (p.walkCells x) (s.boom x).cursor, (s.cell q).state = .planned then
      s.setBoom x { s.boom x with phase := .seekWait, reseekDue := false }
    else completionCheck (enterIdle x s) := by
  have hfind : (seekOrder (p.walkCells x) (s.boom x).cursor).find?
      (fun q => (s.cell q).state == .planned && !s.blockedFor x p.clearance q) = none := by
    rw [List.find?_eq_none]
    intro q hq
    by_cases hpl : (s.cell q).state = .planned
    · simp [hall q hq hpl]
    · simp [hpl]
  have hempty : ((seekOrder (p.walkCells x) (s.boom x).cursor).filter fun q => (s.cell q).state == .planned).isEmpty = true ↔
      ¬ ∃ q ∈ seekOrder (p.walkCells x) (s.boom x).cursor, (s.cell q).state = .planned := by
    simp
  rw [seek_not_found hp hfind]
  by_cases hex : ∃ q ∈ seekOrder (p.walkCells x) (s.boom x).cursor, (s.cell q).state = .planned
  · rw [if_pos hex, if_neg (fun k => hempty.mp k hex), modBoom_eq]
  · rw [if_neg hex, if_pos (hempty.mpr hex)]

theorem classAt_succ (classes : Vector (Option ClassRec) 8) (i : Fin 8) : classAt classes (i.val + 1) = classes[i] := by
  unfold classAt
  rw [dif_pos (by omega)]
  rfl

theorem classAt_out (classes : Vector (Option ClassRec) 8) {n : Nat} (h : n = 0 ∨ 8 < n) : classAt classes n = none := by
  unfold classAt
  rw [dif_neg (by omega)]

theorem reseek_waiting {s : State} {x : Side} (h : (s.boom x).phase = .seekWait) : reseek x s = seek x s := if_pos h

theorem reseek_other {s : State} {x : Side} (h : (s.boom x).phase ≠ .seekWait) : reseek x s = s := if_neg h

/-- A seek leaves the other boom's phase. -/
theorem seek_other_phase (x : Side) (s : State) : ((seek x s).boom x.other).phase = (s.boom x.other).phase := by
  have := seek_other_gist x s
  simp only [Boom.gist, Prod.mk.injEq] at this
  exact this.2.1

/-- Settles O35: the seek by its search, the check by what it looks for. -/
theorem seeksClaimTheFirstFreeCellAndChecksFindCompletion :
    Obligations.SeeksClaimTheFirstFreeCellAndChecksFindCompletion := by
  refine ⟨fun x s p hp => ?_, fun s => ?_, fun x s => ⟨reseek_waiting, reseek_other, fun ha hb => ?_, fun ha hb => ?_,
    fun ha hb => ?_, fun ha hb => ?_⟩, fun classes => ⟨classAt_succ classes, fun n => classAt_out classes⟩⟩
  · simp only [← blockedFor_iff]
    refine ⟨fun pre post q r ho hq hb hpre hr => ⟨?_, ?_⟩, fun hex hall => ?_, fun hnone => ?_⟩
    · rw [seek_claims hp ho hq (by simpa using hb) hpre, claimCell_eq hr]
    · exact ⟨rfl, rfl, rfl, rfl, rfl, rfl, rfl, rfl, rfl, rfl, rfl, rfl, rfl, rfl, rfl, rfl, rfl, rfl, rfl, rfl, rfl, rfl,
        rfl, rfl, rfl, rfl, rfl, rfl, rfl, rfl, rfl, rfl⟩
    · rw [seek_unclaimed hp hall, if_pos hex]
    · have hex : ¬ ∃ q ∈ seekOrder (p.walkCells x) (s.boom x).cursor, (s.cell q).state = .planned := by
        rintro ⟨q, hq, hpl⟩
        exact hnone q hq hpl
      rw [seek_unclaimed hp (fun q hq hpl => absurd hpl (hnone q hq)), if_neg hex]
      rfl
  · have hfound := patternComplete_iff s
    simp only [mem_windowCells] at hfound
    unfold completionCheck
    exact ⟨fun h => if_pos (hfound.mpr h), fun h => if_neg fun k => h (hfound.mp k)⟩
  · rw [reseekBoth, reseek_waiting ha]
    exact reseek_other (seek_other_phase .a s ▸ hb)
  · rw [reseekBoth, reseek_other ha, reseek_waiting hb]
  · rw [reseekBoth, reseek_other ha, reseek_other hb]
  · rw [reseekBoth, reseek_waiting ha]
    exact .inl rfl

/-! ### Walks -/

/-- A grid walked row by row: its place `i` is in row `i / w`, at column `i % w`. -/
theorem getElem?_flatMap_map {α β γ : Type} (f : α → β → γ) (as : List α) (bs : List β) (hb : 0 < bs.length) (i : Nat) :
    (as.flatMap fun a => bs.map (f a))[i]? =
      as[i / bs.length]?.bind fun a => bs[i % bs.length]?.map (f a) := by
  induction as generalizing i with
  | nil => simp
  | cons a as ih =>
    rw [List.flatMap_cons]
    by_cases hi : i < bs.length
    · rw [List.getElem?_append_left (by simpa using hi), Nat.div_eq_of_lt hi, Nat.mod_eq_of_lt hi]
      simp
    · have hle : bs.length ≤ i := Nat.le_of_not_lt hi
      rw [List.getElem?_append_right (by simpa using hle), List.length_map, ih, Nat.div_eq_sub_div hb hle,
        List.getElem?_cons_succ, ← Nat.mod_eq_sub_mod hle]

theorem nodup_flatMap_map {α β γ : Type} {f : α → β → γ} (hf : ∀ a b a' b', f a b = f a' b' → a = a' ∧ b = b')
    {as : List α} {bs : List β} (ha : as.Nodup) (hb : bs.Nodup) : (as.flatMap fun a => bs.map (f a)).Nodup := by
  have hp : (as.flatMap fun a => bs.map (f a)) = (as.product bs).map fun p => f p.1 p.2 := by
    simp [List.product, List.map_flatMap, Function.comp_def]
  rw [hp]
  exact (ha.product hb).map fun p q h => Prod.ext (hf _ _ _ _ h).1 (hf _ _ _ _ h).2

/-- One direction of a walk: the numbers from one end of the window to the other. -/
def directed (mirror : Bool) (lo hi i : Nat) : Nat := if mirror then hi - i else lo + i

theorem cols_directed : ∀ (lo hi : Fin 8) (mirror : Bool), lo ≤ hi →
    (if mirror then (allCols.filter fun c => lo ≤ c && c ≤ hi).reverse else allCols.filter fun c => lo ≤ c && c ≤ hi).map
      Fin.val = (List.range (hi.val - lo.val + 1)).map (directed mirror lo hi) := by
  decide

theorem rows_directed : ∀ (lo hi : Fin 12) (mirror : Bool), lo ≤ hi →
    (if mirror then (allRows.filter fun c => lo ≤ c && c ≤ hi).reverse else allRows.filter fun c => lo ≤ c && c ≤ hi).map
      Fin.val = (List.range (hi.val - lo.val + 1)).map (directed mirror lo hi) := by
  decide +kernel

theorem walkCols_val (p : PatternDef) (x : Side) (h : p.xs ≤ p.xe) :
    (p.walkCols x).map Fin.val =
      (List.range (p.xe.val - p.xs.val + 1)).map (directed (p.walk x).mirrorX p.xs p.xe) :=
  cols_directed p.xs p.xe _ h

theorem walkRows_val (p : PatternDef) (x : Side) (h : p.ys ≤ p.ye) :
    (p.walkRows x).map Fin.val =
      (List.range (p.ye.val - p.ys.val + 1)).map (directed (p.walk x).mirrorY p.ys p.ye) :=
  rows_directed p.ys p.ye _ h

/-- A list of numbers given by its values: its length and its members. -/
theorem of_map_val {n m : Nat} {l : List (Fin n)} {f : Nat → Nat} (h : l.map Fin.val = (List.range m).map f) :
    l.length = m ∧ ∀ i c, l[i]? = some c → c.val = f i := by
  have hl : l.length = m := by simpa using congrArg List.length h
  refine ⟨hl, fun i c hc => ?_⟩
  have hi : i < m := hl ▸ (List.getElem?_eq_some_iff.mp hc).1
  have := congrArg (fun k => k[i]?) h
  simpa [hc, hi] using this

theorem walkCols_nodup (p : PatternDef) (x : Side) : (p.walkCols x).Nodup := by
  have : (allCols.filter fun c => p.xs ≤ c && c ≤ p.xe).Nodup := List.Nodup.filter _ (by decide)
  unfold PatternDef.walkCols
  dsimp only
  split
  · exact List.nodup_reverse.mpr this
  · exact this

theorem walkRows_nodup (p : PatternDef) (x : Side) : (p.walkRows x).Nodup := by
  have : (allRows.filter fun c => p.ys ≤ c && c ≤ p.ye).Nodup := List.Nodup.filter _ (by decide)
  unfold PatternDef.walkRows
  dsimp only
  split
  · exact List.nodup_reverse.mpr this
  · exact this

theorem flatMap_map_length {α β γ : Type} (f : α → β → γ) (as : List α) (bs : List β) :
    (as.flatMap fun a => bs.map (f a)).length = as.length * bs.length := by
  simp [List.length_flatMap]

/-- A cell of a walk is given by the rows and columns in the walk's directions. -/
theorem getElem?_walk {α β : Type} {f : α → β → Pos} {as : List α} {bs : List β} (hb : 0 < bs.length) {i : Nat} {q : Pos}
    (h : (as.flatMap fun a => bs.map (f a))[i]? = some q) :
    ∃ a b, as[i / bs.length]? = some a ∧ bs[i % bs.length]? = some b ∧ f a b = q := by
  rw [getElem?_flatMap_map f as bs hb, Option.bind_eq_some_iff] at h
  obtain ⟨a, ha, h⟩ := h
  obtain ⟨b, hb, rfl⟩ := Option.map_eq_some_iff.mp h
  exact ⟨a, b, ha, hb, rfl⟩

/-- A seek's order after the cursor is the walk turned round to its next place. -/
theorem seekOrder_some {walk : List Pos} {k : Nat} {q : Pos} (hn : walk.Nodup) (hk : walk[k]? = some q) :
    seekOrder walk (some q) = walk.rotate (k + 1) := by
  obtain ⟨hlt, rfl⟩ := List.getElem?_eq_some_iff.mp hk
  rw [seekOrder, hn.idxOf_getElem k hlt, List.rotate_eq_drop_append_take (by omega)]

/-- Settles O34, by the two orders. -/
theorem walksAndSeeksVisitTheWindowInOrder : Obligations.WalksAndSeeksVisitTheWindowInOrder := by
  refine ⟨fun p x hx hy => ?_, fun walk k i q hn hk hi => ⟨rfl, ?_, ?_⟩⟩
  · obtain ⟨hcl, hc⟩ := of_map_val (walkCols_val p x hx)
    obtain ⟨hrl, hr⟩ := of_map_val (walkRows_val p x hy)
    dsimp only
    rcases ho : (p.walk x).order with _ | _
    · have hw : p.walkCells x = (p.walkRows x).flatMap fun y => (p.walkCols x).map fun c => ⟨c, y⟩ := by
        unfold PatternDef.walkCells
        rw [ho]
      rw [hw]
      refine ⟨?_, ?_, fun i q hq => ?_⟩
      · rw [flatMap_map_length, hcl, hrl, Nat.mul_comm]
      · exact nodup_flatMap_map (f := fun y c => (⟨c, y⟩ : Pos)) (by simp [and_comm]) (walkRows_nodup p x) (walkCols_nodup p x)
      · obtain ⟨y, c, hy, hc', rfl⟩ := getElem?_walk (by omega) hq
        rw [hcl] at hy hc'
        exact ⟨hc _ _ hc', hr _ _ hy⟩
    · have hw : p.walkCells x = (p.walkCols x).flatMap fun c => (p.walkRows x).map fun y => ⟨c, y⟩ := by
        unfold PatternDef.walkCells
        rw [ho]
      rw [hw]
      refine ⟨?_, ?_, fun i q hq => ?_⟩
      · rw [flatMap_map_length, hcl, hrl]
      · exact nodup_flatMap_map (f := fun c y => (⟨c, y⟩ : Pos)) (by simp) (walkCols_nodup p x) (walkRows_nodup p x)
      · obtain ⟨c, y, hc', hy, rfl⟩ := getElem?_walk (by omega) hq
        rw [hrl] at hy hc'
        exact ⟨hc _ _ hc', hr _ _ hy⟩
  · rw [seekOrder_some hn hk, List.length_rotate]
  · rw [seekOrder_some hn hk, List.getElem?_rotate hi, Nat.add_comm]

end Sys2Proof.Machine
end

section
/-! SUPPORT. The values after power-on. -/

namespace Sys2Proof.Machine

theorem blank_grid {s : State} (h : s.cells = .replicate 96 .blank) (q : Pos) : s.cell q = .blank := by
  unfold State.cell
  rw [h]
  exact Vector.getElem_replicate _

theorem boom_powerOn {s : State} (ha : s.boomA = .powerOn) (hb : s.boomB = .powerOn) (x : Side) : s.boom x = .powerOn := by
  cases x
  · exact ha
  · exact hb

/-- No flag has a pending notice after power-on, every notice is enabled, and START alone is set (R165, R167, R174). -/
theorem flags_powerOn {s : State} (h : s.flags = flagsPowerOn) (g : Flag) :
    (s.flag g).pending = none ∧ (s.flag g).enable = true ∧ (g ≠ .start → (s.flag g).set = false) := by
  have hall : ∀ g ∈ allFlags, (flagsPowerOn[g.idx]).pending = none ∧ (flagsPowerOn[g.idx]).enable = true ∧
    (g ≠ .start → (flagsPowerOn[g.idx]).set = false) := by decide
  unfold State.flag
  rw [h]
  exact hall g (mem_allFlags g)

/-- A state whose lines alone, beside the count of free choices and the queue, need not be those of the reset holds the power-on
values, where each line stands as after power-on. -/
theorem poweredOn_lines {lines : Vector LineRec 32} {n : Nat} {cs : List Instr}
    (h : ∀ i : Fin 32, lines[i] = .powerOn lines[i].term) :
    poweredOn { State.reset with lines := lines, freeCount := n, pending := cs } := by
  have hgrid (q : Pos) : ({ State.reset with lines := lines, freeCount := n, pending := cs } : State).cell q = .blank :=
    blank_grid rfl q
  have hboom (x : Side) : ({ State.reset with lines := lines, freeCount := n, pending := cs } : State).boom x = .powerOn :=
    boom_powerOn rfl rfl x
  have hflags (g : Flag) := flags_powerOn (s := { State.reset with lines := lines, freeCount := n, pending := cs }) rfl g
  have hline (i : Fin 32) {α : Type} (f : LineRec → α) : f lines[i] = f (.powerOn lines[i].term) := congrArg f (h i)
  refine ⟨⟨rfl, hgrid, rfl, rfl, fun x => ?_, rfl, rfl, rfl, rfl, rfl, rfl, rfl, rfl, rfl, rfl, rfl, rfl,
    fun i => ⟨hline i (·.outValue), ?_⟩, rfl, rfl, rfl, rfl, rfl⟩, rfl, fun g => (hflags g).1, fun i => ⟨?_, ?_⟩, fun r k => ?_,
    rfl, rfl, rfl, rfl, rfl, fun i => ⟨hline i (·.mode), hline i (·.pull), hline i (·.sense), hline i (·.mask),
      hline i (·.binding), hline i (·.analog), hline i (·.latch)⟩, fun g => (hflags g).2, rfl⟩
  · rw [hboom]
    exact ⟨rfl, rfl, rfl, rfl, rfl, rfl, rfl, rfl, rfl, rfl, rfl, rfl, rfl, rfl, rfl, rfl, rfl, rfl⟩
  · exact (hline i (·.snapshot)).trans (hline i (·.digital)).symm
  · exact Vector.getElem_replicate _
  · exact Vector.getElem_replicate _
  · exact (congrArg (·[k]) (Vector.getElem_replicate _)).trans (Vector.getElem_replicate _)

theorem reset_line (i : Fin 32) : State.reset.lines[i] = .powerOn .quiet := Vector.getElem_replicate _

/-- The lines of the reset are inputs, so what their owners command changes none. -/
theorem reset_linesSettled : State.reset.linesSettled := by
  show (Vector.replicate 32 (LineRec.powerOn .quiet)).map (refreshLine State.reset) = .replicate 32 (.powerOn .quiet)
  rw [Vector.map_replicate, refreshLine_input _ _ rfl]

theorem reset_kept : Kept True State.reset := kept_fresh rfl rfl rfl

/-- Settles O4: the values as after power-on, the grid and the booms by the invariant of a fresh part. -/
theorem resetHoldsPowerOnValuesAndInvariants : Obligations.ResetHoldsPowerOnValuesAndInvariants := by
  obtain ⟨hsound, hgrid⟩ := reset_kept
  refine ⟨poweredOn_lines fun i => ?_, rfl, ⟨reset_linesSettled, ?_⟩, fun i => ?_, ?_, ?_, hgrid trivial, hsound⟩
  · exact (reset_line i).trans (congrArg LineRec.powerOn (congrArg LineRec.term (reset_line i)).symm)
  · decide
  · rw [reset_line]
    exact ⟨rfl, rfl, rfl⟩
  · decide
  · exact List.nodup_nil

/-- Settles O5: beside the lines the part stands as after reset. -/
theorem powerOnGivesPowerOnValues : Obligations.PowerOnGivesPowerOnValues := by
  intro s
  have hline (i : Fin 32) : (powerUp s).lines[i] = .powerOn s.lines[i].term := Vector.getElem_map ..
  refine ⟨powerUp s, rfl, poweredOn_lines fun i => ?_, rfl, fun i => ?_⟩
  · exact (hline i).trans (congrArg LineRec.powerOn (congrArg LineRec.term (hline i)).symm)
  · rw [hline]
    exact ⟨rfl, rfl⟩

end Sys2Proof.Machine
end

section
/-! SUPPORT. The skip of a cell and of a claim (R9, R107). -/

namespace Sys2Proof.Machine

/-- One skip more in the tally. -/
def State.countSkip (s : State) : State :=
  { s with tally := { s.tally with skipped := min (s.tally.skipped + 1) 65535 } }

theorem calm_skipCell (n : List Flag) (s : State) (q : Pos) (c : Cell) : Calm n s (s.countSkip.setCell q c) :=
  .of_eq rfl rfl rfl rfl

/-- What follows a change of the grid (R7, R9): booms in SEEK_WAIT seek, and the completion check. -/
theorem calm_gridChanged {n : List Flag} {s u : State} (hn : .patternDone ∈ n) (h : Calm n s u) :
    Calm n s (completionCheck (reseekBoth u)) :=
  h.trans ((calm_reseekBoth u hn).trans (calm_completionCheck _ hn))

/-- What follows a boom's own claim given up (R107). -/
theorem calm_claimGivenUp {n : List Flag} {s u : State} (hn : .patternDone ∈ n) (h : Calm n s u) (x : Side) :
    Calm n s (seekAmong x (completionCheck (endContext x u))) :=
  h.trans ((calm_endContext u x).trans ((calm_completionCheck _ hn).trans (calm_seekAmong _ hn x)))

section
variable {boom a b : Byte} {x : Side} {q : Pos} {p : PatternDef} {s : State} (hx : sideOf boom = some x)
  (hq : posOf a.toNat b.toNat = some q) (hp : s.pattern = some p) (hin : p.inWindow q = true)
include hx hq hp

theorem reqSkip_outside (hout : ¬ p.inWindow q = true) : reqSkip boom a b s = refuse .refusedRange s := by
  unfold reqSkip
  simp only [hx, hq, hp]
  exact if_pos (by simpa using hout)

include hin

/-- A PLANNED cell is skipped (R9). -/
theorem reqSkip_planned (hst : (s.cell q).state = .planned) : reqSkip boom a b s =
    accept [] (completionCheck (reseekBoth (s.countSkip.setCell q { s.cell q with state := .skipped, boom := none }))) := by
  unfold reqSkip
  simp only [hx, hq, hp]
  rw [if_neg (by simpa using hin)]
  split
  · rfl
  · next h _ => exact absurd (hst.symm.trans h) (by decide)
  · next h _ => exact absurd hst h

/-- The boom's own claim is given up (R107). -/
theorem reqSkip_claimed (hst : (s.cell q).state = .claimed) (hown : (s.cell q).boom = some x) : reqSkip boom a b s =
    accept [] (completionCheck (reseekBoth (seekAmong x (completionCheck (endContext x
      (s.countSkip.setCell q { s.cell q with state := .skipped })))))) := by
  unfold reqSkip
  simp only [hx, hq, hp]
  rw [if_neg (by simpa using hin)]
  split
  · next h => exact absurd (hst.symm.trans h) (by decide)
  · next owner _ ho => exact if_pos (Option.some.inj (ho.symm.trans hown))
  · next h => exact absurd hown (h x hst)

/-- Every other cell refuses it. -/
theorem reqSkip_refused (hst : (s.cell q).state ≠ .planned)
    (hown : ¬ ((s.cell q).state = .claimed ∧ (s.cell q).boom = some x)) : reqSkip boom a b s = refuse .refusedState s := by
  unfold reqSkip
  simp only [hx, hq, hp]
  rw [if_neg (by simpa using hin)]
  split
  · next h => exact absurd h hst
  · next owner hc ho => exact if_neg fun (e : owner = x) => hown ⟨hc, ho.trans (congrArg some e)⟩
  · rfl

end

/-- The seeks of a boom and of a waiting one, in either order (log 11). -/
theorem seekAmong_eq (x : Side) (s : State) : ∃ n, seekAmong x s = seek x { s with freeCount := n } ∨
    seekAmong x s = seek x (reseek x.other { s with freeCount := n }) := by
  unfold seekAmong
  dsimp only
  split
  · split
    · exact ⟨_, .inr rfl⟩
    · exact ⟨_, .inl rfl⟩
  · exact ⟨s.freeCount, .inl rfl⟩

/-- Settles O33: each case by what the request does with the named cell. -/
theorem skipTakesAPlannedCellOrAClaim : Obligations.SkipTakesAPlannedCellOrAClaim := by
  intro tag boom a b s hs c
  refine ⟨fun hbad => congrArg Host.Outcome.next (hostSends_same hs ?_), fun x q hx ha hb => ⟨fun hn => ?_, fun p hp =>
    ⟨fun hout => ?_, fun hin => ?_⟩⟩⟩
  · rw [answer_skip, reqSkip]
    rcases hbad with hbad | hbad
    · rw [sideOf_none hbad]
      rfl
    · rw [posOf_eq_none hbad]
      cases sideOf boom <;> rfl
  · refine congrArg Host.Outcome.next (hostSends_same hs ?_)
    rw [answer_skip, reqSkip, sideOf_side hx, posOf_eq_some.mpr ⟨ha, hb⟩]
    simp only [hn]
    rfl
  · rw [← inWindow_iff] at hout
    exact congrArg Host.Outcome.next (hostSends_same hs
      ((answer_skip ..).trans (reqSkip_outside (sideOf_side hx) (posOf_eq_some.mpr ⟨ha, hb⟩) hp hout)))
  · rw [← inWindow_iff] at hin
    intro counted
    refine ⟨fun hst => ?_, fun hst hown => ?_, fun hst hown => ?_⟩
    · have hreq := (answer_skip ..).trans (reqSkip_planned (sideOf_side hx) (posOf_eq_some.mpr ⟨ha, hb⟩) hp hin hst)
      exact ⟨_, rfl, hostSends_ends hs hreq (by simp) (calm_gridChanged (by simp) (calm_skipCell _ s q _))⟩
    · have hreq := (answer_skip ..).trans (reqSkip_claimed (sideOf_side hx) (posOf_eq_some.mpr ⟨ha, hb⟩) hp hin hst hown)
      have hends := hostSends_ends (tag := tag) hs hreq (by simp)
        (calm_gridChanged (by simp) (calm_claimGivenUp (by simp) (calm_skipCell [.patternDone] s q _) x))
      obtain ⟨n, hn⟩ := seekAmong_eq x
        (completionCheck (endContext x (counted.setCell q { s.cell q with state := .skipped })))
      exact ⟨n, _, _, rfl, hn, hends⟩
    · exact congrArg Host.Outcome.next (hostSends_same hs
        ((answer_skip ..).trans (reqSkip_refused (sideOf_side hx) (posOf_eq_some.mpr ⟨ha, hb⟩) hp hin hst hown)))

end Sys2Proof.Machine
end

section
/-! SUPPORT. A rectangle planned or cleared (R5 to R7). -/

namespace Sys2Proof.Machine

theorem mem_rectangle (lo hi q : Pos) : q ∈ rectangle lo hi ↔
    lo.col ≤ q.col ∧ q.col ≤ hi.col ∧ lo.row ≤ q.row ∧ q.row ≤ hi.row := by
  rcases q with ⟨c, r⟩
  simp [rectangle, mem_allRows, mem_allCols]
  tauto

theorem rectangle_nodup (lo hi : Pos) : (rectangle lo hi).Nodup :=
  nodup_flatMap_map (f := fun y c => (⟨c, y⟩ : Pos)) (by simp [and_comm]) (List.Nodup.filter _ (by decide))
    (List.Nodup.filter _ (by decide))

/-- The cells named, marked one after another (R6). -/
def markCells (k : Nat) (cells : List Pos) (s : State) : State :=
  cells.foldl (fun s q => s.setCell q (markCell k (s.cell q))) s

theorem markCells_cons (k : Nat) (q : Pos) (cells : List Pos) (s : State) :
    markCells k (q :: cells) s = markCells k cells (s.setCell q (markCell k (s.cell q))) := rfl

theorem markCells_only (k : Nat) (cells : List Pos) (s : State) :
    markCells k cells s = { s with cells := (markCells k cells s).cells } := by
  induction cells generalizing s with
  | nil => rfl
  | cons q cells ih =>
    rw [markCells_cons]
    exact ih _

/-- Each cell named is marked, every other is left. -/
theorem markCells_cell {k : Nat} {cells : List Pos} (hn : cells.Nodup) (s : State) (q : Pos) :
    (markCells k cells s).cell q = if q ∈ cells then markCell k (s.cell q) else s.cell q := by
  induction cells generalizing s with
  | nil => rfl
  | cons r cells ih =>
    obtain ⟨hr, hn⟩ := List.nodup_cons.mp hn
    rw [markCells_cons, ih hn]
    by_cases he : q = r
    · subst he
      rw [if_neg hr, if_pos (by simp), setCell_cell]
    · simp [setCell_cell_ne _ _ he, he]

theorem markCell_eq (cls : Byte) (c : Cell) : markCell cls.toNat c =
    if cls = 0 then ⟨.off, 0, none, c.attempts, none, none, none, c.detailLost⟩
    else ⟨.planned, cls.toNat, none, if c.state = .failed then c.attempts + 1 else c.attempts, none, none, none, c.detailLost⟩ := by
  have hz : cls.toNat = 0 ↔ cls = 0 := (byte_eq_iff cls 0 (by decide)).symm
  unfold markCell
  simp only [hz]

/-- A grid after CELL_MARK: planned cells clear the completion mark (R7). -/
def marked (cls : Byte) (cells : List Pos) (s : State) : State :=
  if cls.toNat ≠ 0 then { markCells cls.toNat cells s with complete := false } else markCells cls.toNat cells s

theorem toNat_eq_zero (cls : Byte) : cls.toNat = 0 ↔ cls = 0 := (byte_eq_iff cls 0 (by decide)).symm

theorem marked_only (cls : Byte) (cells : List Pos) (s : State) : marked cls cells s =
    { s with cells := (marked cls cells s).cells, complete := if cls = 0 then s.complete else false } := by
  unfold marked
  by_cases hz : cls = 0
  · rw [if_neg (not_not.mpr ((toNat_eq_zero cls).mpr hz)), if_pos hz]
    exact markCells_only ..
  · rw [if_pos (mt (toNat_eq_zero cls).mp hz), if_neg hz, markCells_only]

theorem marked_cell {cls : Byte} {cells : List Pos} (hn : cells.Nodup) (s : State) (q : Pos) :
    (marked cls cells s).cell q = if q ∈ cells then markCell cls.toNat (s.cell q) else s.cell q := by
  rw [← markCells_cell hn]
  unfold marked
  split <;> rfl

theorem calm_marked (n : List Flag) (cls : Byte) (cells : List Pos) (s : State) : Calm n s (marked cls cells s) := by
  rw [marked_only]
  exact .of_eq rfl rfl rfl rfl

/-! ### The checks of R5 -/

theorem any_rectangle (lo hi : Pos) (f : Pos → Bool) : (rectangle lo hi).any f = true ↔
    ∃ q, (lo.col ≤ q.col ∧ q.col ≤ hi.col ∧ lo.row ≤ q.row ∧ q.row ≤ hi.row) ∧ f q = true := by
  simp only [List.any_eq_true, mem_rectangle]

/-- Corners or a class out of their ranges refuse a CELL_MARK (R5). -/
theorem reqCellMark_range {s : State} {p : PatternDef} (hp : s.pattern = some p) {x1 x2 y1 y2 cls : Byte}
    (h : x1.toNat = 0 ∨ 8 < x1.toNat ∨ x2.toNat = 0 ∨ 8 < x2.toNat ∨ y1.toNat = 0 ∨ 12 < y1.toNat ∨ y2.toNat = 0 ∨
      12 < y2.toNat ∨ x2.toNat < x1.toNat ∨ y2.toNat < y1.toNat ∨ 8 < cls.toNat) :
    reqCellMark x1 x2 y1 y2 cls s = refuse .refusedRange s := by
  unfold reqCellMark
  rw [hp]
  dsimp only
  split
  · next lo hi hlo hhi =>
    have hlo := posOf_eq_some.mp hlo
    have hhi := posOf_eq_some.mp hhi
    have hbad : hi.col < lo.col ∨ hi.row < lo.row ∨ 8 < cls.toNat := by
      simp only [Fin.lt_def]
      omega
    exact if_pos hbad
  · rfl

/-- Settles O31: the checks in their order, then the cells by `marked_cell`. -/
theorem cellMarkPlansARectangle : Obligations.CellMarkPlansARectangle := by
  intro tag x1 x2 y1 y2 cls s hs c
  refine ⟨fun hn => congrArg Host.Outcome.next (hostSends_same hs ?_), fun p hp => ⟨fun hbad =>
    congrArg Host.Outcome.next (hostSends_same hs ((answer_cellMark ..).trans (reqCellMark_range hp hbad))),
    fun lo hi hx1 hx2 hy1 hy2 hcol hrow hcls => ?_⟩⟩
  · rw [answer_cellMark, reqCellMark, hn]
    rfl
  · intro inside outOfWindow inUse noClass worn
    have ha : answer 0x19 [x1, x2, y1, y2, cls] s = _ := answer_cellMark ..
    have hrange : ¬ (hi.col < lo.col ∨ hi.row < lo.row ∨ 8 < cls.toNat) := by
      simp only [Fin.lt_def, Fin.le_def] at *
      omega
    have hout : (rectangle lo hi).any (fun q => !p.inWindow q) = true ↔ outOfWindow := by
      simp only [any_rectangle, Bool.not_eq_true', ← Bool.not_eq_true, inWindow_iff]
      rfl
    have huse : (rectangle lo hi).any (fun q => (s.cell q).state == .claimed || (s.cell q).state == .working ||
        (s.cell q).state == .done || (cls.toNat == 0 && (s.cell q).state == .failed)) = true ↔ inUse := by
      simp only [any_rectangle, Bool.or_eq_true, Bool.and_eq_true, beq_iff_eq, toNat_eq_zero, or_assoc]
      rfl
    have hclass : cls.toNat ≠ 0 ∧ (classAt s.classes cls.toNat).isNone = true ↔ noClass := by
      rw [Option.isNone_iff_eq_none, Ne, toNat_eq_zero]
    have hworn : cls.toNat ≠ 0 ∧ (rectangle lo hi).any (fun q => (s.cell q).state == .failed &&
        attemptLimit ≤ (s.cell q).attempts) = true ↔ worn := by
      simp only [any_rectangle, Bool.and_eq_true, beq_iff_eq, decide_eq_true_eq, Ne, toNat_eq_zero]
      rfl
    unfold reqCellMark at ha
    simp only [hp, posOf_eq_some.mpr ⟨hx1, hy1⟩, posOf_eq_some.mpr ⟨hx2, hy2⟩] at ha
    rw [if_neg hrange] at ha
    refine ⟨fun h => ?_, fun h1 h => ?_, fun h1 h2 h => ?_, fun h1 h2 h3 h4 => ?_⟩
    · rw [if_pos (hout.mpr h)] at ha
      exact congrArg Host.Outcome.next (hostSends_same hs ha)
    · rw [if_neg (mt hout.mp h1), if_pos (huse.mpr h)] at ha
      exact congrArg Host.Outcome.next (hostSends_same hs ha)
    · rw [if_neg (mt hout.mp h1), if_neg (mt huse.mp h2)] at ha
      refine congrArg Host.Outcome.next (hostSends_same hs ?_)
      rcases h with h | h
      · rwa [if_pos (hclass.mpr h)] at ha
      · rwa [if_pos (hworn.mpr h), ite_self] at ha
    · rw [if_neg (mt hout.mp h1), if_neg (mt huse.mp h2), if_neg (mt hclass.mp h3), if_neg (mt hworn.mp h4)] at ha
      refine ⟨marked cls (rectangle lo hi) s, _, rfl, marked_only .., fun q hq => ?_, fun q hq => ?_,
        hostSends_ends hs ha (by simp) (calm_gridChanged (by simp) (calm_marked _ cls (rectangle lo hi) s))⟩
      · rw [marked_cell (rectangle_nodup lo hi), if_neg (mt (mem_rectangle lo hi q).mp hq)]
      · rw [marked_cell (rectangle_nodup lo hi), if_pos ((mem_rectangle lo hi q).mpr hq), markCell_eq]

end Sys2Proof.Machine
end

section
/-! SUPPORT. The deadman press: a hole's start and a suspended boom's resumption (R54, R95, R99). -/

namespace Sys2Proof.Machine

/-! ### Lines read while a boom changes -/

theorem setBoom_reads1 (s : State) (x : Side) (b : Boom) (fn : Fn) : (s.setBoom x b).reads1 fn = s.reads1 fn := by
  cases x <;> rfl

theorem setBoom_feedPos (s : State) (x y : Side) (b : Boom) : (s.setBoom x b).feedPos y = s.feedPos y := by
  cases x <;> rfl

theorem setCell_feedPos (s : State) (q : Pos) (c : Cell) (x : Side) : (s.setCell q c).feedPos x = s.feedPos x := rfl

theorem setBoom_setCell_setBoom (s : State) (x : Side) (a b : Boom) (q : Pos) (c : Cell) :
    ((s.setBoom x a).setCell q c).setBoom x b = (s.setCell q c).setBoom x b := by
  cases x <;> rfl

theorem snap_of_ctx {b : Boom} {c : HoleCtx} (h : b.ctx = some c) : b.snap = c.snap := by
  rw [Boom.snap, h]
  rfl

/-! ### A motion's flow asked for -/

/-- The state after a motion's flow was asked for. -/
def asked (x : Side) (m : Motion) (d : Nat) (s : State) : State :=
  { s.setBoom x { s.boom x with port := (s.boom x).port.ask d m s.ticket } with ticket := s.ticket + 1 }

/-- The state of a motion that needs no flow. -/
def flowFree (x : Side) (s : State) : State :=
  s.setBoom x { s.boom x with port := { (s.boom x).port with view := .free } }

/-- A motion asks for its flow, and begins at once where it demands none. -/
theorem askFlow_then (x : Side) (m : Motion) (d : Nat) (s : State) (go : State → State) :
    (if ((askFlow x m d s).boom x).port.view = .free then go (askFlow x m d s) else askFlow x m d s) =
      if d = 0 then go (flowFree x s) else asked x m d s := by
  by_cases hd : d = 0
  · have h : askFlow x m d s = flowFree x s := if_pos hd
    rw [h, if_pos hd, if_pos (by simp [flowFree])]
  · have h : askFlow x m d s = asked x m d s := if_neg hd
    have hview : ((asked x m d s).boom x).port.view = .waiting s.ticket := by cases x <;> rfl
    rw [h, if_neg hd, if_neg (by simp [hview])]

/-- A suspended feed goes on: the phase's flow is asked for again (R99). -/
def resumeFeed (x : Side) (s : State) : State :=
  let m := (s.boom x).motion
  let s := askFlow x m.1 m.2 s
  if (s.boom x).port.view = .free then feedBegins x s else s

theorem askTorque_late {s : State} {x : Side} (hl : (s.boom x).late = true) : askTorque x s = takeLate x s := if_pos hl

section
variable {s : State} {x : Side} {c : HoleCtx} (hc : (s.boom x).ctx = some c)
include hc

theorem resumeFeed_collaring (hp : (s.boom x).phase = .collaring) : resumeFeed x s =
    if c.snap.collarDemand = 0 then feedBegins x (flowFree x s) else asked x .collar c.snap.collarDemand s := by
  have hm : (s.boom x).motion = (.collar, c.snap.collarDemand) := by rw [Boom.motion, hp, snap_of_ctx hc]
  unfold resumeFeed
  rw [hm]
  exact askFlow_then ..

theorem resumeFeed_drilling (hp : (s.boom x).phase = .drilling) : resumeFeed x s =
    if c.snap.drillDemand = 0 then feedBegins x (flowFree x s) else asked x .drill c.snap.drillDemand s := by
  have hm : (s.boom x).motion = (.drill, c.snap.drillDemand) := by rw [Boom.motion, hp, snap_of_ctx hc]
  unfold resumeFeed
  rw [hm]
  exact askFlow_then ..

theorem askRetract_eq : askRetract x s =
    if c.snap.retractDemand = 0 then retractBegins x (flowFree x s) else asked x .retract c.snap.retractDemand s := by
  unfold askRetract
  rw [snap_of_ctx hc]
  exact askFlow_then ..

theorem askSpin_eq : askSpin x s =
    if c.snap.spinDemand = 0 then startSpin x (flowFree x s) else asked x .spin c.snap.spinDemand s := by
  unfold askSpin
  rw [snap_of_ctx hc]
  exact askFlow_then ..

theorem askTorque_eq (hl : (s.boom x).late = false) : askTorque x s =
    if c.snap.torqueDemand = 0 then torqueBegins x (flowFree x s) else asked x .torque c.snap.torqueDemand s := by
  unfold askTorque
  rw [if_neg (by simp [hl]), snap_of_ctx hc]
  exact askFlow_then ..

theorem resumeInserting_eq : resumeInserting x s =
    if c.inFlight.isSome then s.setBoom x { s.boom x with pushTime := 0 }
    else if (s.boom x).waitReason.isSome then s else selectCartridge x s := by
  unfold resumeInserting
  rw [hc]
  rfl

end

/-! ### What a resumption leaves alone -/

theorem calm_resumeFeed (x : Side) (s : State) : Calm (holeFlags x) s (resumeFeed x s) :=
  (calm_askFlow _ s x _ _).trans (.ite (calm_feedBegins _ x) (.refl _ _))

theorem calm_resumeBoom (x : Side) (s : State) : Calm (holeFlags x) s (resumeBoom x s) := by
  have hm (f : Boom → Boom) : Calm (holeFlags x) s (s.modBoom x f) := calm_modBoom _ s x f
  unfold resumeBoom
  split
  · exact .refl _ s
  · dsimp only
    split
    · exact (hm _).trans (calm_resumeFeed x (s.modBoom x _))
    · exact (hm _).trans (calm_resumeFeed x (s.modBoom x _))
    · exact (hm _).trans (calm_askRetract _ x)
    · exact (hm _).trans (calm_askRetract _ x)
    · exact (hm _).trans (calm_resumeInserting _ x)
    · exact (hm _).trans (calm_askSpin _ x)
    · exact (hm _).trans (calm_askTorque _ x)
    · exact hm _

theorem calm_pressDeadman (x : Side) (s : State) : Calm (holeFlags x) s (pressDeadman x s) := by
  unfold pressDeadman
  dsimp only
  split
  · exact .ite (calm_startHole s x) (calm_removeHold s x _)
  · exact .ite ((calm_removeHold s x _).trans (calm_resumeBoom x _)) (calm_removeHold s x _)
  · exact calm_removeHold s x _

/-! ### The press, by the boom's state -/

theorem onlyDeadman_iff (h : Holds) : h.onlyDeadman = true ↔ h.canopy = false ∧ h.pump = false ∧ h.host = false := by
  simp [Holds.onlyDeadman, and_assoc]

/-- The conditions of a hole's start, as the statements say them (R54). -/
theorem canStart_iff (s : State) (x : Side) (b : Boom) : canStart x (s.setBoom x b) = true ↔
    (∃ c, b.ctx = some c ∧ c.atHole = true) ∧ s.canopy.state = .set ∧ s.reads1 .pumpOk = true ∧
      b.holds.canopy = false ∧ b.holds.pump = false ∧ b.holds.host = false := by
  have hat : (b.ctx.map fun c => c.atHole).getD false = true ↔ ∃ c, b.ctx = some c ∧ c.atHole = true := by
    cases b.ctx <;> simp
  simp only [canStart, setBoom_boom, setBoom_canopy, setBoom_reads1, Bool.and_eq_true, hat, beq_iff_eq, onlyDeadman_iff,
    and_assoc]

theorem removeHold_setBoom (s : State) (x : Side) (b : Boom) (f : Holds → Holds) :
    removeHold x f (s.setBoom x b) = s.setBoom x { b with holds := f b.holds } := by
  simp only [removeHold, modBoom_eq, setBoom_boom, setBoom_setBoom]

section
variable {s : State} {x : Side}

theorem pressDeadman_positioning (h : (s.boom x).phase = .positioning) : pressDeadman x s =
    if canStart x s then startHole x s else removeHold x (fun k => { k with deadman := false }) s := by
  unfold pressDeadman
  dsimp only
  rw [h]

theorem pressDeadman_suspended (h : (s.boom x).phase = .suspended) : pressDeadman x s =
    if (s.boom x).holds.onlyDeadman then resumeBoom x (removeHold x (fun k => { k with deadman := false }) s)
    else removeHold x (fun k => { k with deadman := false }) s := by
  unfold pressDeadman
  dsimp only
  rw [h]

theorem pressDeadman_else (h1 : (s.boom x).phase ≠ .positioning) (h2 : (s.boom x).phase ≠ .suspended) :
    pressDeadman x s = removeHold x (fun k => { k with deadman := false }) s := by
  unfold pressDeadman
  dsimp only
  split
  · contradiction
  · contradiction
  · rfl

theorem takeBaseFeed_none {d : Nat} (h : (s.boom x).base = some ⟨d, none⟩) :
    takeBaseFeed x s = s.setBoom x { s.boom x with base := some ⟨d, some (s.feedPos x)⟩ } := by
  unfold takeBaseFeed
  rw [modBoom_eq, h]

theorem startHole_eq {c : HoleCtx} (hc : (s.boom x).ctx = some c) : startHole x s =
    (let u := (s.setCell c.pos { s.cell c.pos with state := .working }).setBoom x
       { s.boom x with phase := .collaring, holds := .empty, base := some ⟨0, none⟩, phaseTime := 0 }
     if c.snap.collarDemand = 0 then takeBaseFeed x (flowFree x u) else asked x .collar c.snap.collarDemand u) := by
  unfold startHole
  rw [hc]
  dsimp only
  rw [modBoom_eq, setCell_boom, setBoom_boom, snap_of_ctx (c := c) (by exact hc)]
  exact askFlow_then ..

/-- In each phase that can be suspended, what the resumption does once the boom is back in it (R99). -/
theorem resumeBoom_feeding {ph : Phase} (h : (s.boom x).suspendedPhase = some ph) (hp : ph = .collaring ∨ ph = .drilling) :
    resumeBoom x s = resumeFeed x (s.modBoom x fun b => { b with phase := ph, suspendedPhase := none }) := by
  unfold resumeBoom
  rw [h]
  rcases hp with rfl | rfl <;> rfl

theorem resumeBoom_retracting {ph : Phase} (h : (s.boom x).suspendedPhase = some ph)
    (hp : ph = .steelChange ∨ ph = .retracting) :
    resumeBoom x s = askRetract x (s.modBoom x fun b => { b with phase := ph, suspendedPhase := none }) := by
  unfold resumeBoom
  rw [h]
  rcases hp with rfl | rfl <;> rfl

theorem resumeBoom_inserting (h : (s.boom x).suspendedPhase = some .inserting) :
    resumeBoom x s = resumeInserting x (s.modBoom x fun b => { b with phase := .inserting, suspendedPhase := none }) := by
  unfold resumeBoom
  rw [h]

theorem resumeBoom_spinning (h : (s.boom x).suspendedPhase = some .spinning) :
    resumeBoom x s = askSpin x (s.modBoom x fun b => { b with phase := .spinning, suspendedPhase := none }) := by
  unfold resumeBoom
  rw [h]

theorem resumeBoom_torquing (h : (s.boom x).suspendedPhase = some .torquing) :
    resumeBoom x s = askTorque x (s.modBoom x fun b => { b with phase := .torquing, suspendedPhase := none }) := by
  unfold resumeBoom
  rw [h]

end

section
variable {s : State} {x : Side} {b : Boom}

/-- A press that neither starts nor resumes removes DEADMAN alone (R95). -/
theorem press_removes (h1 : ¬ (b.phase = .positioning ∧ canStart x (s.setBoom x b) = true))
    (h2 : ¬ (b.phase = .suspended ∧ b.holds.onlyDeadman = true)) :
    pressDeadman x (s.setBoom x b) = s.setBoom x { b with holds := { b.holds with deadman := false } } := by
  rw [← removeHold_setBoom (f := fun k => { k with deadman := false })]
  by_cases hp : b.phase = .positioning
  · rw [pressDeadman_positioning (by rwa [setBoom_boom]), if_neg fun k => h1 ⟨hp, k⟩]
  · by_cases hs : b.phase = .suspended
    · rw [pressDeadman_suspended (by rwa [setBoom_boom]), setBoom_boom, if_neg fun k => h2 ⟨hs, k⟩]
    · exact pressDeadman_else (by rwa [setBoom_boom]) (by rwa [setBoom_boom])

/-- A press in POSITIONING starts the hole (R54). -/
theorem press_starts {c : HoleCtx} (hp : b.phase = .positioning) (hst : canStart x (s.setBoom x b) = true)
    (hc : b.ctx = some c) : pressDeadman x (s.setBoom x b) =
    (let u := (s.setCell c.pos { s.cell c.pos with state := .working }).setBoom x
       { b with phase := .collaring, holds := .empty, base := some ⟨0, none⟩, phaseTime := 0 }
     if c.snap.collarDemand = 0 then
       u.setBoom x { u.boom x with base := some ⟨0, some (s.feedPos x)⟩, port := { b.port with view := .free } }
     else { u.setBoom x { u.boom x with port := (u.boom x).port.ask c.snap.collarDemand .collar s.ticket } with
       ticket := s.ticket + 1 }) := by
  rw [pressDeadman_positioning (by rwa [setBoom_boom]), if_pos hst, startHole_eq (c := c) (by rwa [setBoom_boom])]
  dsimp only
  rw [takeBaseFeed_none (d := 0) (by simp [flowFree])]
  simp only [flowFree, asked, setBoom_boom, setBoom_cell, setBoom_setBoom, setBoom_setCell_setBoom, setBoom_feedPos,
    setCell_feedPos, setBoom_ticket, setCell_ticket]

/-- A press in SUSPENDED goes on in the suspended phase (R99). -/
theorem press_resumes {ph : Phase} {go : State → State} (hp : b.phase = .suspended) (ha : b.holds.onlyDeadman = true)
    (hs : b.suspendedPhase = some ph)
    (hgo : ∀ w : State, (w.boom x).suspendedPhase = some ph →
      resumeBoom x w = go (w.modBoom x fun b => { b with phase := ph, suspendedPhase := none })) :
    pressDeadman x (s.setBoom x b) = go (s.setBoom x { b with
      phase := ph, suspendedPhase := none, holds := { b.holds with deadman := false } }) := by
  rw [pressDeadman_suspended (by rwa [setBoom_boom]), setBoom_boom, if_pos ha, removeHold_setBoom,
    hgo _ (by rwa [setBoom_boom])]
  simp only [modBoom_eq, setBoom_boom, setBoom_setBoom]

end

end Sys2Proof.Machine
end

section
/-! SUPPORT. How a deadman press ends. -/

namespace Sys2Proof.Machine

/-- A boom's flow asked for, of a state that differs from one in a boom alone. -/
theorem asked_setBoom (x : Side) (m : Motion) (d : Nat) (s : State) (b : Boom) : asked x m d (s.setBoom x b) =
    { (s.setBoom x b).setBoom x { (s.setBoom x b).boom x with port := ((s.setBoom x b).boom x).port.ask d m s.ticket } with
      ticket := s.ticket + 1 } := by
  rw [asked, setBoom_ticket]

theorem flowFree_setBoom (x : Side) (s : State) (b : Boom) : flowFree x (s.setBoom x b) =
    (s.setBoom x b).setBoom x { (s.setBoom x b).boom x with port := { b.port with view := .free } } := by
  rw [flowFree, setBoom_boom]

/-- A press that waits is taken, and its event ends with what the press left. -/
theorem exec_press {s : State} {x : Side} (hn : (s.boom x).hasNext (.deadman true) = true) :
    exec (.deadmanPress x) s = .next (settle (pressDeadman x (s.setBoom x { s.boom x with
      events := (s.boom x).events.erase (.deadman true) }))) :=
  congrArg Host.Outcome.next (if_pos hn)

theorem press_ends {named : List Flag} {s v : State} {x : Side} (hs : s.settled) (hl : .lines ∉ named)
    (hn : (s.boom x).hasNext (.deadman true) = true)
    (hv : pressDeadman x (s.setBoom x { s.boom x with events := (s.boom x).events.erase (.deadman true) }) = v)
    (hc : Calm named s (pressDeadman x (s.setBoom x { s.boom x with
      events := (s.boom x).events.erase (.deadman true) }))) : ∃ t, exec (.deadmanPress x) s = .next t ∧ ends named s v t :=
  ⟨settle v, hv ▸ exec_press hn, ends_settle hs hl (hv ▸ hc)⟩

/-- Settles O48: the press by the boom's state, and in SUSPENDED by the phase it goes on in. -/
theorem deadmanPressStartsOrResumes : Obligations.DeadmanPressStartsOrResumes := by
  intro x s hs hn b alone starts asks
  refine ⟨fun h1 h2 => ?_, fun c hp hst hc => ?_, fun c ph hp ha hc hph => ?_⟩
  · have hpress := press_removes (s := s) (x := x) (b := b) (by rwa [canStart_iff]) (by rwa [onlyDeadman_iff])
    rw [exec_press hn, hpress]
    exact congrArg Host.Outcome.next (settle_settled (settled_setBoom hs x _ rfl))
  · have hpress := press_starts (s := s) hp ((canStart_iff s x b).mpr hst) hc
    have hcalm : Calm [] s (pressDeadman x (s.setBoom x b)) := by
      rw [pressDeadman_positioning (by rwa [setBoom_boom]), if_pos ((canStart_iff s x b).mpr hst)]
      exact (calm_setBoom _ s x _).trans (calm_startHole _ x)
    exact press_ends hs (by simp) hn hpress hcalm
  · intro u next
    have hboom : (u.boom x) = _ := setBoom_boom s x _
    have hctx : (u.boom x).ctx = some c := by rw [hboom]; exact hc
    have hphase : (u.boom x).phase = ph := by rw [hboom]
    have hgo {go : State → State} {v : State} (hgo : ∀ w : State, (w.boom x).suspendedPhase = some ph →
        resumeBoom x w = go (w.modBoom x fun b => { b with phase := ph, suspendedPhase := none })) (hv : go u = v) :
        next v :=
      have hpress := (press_resumes (s := s) hp ((onlyDeadman_iff _).mpr ha) hph hgo).trans hv
      press_ends hs (lines_not_mem_holeFlags x) hn hpress ((calm_setBoom _ s x b).trans (calm_pressDeadman x _))
    refine ⟨fun h hd => ?_, fun h hd => ?_, fun h hd => ?_, fun h hd => ?_, fun h hl => ?_, fun h hl hd => ?_,
      fun h hf => ?_, fun h hf hw => ?_, fun h hf hw => ?_, fun h => ?_, fun ⟨h, hd⟩ => ?_, fun ⟨h, hd⟩ => ?_,
      fun ⟨h, hl, hd⟩ => ?_⟩
    · refine hgo (fun w hw => resumeBoom_feeding hw (.inl h)) ?_
      rw [resumeFeed_collaring hctx (hphase.trans h), if_neg hd]
      exact asked_setBoom ..
    · refine hgo (fun w hw => resumeBoom_feeding hw (.inr h)) ?_
      rw [resumeFeed_drilling hctx (hphase.trans h), if_neg hd]
      exact asked_setBoom ..
    · refine hgo (fun w hw => resumeBoom_retracting hw h) ?_
      rw [askRetract_eq hctx, if_neg hd]
      exact asked_setBoom ..
    · subst h
      refine hgo (fun w hw => resumeBoom_spinning hw) ?_
      rw [askSpin_eq hctx, if_neg hd]
      exact asked_setBoom ..
    · subst h
      exact hgo (fun w hw => resumeBoom_torquing hw) (askTorque_late hl)
    · subst h
      refine hgo (fun w hw => resumeBoom_torquing hw) ?_
      rw [askTorque_eq hctx hl, if_neg hd]
      exact asked_setBoom ..
    · subst h
      refine hgo (fun w hw => resumeBoom_inserting hw) ?_
      rw [resumeInserting_eq hctx, if_pos (Option.isSome_iff_ne_none.mpr hf)]
    · subst h
      refine hgo (fun w hw => resumeBoom_inserting hw) ?_
      rw [resumeInserting_eq hctx, if_neg (by simp [hf]), if_pos (by rw [hboom]; exact Option.isSome_iff_ne_none.mpr hw)]
    · subst h
      refine hgo (fun w hw => resumeBoom_inserting hw) ?_
      rw [resumeInserting_eq hctx, if_neg (by simp [hf]), if_neg (by rw [hboom]; exact fun k => Option.isSome_iff_ne_none.mp k hw)]
    · rcases h with ⟨h, hd⟩ | ⟨h, hd⟩
      · refine hgo (fun w hw => resumeBoom_feeding hw (.inl h)) ?_
        rw [resumeFeed_collaring hctx (hphase.trans h), if_pos hd, flowFree_setBoom]
      · refine hgo (fun w hw => resumeBoom_feeding hw (.inr h)) ?_
        rw [resumeFeed_drilling hctx (hphase.trans h), if_pos hd, flowFree_setBoom]
    · refine hgo (fun w hw => resumeBoom_retracting hw h) ?_
      rw [askRetract_eq hctx, if_pos hd, flowFree_setBoom]
    · subst h
      refine hgo (fun w hw => resumeBoom_spinning hw) ?_
      rw [askSpin_eq hctx, if_pos hd, flowFree_setBoom]
    · subst h
      refine hgo (fun w hw => resumeBoom_torquing hw) ?_
      rw [askTorque_eq hctx hl, if_pos hd, flowFree_setBoom]

end Sys2Proof.Machine
end

section
/-! SUPPORT. The class store's tables: the codes of a row, the strata table, the scales (R27 to R29, R43, R44). -/

namespace Sys2Proof.Machine

/-! ### Fields read one by one -/

/-- A list of fields is refused where one of them is. -/
theorem mapM_eq_none_iff {α β : Type} (f : α → Option β) (l : List α) : l.mapM f = none ↔ ∃ a ∈ l, f a = none := by
  induction l with
  | nil => simp
  | cons a l ih =>
    rcases ha : f a with _ | k
    · simp [List.mapM_cons, ha]
    · rcases hl : l.mapM f with _ | ks
      · simpa [List.mapM_cons, ha, hl] using ih.mp hl
      · have hnone : ¬ ∃ a ∈ l, f a = none := mt ih.mpr (by simp [hl])
        simpa [List.mapM_cons, ha, hl] using hnone

/-- Fields that were read are written again as they stood. -/
theorem map_of_mapM {α β : Type} {f : α → Option β} {g : β → α} (hg : ∀ a k, f a = some k → g k = a) {l : List α}
    {ks : List β} (h : l.mapM f = some ks) : ks.map g = l := by
  induction l generalizing ks with
  | nil =>
    obtain rfl : ks = [] := by simpa [eq_comm] using h
    rfl
  | cons a l ih =>
    rcases ha : f a with _ | k
    · simp [List.mapM_cons, ha] at h
    · rcases hl : l.mapM f with _ | ks'
      · simp [List.mapM_cons, ha, hl] at h
      · obtain rfl : ks = k :: ks' := by simpa [List.mapM_cons, ha, hl, eq_comm] using h
        rw [List.map_cons, hg a k ha, ih hl]

/-- A strata class read is written by its code. -/
theorem byteOf_strataOf (b : Byte) (k : StrataClass) (h : strataOf b = some k) : byteOf k.code = b := by
  refine ((byte_eq_iff b k.code (by cases k <;> decide)).mpr ?_).symm
  unfold strataOf at h
  split at h <;> cases h <;> assumption

theorem strataOf_eq_none_iff (b : Byte) : strataOf b = none ↔ 7 < b.toNat := by
  unfold strataOf
  split <;> simp_all
  omega

/-! ### The strata table -/

theorem bandIdx_of {b : Byte} {r : Fin 16} (h : b.toNat = r.val) : bandIdx b = some r := by
  unfold bandIdx
  rw [dif_pos (by omega)]
  exact congrArg some (Fin.ext h)

theorem bandIdx_none {b : Byte} (h : 15 < b.toNat) : bandIdx b = none := dif_neg (by omega)

/-- Sixteen codes of strata classes are a row, which is written as they stood. -/
theorem strataRow_of {codes : List Byte} (hl : codes.length = 16) (h : ∀ c ∈ codes, c.toNat ≤ 7) :
    ∃ row, strataRow codes = some row ∧ row.toList.map (fun c => byteOf c.code) = codes := by
  rcases hm : codes.mapM strataOf with _ | cs
  · obtain ⟨c, hc, hn⟩ := (mapM_eq_none_iff _ _).mp hm
    exact absurd ((strataOf_eq_none_iff c).mp hn) (Nat.not_lt.mpr (h c hc))
  · have hcs : cs.map (fun c => byteOf c.code) = codes := map_of_mapM byteOf_strataOf hm
    have hlen : cs.length = 16 := by rw [← hl, ← hcs, List.length_map]
    refine ⟨⟨cs.toArray, by simp [hlen]⟩, ?_, hcs⟩
    unfold strataRow
    rw [hm]
    exact dif_pos hlen

/-- A code that names no strata class makes no row. -/
theorem strataRow_none {codes : List Byte} (h : ∃ c ∈ codes, 7 < c.toNat) : strataRow codes = none := by
  obtain ⟨c, hc, hn⟩ := h
  unfold strataRow
  rw [(mapM_eq_none_iff _ _).mpr ⟨c, hc, (strataOf_eq_none_iff c).mpr hn⟩]

/-- Settles O23. -/
theorem strataReadReportsARow : Obligations.StrataReadReportsARow := by
  intro tag band s hs
  refine ⟨fun r hr => congrArg Host.Outcome.next (hostSends_same hs ?_),
    fun hb => congrArg Host.Outcome.next (hostSends_same hs ?_)⟩
  · rw [answer_strataRead, reqStrataRead, bandIdx_of hr]
    rfl
  · rw [answer_strataRead, reqStrataRead, bandIdx_none hb]
    rfl

/-- The class store drives no output: a settled part stays settled whatever it holds. -/
theorem settled_classStore {s : State} (h : s.settled) (classes : Vector (Option ClassRec) 8)
    (strata : Vector (Vector StrataClass 16) 16) (rate pressure : Nat) (temps : Vector Nat 8) :
    ({ s with classes := classes, strata := strata, rateStep := rate, pressureStep := pressure,
              temps := temps } : State).settled :=
  settled_congr h rfl rfl rfl rfl (ownerCommand_congr (fun x => by cases x <;> rfl) rfl rfl)

theorem inRange_iff (lo hi n : Nat) : inRange lo hi n = true ↔ lo ≤ n ∧ n ≤ hi := by simp [inRange]

/-! ### STRATA_WRITE -/

/-- The lengths of a STRATA_WRITE: 17 bytes after form 1, two after form 2 (section 10.6). -/
theorem strataWrite_length {tag form : Byte} {rest : List Byte} (h : (Instr.strataWrite tag form rest).wellFormed) :
    (form = 1 → rest.length = 17) ∧ (form = 2 → rest.length = 2) := by
  have h : lengthAllowed 0x12 (form :: rest) = true := h
  have hb : bodyLengths (0x12 : Byte).toNat = some [18, 3] := rfl
  unfold lengthAllowed at h
  rw [hb] at h
  simp only [List.contains_cons, List.length_cons, List.head?_cons, Bool.and_eq_true] at h
  constructor <;> rintro rfl <;> simp at h <;> omega

section
variable (s : State)

/-- Form 1 replaces a row of the table, where band and codes name one (R28). -/
theorem reqStrataWrite_row (band : Byte) (codes : List Byte) : reqStrataWrite 1 (band :: codes) s =
    ((bandIdx band).bind fun i => (strataRow codes).map fun row =>
      accept [] { s with strata := s.strata.set i row }).getD (refuse .refusedRange s) := by
  unfold reqStrataWrite
  split
  · next band' codes' _ he =>
    cases he
    rcases bandIdx band with _ | i
    · rfl
    · rcases strataRow codes with _ | row <;> rfl
  · next hf _ => cases hf
  · next hno _ => exact absurd rfl (hno band codes rfl)

/-- Form 2 replaces the two steps, each in its range (R28). -/
theorem reqStrataWrite_steps (rate pressure : Byte) : reqStrataWrite 2 [rate, pressure] s =
    if inRange 1 50 rate.toNat && inRange 1 30 pressure.toNat then
      accept [] { s with rateStep := rate.toNat, pressureStep := pressure.toNat }
    else refuse .refusedRange s := rfl

/-- No other form is taken. -/
theorem reqStrataWrite_form {form : Byte} (h1 : form ≠ 1) (h2 : form ≠ 2) (rest : List Byte) :
    reqStrataWrite form rest s = refuse .refusedRange s := by
  unfold reqStrataWrite
  split
  · next hf => exact absurd ((byte_eq_iff form 1 (by decide)).mpr hf) h1
  · next hf => exact absurd ((byte_eq_iff form 2 (by decide)).mpr hf) h2
  · rfl

end

/-! ### TEMP_WRITE -/

/-- A two-byte field sent and read. -/
theorem wordsOf_wordBytes (w : Word) (bs : List Byte) : wordsOf (wordBytes w ++ bs) = w.toNat :: wordsOf bs := by
  have hw := w.isLt
  simp only [wordBytes, List.cons_append, List.nil_append, wordsOf, fromTwo, byteOf, BitVec.toNat_ofNat]
  congr 1
  omega

theorem wordsOf_flatMap (ws : List Word) : wordsOf (ws.flatMap wordBytes) = ws.map BitVec.toNat := by
  induction ws with
  | nil => rfl
  | cons w ws ih => rw [List.flatMap_cons, wordsOf_wordBytes, ih, List.map_cons]

/-- The eight scales are taken where each is in its range, and else none is (R44). -/
theorem reqTempWrite_eq (scales : Vector Word 8) (s : State) : reqTempWrite (scales.toList.flatMap wordBytes) s =
    if ∀ i : Fin 8, 50 ≤ scales[i].toNat ∧ scales[i].toNat ≤ 300 then accept [] { s with temps := scales.map BitVec.toNat }
    else refuse .refusedRange s := by
  have hall : (scales.toList.map BitVec.toNat).all (inRange 50 300) = true ↔
      ∀ i : Fin 8, 50 ≤ scales[i].toNat ∧ scales[i].toNat ≤ 300 := by
    simp only [List.all_map, List.all_eq_true, Vector.mem_toList_iff, Vector.mem_iff_getElem, Function.comp, inRange_iff]
    exact ⟨fun h i => h _ ⟨i.val, i.isLt, rfl⟩, fun h w ⟨i, hi, hw⟩ => hw ▸ h ⟨i, hi⟩⟩
  unfold reqTempWrite
  simp only [wordsOf_flatMap, hall]
  rw [dif_pos (by simp)]
  congr 3
  exact Vector.toList_inj.mp Vector.toList_map.symm

/-- Settles O22: each table by what its request does with it. -/
theorem tablesAreReplacedAsWritten : Obligations.TablesAreReplacedAsWritten := by
  refine ⟨fun tag form rest s hs hwf => ?_, fun tag scales s hs => congrArg Host.Outcome.next ?_⟩
  · have hans : answer 0x12 (form :: rest) s = reqStrataWrite form rest s := answer_strataWrite _ _ _ hwf
    obtain ⟨hrow, hsteps⟩ := strataWrite_length hwf
    have refused (h : reqStrataWrite form rest s = refuse .refusedRange s) :
        exec (.strataWrite tag form rest) s = .next (s.withReply 0x92 tag [2]) :=
      congrArg Host.Outcome.next (hostSends_same hs (hans.trans h))
    refine ⟨fun r band codes hf hrest hband hcodes => ?_, fun rate pressure hf hrest h1 h2 h3 h4 => ?_, ?_⟩
    · subst hf hrest
      obtain ⟨row, hr, hw⟩ := strataRow_of (by simpa using hrow rfl) hcodes
      rw [reqStrataWrite_row, bandIdx_of hband, hr] at hans
      refine ⟨_, congrArg Host.Outcome.next (hostSends_exact hs hans (settled_classStore hs.1 _ _ _ _ _)), rfl,
        fun k hk => ?_, ?_⟩
      · exact Vector.getElem_set_ne r.isLt k.isLt fun e => hk (Fin.ext e.symm)
      · simpa [State.withReply] using hw
    · subst hf hrest
      have hin : (inRange 1 50 rate.toNat && inRange 1 30 pressure.toNat) = true := by
        simp only [Bool.and_eq_true, inRange_iff]
        exact ⟨⟨h1, h2⟩, h3, h4⟩
      rw [reqStrataWrite_steps, if_pos hin] at hans
      exact congrArg Host.Outcome.next (hostSends_exact hs hans (settled_classStore hs.1 _ _ _ _ _))
    · rintro (⟨h1, h2⟩ | ⟨rfl, hbad⟩ | ⟨rfl, hbad⟩)
      · exact refused (reqStrataWrite_form s h1 h2 rest)
      · obtain ⟨band, codes, rfl⟩ := List.exists_cons_of_length_eq_add_one (hrow rfl)
        refine refused ?_
        rw [reqStrataWrite_row]
        rcases hbad band codes rfl with hb | hc
        · rw [bandIdx_none hb]
          rfl
        · rw [strataRow_none hc]
          cases bandIdx band <;> rfl
      · obtain ⟨rate, pressure, rfl⟩ := List.length_eq_two.mp (hsteps rfl)
        refine refused ?_
        have hout : ¬ (inRange 1 50 rate.toNat && inRange 1 30 pressure.toNat) = true := by
          have := hbad rate pressure rfl
          simp only [Bool.and_eq_true, inRange_iff]
          omega
        rw [reqStrataWrite_steps, if_neg hout]
  · have ha : answer 0x14 (scales.toList.flatMap wordBytes) s = _ := (answer_tempWrite scales s).trans (reqTempWrite_eq scales s)
    split
    · next h => exact hostSends_exact hs (ha.trans (if_pos h)) (settled_classStore hs.1 _ _ _ _ _)
    · next h => exact hostSends_same hs (ha.trans (if_neg h))

end Sys2Proof.Machine
end

section
/-! SUPPORT. Class records: the bytes of a record, its fields and their ranges (R22 to R25). -/

namespace Sys2Proof.Machine

/-! ### Fields of a record -/

theorem twoBytes_fromTwo (hi lo : Byte) : twoBytes (fromTwo hi lo) = [hi, lo] := by
  have h1 := hi.isLt
  have h2 := lo.isLt
  have hmin : min (hi.toNat * 256 + lo.toNat) 65535 = hi.toNat * 256 + lo.toNat := by omega
  have hq : (hi.toNat * 256 + lo.toNat) / 256 = hi.toNat := by omega
  have hr : (hi.toNat * 256 + lo.toNat) % 256 = lo.toNat := by omega
  simp only [twoBytes, fromTwo, hmin, hq, hr, byteOf_toNat]

theorem byteOf_actionOf (b : Byte) (a : Action) (h : actionOf b = some a) : byteOf a.code = b := by
  refine ((byte_eq_iff b a.code (by cases a <;> decide)).mpr ?_).symm
  unfold actionOf at h
  split at h <;> cases h <;> assumption

theorem actionOf_eq_none_iff (b : Byte) : actionOf b = none ↔ b = 0 ∨ 4 < b.toNat := by
  rw [← toNat_eq_zero]
  unfold actionOf
  split <;> simp_all
  omega

theorem byteOf_cartOf (b : Byte) (k : CartKind) (h : cartOf b = some k) : byteOf k.code = b := by
  refine ((byte_eq_iff b k.code (by cases k <;> decide)).mpr ?_).symm
  unfold cartOf at h
  split at h <;> cases h <;> assumption

theorem cartOf_eq_none_iff (b : Byte) : cartOf b = none ↔ b = 0 ∨ 3 < b.toNat := by
  rw [← toNat_eq_zero]
  unfold cartOf
  split <;> simp_all
  omega

/-- Kinds are none where the count or a kind within it names nothing; the positions past the count are not looked at (R23). -/
theorem cartridgesOf_eq_none_iff (n : Nat) (k : Fin 4 → Byte) : cartridgesOf n (List.ofFn k) = none ↔
    n = 0 ∨ 4 < n ∨ ∃ i : Fin 4, i.val < n ∧ (k i = 0 ∨ 3 < (k i).toNat) := by
  unfold cartridgesOf
  split
  · next h =>
    have h := (inRange_iff _ _ _).mp h
    rw [mapM_eq_none_iff]
    simp only [List.mem_take_iff_getElem, cartOf_eq_none_iff]
    constructor
    · rintro ⟨b, ⟨i, hi, rfl⟩, hk⟩
      rw [List.length_ofFn] at hi
      rw [List.getElem_ofFn] at hk
      exact .inr (.inr ⟨⟨i, by omega⟩, by dsimp only; omega, hk⟩)
    · rintro (h0 | h4 | ⟨i, hi, hk⟩)
      · omega
      · omega
      · exact ⟨k i, ⟨i.val, by rw [List.length_ofFn]; omega, List.getElem_ofFn _⟩, hk⟩
  · next h =>
    rw [inRange_iff] at h
    simp only [true_iff]
    omega

/-- Kinds that were read are sent as they stood, unused positions as 0. -/
theorem kindBytes_cartridgesOf {n : Nat} {k0 k1 k2 k3 : Byte} {ks : List CartKind}
    (h : cartridgesOf n [k0, k1, k2, k3] = some ks) :
    kindBytes 4 ks =
        [if n ≤ 0 then 0 else k0, if n ≤ 1 then 0 else k1, if n ≤ 2 then 0 else k2, if n ≤ 3 then 0 else k3] ∧
      ks.length = n := by
  unfold cartridgesOf at h
  split at h
  · next hn =>
    have hn := (inRange_iff _ _ _).mp hn
    have hks : ks.map (fun k => byteOf k.code) = [k0, k1, k2, k3].take n := map_of_mapM byteOf_cartOf h
    have hlen : ks.length = n := by
      rw [← List.length_map (fun k => byteOf k.code), hks]
      simp
      omega
    refine ⟨?_, hlen⟩
    rw [kindBytes_eq, List.take_of_length_le (by omega), hks, hlen]
    obtain rfl | rfl | rfl | rfl : n = 1 ∨ n = 2 ∨ n = 3 ∨ n = 4 := by omega
    all_goals rfl
  · cases h

/-- The checks of R23, as the statements say them. -/
theorem valid_iff (c : ClassRec) (i : Nat) : c.valid i = true ↔ c.allowed i := by
  simp only [ClassRec.valid, ClassRec.fieldsInRange, ClassRec.allowed, Bool.and_eq_true, inRange_iff, List.all_cons,
    List.all_nil, decide_eq_true_eq, bne_iff_ne, and_assoc, Nat.zero_le, true_and, and_true]

/-! ### The bytes of a record (section 10.6) -/

theorem getD_toList (record : Vector Byte 44) {k : Nat} (h : k < 44) : record.toList.getD k 0 = record[k] := by
  rw [List.getD_eq_getElem _ _ (by simpa using h), Vector.getElem_toList]

/-- A record is read where its action and its cartridges are. -/
theorem parseClass_eq_none_iff_or (bs : List Byte) : parseClass bs = none ↔ actionOf (bs.getD 11 0) = none ∨
    cartridgesOf (bs.getD 15 0).toNat [bs.getD 16 0, bs.getD 17 0, bs.getD 18 0, bs.getD 19 0] = none := by
  unfold parseClass
  dsimp only
  rcases actionOf (bs.getD 11 0) with _ | a
  · simp
  · rcases cartridgesOf (bs.getD 15 0).toNat [bs.getD 16 0, bs.getD 17 0, bs.getD 18 0, bs.getD 19 0] with _ | ks <;> simp

/-- A record is read as none where its action, its cartridge count or a kind within the count names nothing. -/
theorem parseClass_eq_none_iff (record : Vector Byte 44) : parseClass record.toList = none ↔
    record[11] = 0 ∨ 4 < record[11].toNat ∨ record[15] = 0 ∨ 4 < record[15].toNat ∨
      ∃ i : Fin 4, i.val < record[15].toNat ∧ (record[16 + i.val] = 0 ∨ 3 < record[16 + i.val].toNat) := by
  have hk : [record[16], record[17], record[18], record[19]] = List.ofFn fun i : Fin 4 => record[16 + i.val] := rfl
  rw [parseClass_eq_none_iff_or, getD_toList _ (by omega), getD_toList _ (by omega), getD_toList _ (by omega),
    getD_toList _ (by omega), getD_toList _ (by omega), getD_toList _ (by omega), hk, actionOf_eq_none_iff,
    cartridgesOf_eq_none_iff, toNat_eq_zero, or_assoc]

/-- Bytes sent with the positions past a count as 0: those before the four positions, the four, and those behind. -/
theorem range_map_blanked (n : Nat) (g : Nat → Byte) :
    ((List.range 44).map fun k => if 16 + n ≤ k ∧ k < 20 then 0 else g k) =
      (List.range 16).map g ++ ((List.range 4).map fun j => if n ≤ j then 0 else g (16 + j)) ++
        (List.range 24).map fun j => g (20 + j) := by
  have hrange : List.range 44 = List.range 16 ++ (List.range 4).map (16 + ·) ++ (List.range 24).map (20 + ·) := rfl
  rw [hrange, List.map_append, List.map_append, List.map_map, List.map_map]
  congr 1
  · congr 1
    · refine List.map_congr_left fun k hk => if_neg ?_
      rw [List.mem_range] at hk
      omega
    · refine List.map_congr_left fun j hj => if_congr ?_ rfl rfl
      rw [List.mem_range] at hj
      dsimp only
      omega
  · exact List.map_congr_left fun j _ => if_neg (by dsimp only; omega)

/-- A record that was read is sent as it was written, unused cartridge positions as 0. -/
theorem classBytes_parseClass {bs : List Byte} {c : ClassRec} (h : parseClass bs = some c) :
    classBytes c = (List.range 44).map fun k =>
      if 16 + (bs.getD 15 0).toNat ≤ k ∧ k < 20 then 0 else bs.getD k 0 := by
  unfold parseClass at h
  dsimp only at h
  split at h
  · next a ks ha hks =>
    cases h
    obtain ⟨hbytes, hlen⟩ := kindBytes_cartridgesOf hks
    rw [range_map_blanked]
    simp only [classBytes, twoBytes_fromTwo, byteOf_actionOf _ _ ha, hbytes, hlen, byteOf_toNat, List.map_cons, List.map_nil]
    rfl
  · cases h

/-! ### Class indices -/

theorem classIdxOf_of {b : Byte} {i : Fin 8} (h : b.toNat = i.val + 1) : classIdxOf b = some i := by
  unfold classIdxOf
  rw [dif_pos (by omega)]
  exact congrArg some (Fin.ext (by dsimp only; omega))

theorem classIdxOf_none {b : Byte} (h : b.toNat = 0 ∨ 8 < b.toNat) : classIdxOf b = none := dif_neg (by omega)

theorem exists_classIdx {b : Byte} (h : ¬ (b.toNat = 0 ∨ 8 < b.toNat)) : ∃ i : Fin 8, b.toNat = i.val + 1 :=
  ⟨⟨b.toNat - 1, by omega⟩, by dsimp only; omega⟩

/-- A record is stored where it is one and may stand at its index (R23, R24). -/
theorem reqClassWrite_of {index : Byte} {bs : List Byte} {i : Fin 8} (hi : index.toNat = i.val + 1) (s : State) :
    reqClassWrite index bs s = ((parseClass bs).map fun c =>
      if c.allowed index.toNat then accept [] { s with classes := s.classes.set i (some c) }
      else refuse .refusedRange s).getD (refuse .refusedRange s) := by
  unfold reqClassWrite
  rw [classIdxOf_of hi]
  rcases parseClass bs with _ | c
  · rfl
  · dsimp only [Option.map_some, Option.getD_some]
    simp only [valid_iff]

/-- A record is sent behind its mark, an empty place as zeros (R25). -/
theorem reqClassRead_of {index : Byte} {i : Fin 8} (hi : index.toNat = i.val + 1) (s : State) :
    reqClassRead index s = accept ([index, boolByte (s.classes[i]).isSome] ++
      ((s.classes[i]).map classBytes).getD (List.replicate 44 0)) s := by
  unfold reqClassRead
  rw [classIdxOf_of hi]

/-- Settles O21: the two requests, and the record's bytes by `classBytes_parseClass`. -/
theorem classRecordsReadBackAsWritten : Obligations.ClassRecordsReadBackAsWritten := by
  intro tag index record s hs
  have hwrite : answer 0x10 (index :: record.toList) s = reqClassWrite index record.toList s := answer_classWrite ..
  have hread : answer 0x11 [index] s = reqClassRead index s := answer_classRead ..
  refine ⟨fun i c hi hp hc => congrArg Host.Outcome.next ?_, fun hbad => congrArg Host.Outcome.next ?_,
    fun i hi => congrArg Host.Outcome.next (hostSends_same hs ?_),
    fun hout => congrArg Host.Outcome.next (hostSends_same hs ?_), parseClass_eq_none_iff record,
    fun c hp => classBytes_parseClass hp⟩
  · rw [reqClassWrite_of hi, hp, Option.map_some, Option.getD_some, if_pos hc] at hwrite
    exact hostSends_exact hs hwrite (settled_classStore hs.1 _ _ _ _ _)
  · refine hostSends_same hs (hwrite.trans ?_)
    by_cases hout : index.toNat = 0 ∨ 8 < index.toNat
    · rw [reqClassWrite, classIdxOf_none hout]
      rfl
    · obtain ⟨i, hi⟩ := exists_classIdx hout
      rw [reqClassWrite_of hi]
      rcases hp : parseClass record.toList with _ | c
      · rfl
      · have hno : ¬ c.allowed index.toNat := by
          rcases hbad with h | h | h
          · exact absurd (.inl h) hout
          · exact absurd (.inr h) hout
          · exact h c hp
        rw [Option.map_some, Option.getD_some, if_neg hno]
        rfl
  · rw [hread, reqClassRead_of hi]
    cases s.classes[i] <;> rfl
  · rw [hread, reqClassRead, classIdxOf_none hout]
    rfl

end Sys2Proof.Machine
end

section
/-! SUPPORT. The entries of a boom's motions (R39, R47, R55, R57, R62, R65, R72, R79, R85, R90, R96, R104). -/

namespace Sys2Proof.Machine

/-! ### Entries to a held phase -/

theorem holds_any_iff (h : Holds) : h.any = true ↔ h ≠ .empty := by
  rcases h with ⟨a, b, c, d⟩
  cases a <;> cases b <;> cases c <;> cases d <;> decide

/-- A held phase is entered, or the boom is SUSPENDED in it where a reason stands (R96). -/
theorem heldEntry_setBoom (x : Side) (ph : Phase) (go : State → State) (s : State) (b : Boom) :
    heldEntry x ph go (s.setBoom x b) =
      if b.holds = .empty then go (s.setBoom x { b with phase := ph })
      else suspend x (s.setBoom x { b with phase := ph }) := by
  unfold heldEntry
  dsimp only
  rw [modBoom_eq, setBoom_boom, setBoom_setBoom, setBoom_boom]
  simp only [holds_any_iff, ne_eq, ite_not]

theorem dropFlow_eq (x : Side) (s : State) :
    dropFlow x s = s.setBoom x { s.boom x with port := (s.boom x).port.drop, stallTime := 0 } := rfl

/-- The base feed position is taken where it is still to be (R55). -/
def Boom.withBaseFeed (b : Boom) (mm : Nat) : Boom :=
  { b with base := match b.base with | some ⟨d, none⟩ => some ⟨d, some mm⟩ | o => o }

theorem takeBaseFeed_setBoom (x : Side) (s : State) (b : Boom) :
    takeBaseFeed x (s.setBoom x b) = s.setBoom x (b.withBaseFeed (s.feedPos x)) := by
  unfold takeBaseFeed
  rw [modBoom_eq, setBoom_boom, setBoom_setBoom, setBoom_feedPos]
  rcases b with ⟨_, _, _, _, _, _, base⟩
  rcases base with _ | ⟨d, _ | f⟩ <;> rfl

section
variable (x : Side) (s : State) (b : Boom)

theorem asked_setBoom_setBoom (m : Motion) (d : Nat) : asked x m d (s.setBoom x b) =
    { s.setBoom x { b with port := b.port.ask d m s.ticket } with ticket := s.ticket + 1 } := by
  rw [asked_setBoom, setBoom_boom, setBoom_setBoom]

theorem flowFree_setBoom_setBoom :
    flowFree x (s.setBoom x b) = s.setBoom x { b with port := { b.port with view := .free } } := by
  rw [flowFree_setBoom, setBoom_boom, setBoom_setBoom]

theorem waitFor_setBoom (r : WaitReason) : waitFor x r (s.setBoom x b) =
    raiseFlag (.wait x) (some x) (b.ctx.map fun c => c.pos) r.code (s.setBoom x { b with waitReason := some r }) := by
  unfold waitFor
  rw [modBoom_eq, setBoom_boom, setBoom_setBoom]

theorem dropFlow_setBoom : dropFlow x (s.setBoom x b) = s.setBoom x { b with port := b.port.drop, stallTime := 0 } := by
  rw [dropFlow_eq, setBoom_boom, setBoom_setBoom]

theorem feedHome_setBoom : feedHome x (s.setBoom x b) = s.reads1 (.boom x .feedHome) := setBoom_reads1 ..

/-- A boom that leaves its motion and changes beside it. -/
theorem modBoom_dropFlow (f : Boom → Boom) : (dropFlow x s).modBoom x f =
    s.setBoom x (f { s.boom x with port := (s.boom x).port.drop, stallTime := 0 }) := by
  rw [dropFlow_eq, modBoom_eq, setBoom_boom, setBoom_setBoom]

end

/-- A port that was dropped has no flow to drop. -/
theorem drop_drop (p : FlowPort) : p.drop.drop = p.drop := by
  rcases p with ⟨_ | _ | _ | _, _, _⟩ <;> rfl

/-- A motion that needed no flow leaves the port as it was dropped before. -/
theorem drop_free (p : FlowPort) : ({ p.drop with view := .free } : FlowPort).drop = p.drop := by
  rcases p with ⟨_ | _ | _ | _, _, _⟩ <;> rfl

/-! ### The entries, as held entries or as what they ask -/

/-- DRILLING asks for its demand; without one the base feed position is taken (R47, R55). -/
def askDrill (x : Side) (s : State) : State :=
  let s := askFlow x .drill (s.boom x).snap.drillDemand s
  if (s.boom x).port.view = .free then takeBaseFeed x s else s

section
variable (x : Side) (s : State)

theorem enterDrilling_eq : enterDrilling x s = heldEntry x .drilling (askDrill x)
    (s.setBoom x { s.boom x with progressTime := 0, backOff := false, waitReason := none }) := rfl

theorem enterSteelChange_eq : enterSteelChange x s = heldEntry x .steelChange (askRetract x) (s.setBoom x { s.boom x with
    port := (s.boom x).port.drop, stallTime := 0, retractTime := 0, backOff := false, waitReason := none }) := by
  unfold enterSteelChange
  rw [modBoom_dropFlow]

theorem enterRetracting_eq : enterRetracting x s = heldEntry x .retracting (askRetract x) (s.setBoom x { s.boom x with
    port := (s.boom x).port.drop, stallTime := 0, retractTime := 0, backOff := false, waitReason := none }) := by
  unfold enterRetracting
  rw [modBoom_dropFlow]

theorem enterInserting_eq : enterInserting x s =
    heldEntry x .inserting (selectCartridge x) (s.setBoom x { s.boom x with waitReason := none }) := rfl

theorem enterSpinning_eq : enterSpinning x s =
    heldEntry x .spinning (askSpin x) (s.setBoom x { s.boom x with waitReason := none }) := rfl

theorem enterTorquing_eq (hl : ({ s.boom x with phase := .torquing } : Boom).late = false) : enterTorquing x s =
    heldEntry x .torquing (askTorque x) (s.setBoom x { s.boom x with phase := .torquing }) := by
  unfold enterTorquing
  dsimp only
  rw [modBoom_eq, setBoom_boom, hl]
  rfl

theorem enterReleasing_eq : enterReleasing x s = askRetract x (s.setBoom x { s.boom x with
    port := (s.boom x).port.drop, stallTime := 0, phase := .releasing, waitReason := none, suspendedPhase := none,
    retractTime := 0 }) := by
  unfold enterReleasing
  rw [modBoom_dropFlow]

end

section
variable {x : Side} {s : State} {b : Boom} {c : HoleCtx} (hc : b.ctx = some c)
include hc

theorem askDrill_setBoom : askDrill x (s.setBoom x b) = if c.snap.drillDemand = 0 then
      s.setBoom x ({ b with port := { b.port with view := .free } }.withBaseFeed (s.feedPos x))
    else asked x .drill c.snap.drillDemand (s.setBoom x b) := by
  unfold askDrill
  dsimp only
  rw [setBoom_boom, snap_of_ctx hc, askFlow_then, flowFree_setBoom_setBoom, takeBaseFeed_setBoom]

/-- A retraction asks for its demand; without one it completes where feed home reads 1 (R47, R62, R90, R105). -/
theorem askRetract_setBoom : askRetract x (s.setBoom x b) =
    if c.snap.retractDemand = 0 then
      if s.reads1 (.boom x .feedHome) then retractDone x (s.setBoom x { b with port := { b.port with view := .free } })
      else s.setBoom x { b with port := { b.port with view := .free } }
    else asked x .retract c.snap.retractDemand (s.setBoom x b) := by
  rw [askRetract_eq (c := c) (by rwa [setBoom_boom]), flowFree_setBoom_setBoom, retractBegins, feedHome_setBoom]

theorem askSpin_setBoom : askSpin x (s.setBoom x b) =
    if c.snap.spinDemand = 0 then startSpin x (s.setBoom x { b with port := { b.port with view := .free } })
    else asked x .spin c.snap.spinDemand (s.setBoom x b) := by
  rw [askSpin_eq (c := c) (by rwa [setBoom_boom]), flowFree_setBoom_setBoom]

theorem askTorque_setBoom (hl : b.late = false) : askTorque x (s.setBoom x b) =
    if c.snap.torqueDemand = 0 then torqueBegins x (s.setBoom x { b with port := { b.port with view := .free } })
    else asked x .torque c.snap.torqueDemand (s.setBoom x b) := by
  rw [askTorque_eq (c := c) (by rwa [setBoom_boom]) (by rwa [setBoom_boom]), flowFree_setBoom_setBoom]

/-- A retraction of STEEL_CHANGE that needed no flow ends in the wait for the steel (R62). -/
theorem retractDone_steelChange (hp : b.phase = .steelChange) (p : FlowPort) : retractDone x (s.setBoom x
    { b with port := { p.drop with view := .free }, stallTime := 0 }) = raiseFlag (.wait x) (some x) (some c.pos) 1
      (s.setBoom x { b with port := p.drop, stallTime := 0, waitReason := some .addSteel }) := by
  unfold retractDone
  rw [setBoom_boom]
  dsimp only
  rw [hp]
  dsimp only
  rw [dropFlow_setBoom, waitFor_setBoom, drop_free, hc]
  rfl

/-- A retraction of RETRACTING that needed no flow ends in HOLE_OPEN (R65). -/
theorem retractDone_retracting (hp : b.phase = .retracting) (p : FlowPort) : retractDone x (s.setBoom x
    { b with port := { p.drop with view := .free }, stallTime := 0 }) = raiseFlag (.wait x) (some x) (some c.pos) 2
      (s.setBoom x { b with port := p.drop, stallTime := 0, phase := .holeOpen, waitReason := some .clearHole }) := by
  unfold retractDone
  rw [setBoom_boom]
  dsimp only
  rw [hp]
  dsimp only
  rw [dropFlow_setBoom, modBoom_eq, setBoom_boom, setBoom_setBoom, waitFor_setBoom, drop_free, hc]
  rfl

end

theorem retractDone_releasing {x : Side} {s : State} {b : Boom} (hp : b.phase = .releasing) :
    retractDone x (s.setBoom x b) = releaseDone x (s.setBoom x b) := by
  unfold retractDone
  rw [setBoom_boom, hp]

/-- ABORTING ends at once where feed home reads 1, and else asks for its retraction (R104, R105). -/
theorem enterAborting_eq {x : Side} {s : State} {c : HoleCtx} (hc : (s.boom x).ctx = some c) (o : HoleOutcome)
    (f : Option FaultCode) : enterAborting x o f s =
      (let b : Boom := { s.boom x with
         port := (s.boom x).port.drop, stallTime := 0, phase := .aborting, waitReason := none, suspendedPhase := none,
         retractTime := 0, backOff := false
         ctx := some { c with outcome := some o, fault := if f = none then c.fault else f } }
       if s.reads1 (.boom x .feedHome) then abortDone x (s.setBoom x b) else askRetract x (s.setBoom x b)) := by
  have hf : f.or c.fault = if f = none then c.fault else f := by cases f <;> rfl
  unfold enterAborting
  dsimp only
  rw [modBoom_dropFlow, modCtx_eq, setBoom_boom, setBoom_setBoom, feedHome_setBoom, hc, Option.map_some, hf]

/-! ### Where a hole goes on -/

theorem feedPos_congr {s t : State} (h : t.lines = s.lines) (x : Side) : t.feedPos x = s.feedPos x := by
  unfold State.feedPos State.scaledValue State.lineOf
  rw [h]

/-- The entry a move leads to. -/
def enterNext (x : Side) : NextMove → State → State
  | .drill => enterDrilling x
  | .steelChange => enterSteelChange x
  | .retract => enterRetracting x
  | .decide => enterDecisionWait x

/-- A move leaves the motion, takes the context and enters. -/
theorem moveOn_eq (x : Side) (h : HoleCtx) (m : NextMove) (s : State) : moveOn x (h, m) s = enterNext x m
    (s.setBoom x { s.boom x with port := (s.boom x).port.drop, stallTime := 0, ctx := some h, backOff := false }) := by
  rw [← modBoom_dropFlow x s fun b => { b with ctx := some h, backOff := false }]
  cases m <;> rfl

theorem enterDecisionWait_setBoom (x : Side) (s : State) (b : Boom) (h : HoleCtx) : enterDecisionWait x (s.setBoom x
    { b with port := b.port.drop, stallTime := 0, ctx := some h, backOff := false }) =
      raiseFlag (.wait x) (some x) (some h.pos) 3 (s.setBoom x { b with
        port := b.port.drop, stallTime := 0, ctx := some h, backOff := false, phase := .decisionWait,
        waitReason := some .decision }) := by
  unfold enterDecisionWait
  rw [modBoom_dropFlow, setBoom_boom, setBoom_setBoom, waitFor_setBoom, drop_drop]
  rfl

theorem goOn_eq (x : Side) (r : HoleCtx × NextMove) (s : State) : goOn x r s =
    (let v := moveOn x r s
     if (v.boom x).phase = .drilling ∧ (v.boom x).port.view = .free then judgeFeed x (s.feedPos x) v else v) := by
  unfold goOn
  dsimp only
  rw [feedPos_congr (calm_moveOn s x r).lines]

/-- Settles O38: each entry by what it asks, and the held ones by `heldEntry_setBoom`. -/
theorem motionsAskForTheirDemand : Obligations.MotionsAskForTheirDemand := by
  intro x c s hc b r asks free dropped drilling steel retracting releasing aborting
  have hdrill : enterDrilling x s = if b.holds = .empty then askDrill x (s.setBoom x drilling)
      else suspend x (s.setBoom x drilling) := (enterDrilling_eq x s).trans (heldEntry_setBoom ..)
  have hsteel : enterSteelChange x s = if b.holds = .empty then askRetract x (s.setBoom x steel)
      else suspend x (s.setBoom x steel) := (enterSteelChange_eq x s).trans (heldEntry_setBoom ..)
  have hretract : enterRetracting x s = if b.holds = .empty then askRetract x (s.setBoom x retracting)
      else suspend x (s.setBoom x retracting) := (enterRetracting_eq x s).trans (heldEntry_setBoom ..)
  have hspin : enterSpinning x s = if b.holds = .empty
      then askSpin x (s.setBoom x { b with phase := .spinning, waitReason := none })
      else suspend x (s.setBoom x { b with phase := .spinning, waitReason := none }) :=
    (enterSpinning_eq x s).trans (heldEntry_setBoom ..)
  have hinsert : enterInserting x s = if b.holds = .empty
      then selectCartridge x (s.setBoom x { b with phase := .inserting, waitReason := none })
      else suspend x (s.setBoom x { b with phase := .inserting, waitReason := none }) :=
    (enterInserting_eq x s).trans (heldEntry_setBoom ..)
  have htorque (hl : ({ b with phase := .torquing } : Boom).late = false) : enterTorquing x s = if b.holds = .empty
      then askTorque x (s.setBoom x { b with phase := .torquing })
      else suspend x (s.setBoom x { b with phase := .torquing }) :=
    (enterTorquing_eq x s hl).trans (heldEntry_setBoom ..)
  have hasks (u : Boom) (m : Motion) (d : Nat) : asked x m d (s.setBoom x u) = asks u m d :=
    asked_setBoom_setBoom x s u m d
  refine ⟨fun he => ?_, fun he => hinsert.trans (if_pos he), fun he => ?_, fun hr => ?_, fun o f => ?_, fun hr hf => ?_,
    fun hr hf => ?_, fun h => ?_⟩
  · have hdrill := hdrill.trans ((if_pos he).trans (askDrill_setBoom (b := drilling) hc))
    have hsteel := hsteel.trans ((if_pos he).trans (askRetract_setBoom (b := steel) hc))
    have hretract := hretract.trans ((if_pos he).trans (askRetract_setBoom (b := retracting) hc))
    have hspin := hspin.trans ((if_pos he).trans (askSpin_setBoom hc))
    have htorque hl := (htorque hl).trans ((if_pos he).trans (askTorque_setBoom hc hl))
    rw [hasks] at hdrill hsteel hretract hspin
    simp only [hasks] at htorque
    refine ⟨fun hd => ?_, fun hr => ⟨?_, ?_⟩, fun hd => ?_, fun hd hl => ?_, fun hd => ?_, fun hr hf => ⟨?_, ?_⟩,
      fun hr hf => ⟨?_, ?_⟩, fun hd => ?_, fun hd hl => ?_⟩
    · exact hdrill.trans (if_neg hd)
    · exact hsteel.trans (if_neg hr)
    · exact hretract.trans (if_neg hr)
    · exact hspin.trans (if_neg hd)
    · exact (htorque hl).trans (if_neg hd)
    · exact hdrill.trans (if_pos hd)
    · exact hsteel.trans ((if_pos hr).trans (if_neg (by simp [hf])))
    · exact hretract.trans ((if_pos hr).trans (if_neg (by simp [hf])))
    · exact (hsteel.trans ((if_pos hr).trans (if_pos hf))).trans
        (retractDone_steelChange (b := steel) hc rfl b.port)
    · exact (hretract.trans ((if_pos hr).trans (if_pos hf))).trans
        (retractDone_retracting (b := retracting) hc rfl b.port)
    · exact hspin.trans (if_pos hd)
    · exact (htorque hl).trans (if_pos hd)
  · exact ⟨hdrill.trans (if_neg he), hsteel.trans (if_neg he), hretract.trans (if_neg he), hinsert.trans (if_neg he),
      hspin.trans (if_neg he), fun hl => (htorque hl).trans (if_neg he)⟩
  · exact ((enterReleasing_eq x s).trans (askRetract_setBoom hc)).trans ((if_neg hr).trans (hasks ..))
  · have habort := enterAborting_eq hc o f
    have hctx : (aborting o f).ctx = some { c with outcome := some o, fault := if f = none then c.fault else f } := rfl
    have hask := askRetract_setBoom (x := x) (s := s) hctx
    refine ⟨fun hf => habort.trans (if_pos hf), fun hf hr => ?_, fun hf hr => ?_⟩
    · exact (habort.trans (if_neg (by simp [hf]))).trans (hask.trans ((if_neg hr).trans (hasks ..)))
    · exact (habort.trans (if_neg (by simp [hf]))).trans
        (hask.trans ((if_pos hr).trans (if_neg (by simp [hf]))))
  · exact ((enterReleasing_eq x s).trans (askRetract_setBoom hc)).trans ((if_pos hr).trans (if_neg (by simp [hf])))
  · exact ((enterReleasing_eq x s).trans (askRetract_setBoom hc)).trans
      ((if_pos hr).trans ((if_pos hf).trans (retractDone_releasing rfl)))
  · exact ⟨moveOn_eq x h .drill s, moveOn_eq x h .steelChange s, moveOn_eq x h .retract s,
      (moveOn_eq x h .decide s).trans (enterDecisionWait_setBoom x s b h), fun m => goOn_eq x (h, m) s⟩

end Sys2Proof.Machine
end

section
/-! SUPPORT. DECIDE: its checks, and what each choice does with the hole that waits (R37, R38, R40 to R42). -/

namespace Sys2Proof.Machine

/-! ### The fields of a DECIDE -/

theorem choiceOf_none {b : Byte} (h : b.toNat = 0 ∨ 4 < b.toNat) : choiceOf b = none := by
  unfold choiceOf
  split
  · omega
  · omega
  · omega
  · omega
  · rfl

theorem choiceOf_some {b : Byte} (h1 : 1 ≤ b.toNat) (h4 : b.toNat ≤ 4) :
    ∃ ch, choiceOf b = some ch ∧ (ch = .extend → b = 2) ∧ (ch = .substitute → b = 3) := by
  obtain h | h | h | h : b.toNat = 1 ∨ b.toNat = 2 ∨ b.toNat = 3 ∨ b.toNat = 4 := by omega
  · obtain rfl := (byte_eq_iff b 1 (by decide)).mpr h
    exact ⟨.proceed, rfl, by simp, by simp⟩
  · obtain rfl := (byte_eq_iff b 2 (by decide)).mpr h
    exact ⟨.extend, rfl, fun _ => rfl, by simp⟩
  · obtain rfl := (byte_eq_iff b 3 (by decide)).mpr h
    exact ⟨.substitute, rfl, by simp, fun _ => rfl⟩
  · obtain rfl := (byte_eq_iff b 4 (by decide)).mpr h
    exact ⟨.abandon, rfl, by simp, by simp⟩

/-- A two-byte field read from the bytes it was sent as. -/
theorem fromTwo_byteOf (w : Word) : fromTwo (byteOf (w.toNat / 256)) (byteOf (w.toNat % 256)) = w.toNat := by
  have := w.isLt
  simp only [fromTwo, byteOf, BitVec.toNat_ofNat]
  omega

/-! ### The checks (R40) -/

/-- A boom whose wait the host has decided, with the context it goes on with. -/
def decided (x : Side) (h : HoleCtx) (s : State) : State := s.setBoom x { s.boom x with waitReason := none, ctx := some h }

section
variable {boom choice hi lo cls : Byte} {s : State}

theorem reqDecide_unnamed (h : sideOf boom = none ∨ choiceOf choice = none) :
    reqDecide boom choice hi lo cls s = refuse .refusedRange s := by
  unfold reqDecide
  split
  · next hb hch => rcases h with h | h <;> simp_all
  · rfl

variable {x : Side} (hx : sideOf boom = some x)
include hx

theorem reqDecide_step (h : fromTwo hi lo < 25 ∨ 300 < fromTwo hi lo) :
    reqDecide boom 2 hi lo cls s = refuse .refusedRange s := by
  have hch : choiceOf 2 = some .extend := rfl
  unfold reqDecide
  rw [hx, hch]
  refine if_pos (.inl ⟨rfl, ?_⟩)
  rw [inRange_iff]
  omega

theorem reqDecide_class (h : cls.toNat = 0 ∨ 8 < cls.toNat) : reqDecide boom 3 hi lo cls s = refuse .refusedRange s := by
  have hch : choiceOf 3 = some .substitute := rfl
  unfold reqDecide
  rw [hx, hch]
  refine if_pos (.inr ⟨rfl, ?_⟩)
  rw [inRange_iff]
  omega

/-- Outside DECISION_WAIT a DECIDE whose fields are in range is refused. -/
theorem reqDecide_elsewhere (h1 : 1 ≤ choice.toNat) (h4 : choice.toNat ≤ 4)
    (hstep : choice = 2 → 25 ≤ fromTwo hi lo ∧ fromTwo hi lo ≤ 300) (hcls : choice = 3 → 1 ≤ cls.toNat ∧ cls.toNat ≤ 8)
    (hp : (s.boom x).phase ≠ .decisionWait) : reqDecide boom choice hi lo cls s = refuse .refusedState s := by
  obtain ⟨ch, hch, h2, h3⟩ := choiceOf_some h1 h4
  have hrange : ¬ ((ch = .extend ∧ ¬ inRange 25 300 (fromTwo hi lo)) ∨ (ch = .substitute ∧ ¬ inRange 1 8 cls.toNat)) := by
    simp only [inRange_iff]
    rintro (⟨h, hn⟩ | ⟨h, hn⟩)
    · exact hn (hstep (h2 h))
    · exact hn (hcls (h3 h))
  unfold reqDecide
  rw [hx, hch]
  dsimp only
  rw [if_neg hrange]
  split
  · contradiction
  · rfl

/-! ### The choices -/

variable {c : HoleCtx} (hp : (s.boom x).phase = .decisionWait) (hc : (s.boom x).ctx = some c)
include hp hc

theorem reqDecide_proceed : reqDecide boom 1 hi lo cls s =
    accept [] (moveOn x ({ c with hostDecided := true, acceptedWeak := true }, .retract)
      (decided x { c with hostDecided := true } s)) := by
  have hch : choiceOf 1 = some .proceed := rfl
  unfold reqDecide
  rw [hx, hch]
  dsimp only
  rw [if_neg (by simp), hp, hc]
  rfl

theorem reqDecide_abandon : reqDecide boom 4 hi lo cls s =
    accept [] (enterAborting x .abandoned none (decided x { c with hostDecided := true } s)) := by
  have hch : choiceOf 4 = some .abandon := rfl
  unfold reqDecide
  rw [hx, hch]
  dsimp only
  rw [if_neg (by simp), hp, hc]
  rfl

theorem reqDecide_extend (h1 : 25 ≤ fromTwo hi lo) (h2 : fromTwo hi lo ≤ 300) : reqDecide boom 2 hi lo cls s =
    if depthCapacity c.snap < c.targetDepth + fromTwo hi lo then refuse .refusedRange s
    else accept [] (goOn x (drillEntry (assess s.classes assessFuel)
      { c with hostDecided := true, targetDepth := c.targetDepth + fromTwo hi lo })
        (decided x { c with hostDecided := true } s)) := by
  have hch : choiceOf 2 = some .extend := rfl
  unfold reqDecide
  rw [hx, hch]
  dsimp only
  rw [if_neg (by simp [inRange_iff, h1, h2]), hp, hc]
  rfl

theorem reqDecide_substitute (h1 : 1 ≤ cls.toNat) (h2 : cls.toNat ≤ 8) : reqDecide boom 3 hi lo cls s =
    if c.substituted then refuse .refusedState s
    else ((classAt s.classes cls.toNat).map fun r => accept [] (goOn x (afterSubstitution (assess s.classes assessFuel)
      (substituteClass cls.toNat r { c with hostDecided := true })) (decided x { c with hostDecided := true } s))).getD
        (refuse .refusedRange s) := by
  have hch : choiceOf 3 = some .substitute := rfl
  unfold reqDecide
  rw [hx, hch]
  dsimp only
  rw [if_neg (by simp [inRange_iff, h1, h2]), hp, hc]
  dsimp only
  split
  · rfl
  · cases classAt s.classes cls.toNat <;> rfl

end

/-- Settles O44: the checks in their order, then each choice. -/
theorem decideActsByItsChoice : Obligations.DecideActsByItsChoice := by
  intro tag boom choice step cls s hs
  have hans := answer_decide boom choice step cls s
  have refused {st : Status} (h : reqDecide boom choice (byteOf (step.toNat / 256)) (byteOf (step.toNat % 256)) cls s =
      refuse st s) : exec (.decide tag boom choice step cls) s = .next (s.withReply 0xA5 tag [st.code]) :=
    congrArg Host.Outcome.next (hostSends_same hs (hans.trans h))
  have hstep := fromTwo_byteOf step
  refine ⟨fun hbad => ?_, fun x hx h1 h4 h2 h3 => ⟨fun hp => ?_, fun c hp hc => ?_⟩⟩
  · by_cases hb : boom ≠ 1 ∧ boom ≠ 2
    · exact refused (reqDecide_unnamed (.inl (sideOf_none hb)))
    · obtain ⟨x, hx⟩ : ∃ x, sideOf boom = some x := by
        rw [← not_or, not_not] at hb
        rcases hb with rfl | rfl
        · exact ⟨.a, rfl⟩
        · exact ⟨.b, rfl⟩
      rcases hbad with h | h | h | ⟨rfl, h⟩ | ⟨rfl, h⟩
      · exact absurd h hb
      · exact refused (reqDecide_unnamed (.inr (choiceOf_none (.inl h))))
      · exact refused (reqDecide_unnamed (.inr (choiceOf_none (.inr h))))
      · exact refused (reqDecide_step hx (by rwa [hstep]))
      · exact refused (reqDecide_class hx h)
  · exact refused (reqDecide_elsewhere (sideOf_side hx) h1 h4 (by rwa [hstep]) h3 hp)
  · intro h u taken deepest
    have hx := sideOf_side hx
    have accepted {v : State} (hv : reqDecide boom choice (byteOf (step.toNat / 256)) (byteOf (step.toNat % 256)) cls s =
        accept [] v) (hcalm : Calm (holeFlags x) u v) : taken v :=
      ⟨_, rfl, hostSends_ends hs (hans.trans hv) (lines_not_mem_holeFlags x) ((calm_setBoom _ s x _).trans hcalm)⟩
    refine ⟨?_, ?_, ?_, ?_, ?_, ?_, ?_⟩
    · rintro rfl
      exact accepted (reqDecide_proceed (c := c) hx hp hc) (calm_moveOn u x _)
    · rintro rfl
      exact accepted (reqDecide_abandon hx hp hc) (calm_enterAborting u x _ _)
    · rintro rfl hdeep
      obtain ⟨hlo, hhi⟩ := h2 rfl
      refine refused (st := .refusedRange) ((reqDecide_extend hx hp hc (by rwa [hstep]) (by rwa [hstep])).trans ?_)
      rw [hstep]
      exact if_pos hdeep
    · rintro rfl hdeep
      obtain ⟨hlo, hhi⟩ := h2 rfl
      refine accepted ((reqDecide_extend hx hp hc (by rwa [hstep]) (by rwa [hstep])).trans ?_) (calm_goOn u x _)
      rw [hstep]
      exact if_neg (Nat.not_lt.mpr hdeep)
    · rintro rfl hsub
      obtain ⟨hlo, hhi⟩ := h3 rfl
      exact refused ((reqDecide_substitute hx hp hc hlo hhi).trans (if_pos hsub))
    · rintro rfl hsub hcls
      obtain ⟨hlo, hhi⟩ := h3 rfl
      refine refused (st := .refusedRange) ((reqDecide_substitute hx hp hc hlo hhi).trans ((if_neg (by simp [hsub])).trans ?_))
      rw [hcls]
      rfl
    · rintro r rfl hsub hcls
      obtain ⟨hlo, hhi⟩ := h3 rfl
      refine accepted ((reqDecide_substitute hx hp hc hlo hhi).trans ((if_neg (by simp [hsub])).trans ?_)) (calm_goOn u x _)
      rw [hcls]
      rfl

end Sys2Proof.Machine
end

section
/-! SUPPORT. The assessment of the anchor zone (R33 to R39). -/

namespace Sys2Proof.Machine

/-! ### The weak length (R33) -/

theorem weak_iff (k : StrataClass) : k.weak = decide (k = .soft ∨ k = .clay ∨ k = .void ∨ k = .broken) := by
  cases k <;> decide

/-- The weak increments of a run are those among its starts. -/
theorem weakIncrements_eq (low : Nat) (r : StrataRun) : weakIncrements low r =
    if r.cls.weak then
      (((List.range (r.length / 25)).map fun j => r.start + 25 * j).filter fun d => low ≤ d).length
    else 0 := by
  rw [List.filter_map, List.length_map]
  rfl

/-! ### The branches of an assessment -/

section
variable (classes : Vector (Option ClassRec) 8) (n : Nat) (c : HoleCtx)

/-- A context with its weak length counted. -/
def HoleCtx.weighed (c : HoleCtx) : HoleCtx := { c with weakLength := c.anchorWeakLength }

theorem assess_within (h : c.anchorWeakLength ≤ c.snap.weakLimit) : assess classes (n + 1) c = (c.weighed, .retract) :=
  if_pos h

variable {classes n c} (h : c.snap.weakLimit < c.anchorWeakLength)
include h

/-- A weak length past the limit is acted on by the class (R35). -/
theorem assess_proceed (ha : c.snap.action = .proceed) :
    assess classes (n + 1) c = ({ c.weighed with acceptedWeak := true }, .retract) := by
  unfold assess
  dsimp only
  rw [if_neg (Nat.not_le.mpr h), ha]
  rfl

theorem assess_stop (ha : c.snap.action = .stop) : assess classes (n + 1) c = (c.weighed, .decide) := by
  unfold assess
  dsimp only
  rw [if_neg (Nat.not_le.mpr h), ha]
  rfl

theorem assess_extend (ha : c.snap.action = .extend) : assess classes (n + 1) c =
    if c.extensions < extensionLimit ∧ c.targetDepth + c.snap.extStep ≤ depthCapacity c.snap then
      drillEntry (assess classes n)
        { c.weighed with targetDepth := c.targetDepth + c.snap.extStep, extensions := c.extensions + 1 }
    else (c.weighed, .decide) := by
  conv_lhs => unfold assess
  dsimp only
  rw [if_neg (Nat.not_le.mpr h), ha]
  rfl

theorem assess_no_substitute (ha : c.snap.action = .substitute)
    (hs : c.substituted = true ∨ classAt classes c.snap.fallback = none) :
    assess classes (n + 1) c = (c.weighed, .decide) := by
  unfold assess
  dsimp only
  rw [if_neg (Nat.not_le.mpr h), ha]
  dsimp only
  split
  · next hno hsome => simp_all
  · rfl

theorem assess_substitute {r : ClassRec} (ha : c.snap.action = .substitute) (hs : c.substituted = false)
    (hr : classAt classes c.snap.fallback = some r) : assess classes (n + 1) c =
      afterSubstitution (assess classes n) (substituteClass c.snap.fallback r c.weighed) := by
  conv_lhs => unfold assess
  dsimp only
  rw [if_neg (Nat.not_le.mpr h), ha]
  dsimp only
  rw [hs, hr]
  rfl

end

/-- Past the target depth a substitution is assessed anew, short of it the hole is drilled on (R38). -/
theorem afterSubstitution_eq (f : HoleCtx → HoleCtx × NextMove) (c : HoleCtx) : afterSubstitution f c =
    if c.targetDepth ≤ c.depth then f c
    else if c.steelCount ≤ c.snap.maxSteels ∧ c.targetDepth ≤ depthCapacity c.snap then drillEntry f c
    else (c, .decide) := by
  unfold afterSubstitution
  by_cases h : c.targetDepth ≤ c.depth
  · rw [if_neg (Nat.not_lt.mpr h), if_pos h]
  · rw [if_pos (Nat.not_le.mp h), if_neg h]

/-! ### The assessments of one event -/

/-- The assessments a hole can still have in one event: the extensions and the substitution left, and this one. -/
def HoleCtx.assessmentsLeft (c : HoleCtx) : Nat := (2 - c.extensions) + (if c.substituted then 0 else 1) + 1

/-- An extension takes one of the assessments left. -/
theorem assessmentsLeft_extended {c : HoleCtx} (h : c.extensions < 2) (t : Nat) :
    ({ c.weighed with targetDepth := t, extensions := c.extensions + 1 } : HoleCtx).assessmentsLeft + 1 =
      c.assessmentsLeft := by
  have hroom : 2 - (c.extensions + 1) + 1 = 2 - c.extensions := by omega
  unfold HoleCtx.assessmentsLeft
  rw [← hroom, Nat.add_right_comm (2 - (c.extensions + 1)) 1]
  rfl

/-- A substitution takes one of the assessments left. -/
theorem assessmentsLeft_substituted {c : HoleCtx} (h : c.substituted = false) (i : Nat) (r : ClassRec) :
    (substituteClass i r c.weighed).assessmentsLeft + 1 = c.assessmentsLeft := by
  simp [HoleCtx.assessmentsLeft, substituteClass, HoleCtx.weighed, h]

theorem drillEntry_congr {f g : HoleCtx → HoleCtx × NextMove} {c : HoleCtx} (h : f c = g c) :
    drillEntry f c = drillEntry g c := by
  unfold drillEntry
  rw [h]

theorem afterSubstitution_congr {f g : HoleCtx → HoleCtx × NextMove} {c : HoleCtx} (h : f c = g c) :
    afterSubstitution f c = afterSubstitution g c := by
  rw [afterSubstitution_eq, afterSubstitution_eq, h, drillEntry_congr h]

/-- Counts that are enough for a hole's assessments give the same: each further one takes one of them. -/
theorem assess_fuel (classes : Vector (Option ClassRec) 8) (m n : Nat) (c : HoleCtx) (hm : c.assessmentsLeft ≤ m)
    (hn : c.assessmentsLeft ≤ n) : assess classes m c = assess classes n c := by
  induction m generalizing n c with
  | zero => exact absurd hm (Nat.not_succ_le_zero _)
  | succ m ih =>
    obtain ⟨n, rfl⟩ : ∃ k, n = k + 1 := ⟨n - 1, by unfold HoleCtx.assessmentsLeft at hn; omega⟩
    by_cases hw : c.anchorWeakLength ≤ c.snap.weakLimit
    · rw [assess_within _ _ _ hw, assess_within _ _ _ hw]
    · have hw := Nat.not_le.mp hw
      rcases ha : c.snap.action with _ | _ | _ | _
      · rw [assess_proceed hw ha, assess_proceed hw ha]
      · rw [assess_extend hw ha, assess_extend hw ha]
        refine if_ctx_congr Iff.rfl (fun hx => ?_) (fun _ => rfl)
        have hleft := assessmentsLeft_extended hx.1 (c.targetDepth + c.snap.extStep)
        exact drillEntry_congr (ih _ _ (by omega) (by omega))
      · by_cases hs : c.substituted = true ∨ classAt classes c.snap.fallback = none
        · rw [assess_no_substitute hw ha hs, assess_no_substitute hw ha hs]
        · obtain ⟨hs, hr⟩ := not_or.mp hs
          have hs : c.substituted = false := Bool.eq_false_iff.mpr hs
          obtain ⟨r, hr⟩ := Option.ne_none_iff_exists'.mp hr
          rw [assess_substitute hw ha hs hr, assess_substitute hw ha hs hr]
          have hleft := assessmentsLeft_substituted hs c.snap.fallback r
          exact afterSubstitution_congr (ih _ _ (by omega) (by omega))
      · rw [assess_stop hw ha, assess_stop hw ha]

/-- Settles O51: the branches of an assessment, and the count of assessments by `assess_fuel`. -/
theorem assessmentActsByTheClass : Obligations.AssessmentActsByTheClass := by
  refine ⟨fun classes n c => ?_, fun classes n c he => ?_⟩
  · intro weak starts w h deepest
    have hw : w = c.anchorWeakLength := by
      refine congrArg (fun l : List Nat => 25 * l.sum) (List.map_congr_left fun r _ => ?_)
      rw [weakIncrements_eq, weak_iff]
    have hh : h = c.weighed := congrArg (fun k => { c with weakLength := k }) hw
    rw [hw]
    clear_value h
    subst hh
    exact ⟨assess_within classes n c, assess_proceed, assess_stop, assess_extend, assess_no_substitute,
      fun r hlim ha hs hr => (assess_substitute hlim ha hs hr).trans (afterSubstitution_eq _ _),
      fun f => ⟨rfl, afterSubstitution_eq f c⟩⟩
  · have h4 : c.assessmentsLeft ≤ 4 := by
      unfold HoleCtx.assessmentsLeft
      split <;> omega
    exact assess_fuel classes _ _ c (Nat.le_add_right_of_le h4) h4

end Sys2Proof.Machine
end

section
/-! SUPPORT. Depth rises: increments, strata runs, and what a rise leads to (R30 to R32, R55 to R58). -/

namespace Sys2Proof.Machine

/-! ### Increments (R30, R31) -/

/-- Increments complete one after another: the first takes the time that had run, the others 0. -/
theorem addIncrements_eq_foldl (cls : Nat → StrataClass) (n time : Nat) (c : HoleCtx) : addIncrements cls n time c =
    (List.range n).foldl (fun h k => addIncrement (cls (if k = 0 then time else 0)) h) c := by
  induction n generalizing time c with
  | zero => rfl
  | succ n ih =>
    rw [List.range_succ_eq_map, List.foldl_cons, List.foldl_map, if_pos rfl, addIncrements, ih]
    simp only [Nat.succ_ne_zero, if_false, ite_self]

/-- An increment's class by its rate and the pressure, each in its band. -/
theorem classify_eq (s : State) (pressure time : Nat) {i j : Fin 16}
    (hi : i.val = min (250 / (if time = 0 then 1 else time) / s.rateStep) 15)
    (hj : j.val = min (pressure / s.pressureStep) 15) : classify s pressure time = (s.strata[i])[j] := by
  have htime : max time 1 = if time = 0 then 1 else time := by
    split <;> omega
  have hi : bandOf (250 / max time 1) s.rateStep = i := Fin.ext (by rw [htime, hi]; rfl)
  have hj : bandOf pressure s.pressureStep = j := Fin.ext (by rw [hj]; rfl)
  unfold classify
  simp only [hi, hj]

/-! ### Strata runs (R32) -/

/-- An increment joins the last run, with the room the runs before it leave. -/
theorem joinRuns_append (cls : StrataClass) (start room : Nat) (front : List StrataRun) (last : StrataRun) :
    joinRuns cls start room (front ++ [last]) =
      (front ++ (joinRuns cls start (room - front.length) [last]).1, (joinRuns cls start (room - front.length) [last]).2) := by
  induction front generalizing room with
  | nil => rfl
  | cons r front ih =>
    obtain ⟨r', rest, hr⟩ : ∃ r' rest, front ++ [last] = r' :: rest := by cases front <;> exact ⟨_, _, rfl⟩
    have hcons : joinRuns cls start room (r :: (front ++ [last])) =
        (r :: (joinRuns cls start (room - 1) (front ++ [last])).1, (joinRuns cls start (room - 1) (front ++ [last])).2) := by
      rw [hr]
      rfl
    rw [List.cons_append, hcons, ih, List.length_cons, Nat.sub_sub, Nat.add_comm 1]
    rfl

theorem joinRuns_last (cls : StrataClass) (start room : Nat) (r : StrataRun) : joinRuns cls start room [r] =
    if r.cls = cls then ([{ r with length := r.length + incrementMm }], false)
    else if 1 < room then ([r, ⟨cls, start, incrementMm⟩], false)
    else ([{ r with cls := .broken, length := r.length + incrementMm }], true) := rfl

theorem addIncrement_runs (k : StrataClass) (c : HoleCtx) :
    (addIncrement k c).runs = (joinRuns k (25 * c.incCount) 16 c.runs).1 ∧
      (addIncrement k c).truncated = (c.truncated || (joinRuns k (25 * c.incCount) 16 c.runs).2) := ⟨rfl, rfl⟩

/-- An increment behind a last run extends it, starts a run of its own, or is lost in it (R32). -/
theorem addIncrement_append {k : StrataClass} {c : HoleCtx} {front : List StrataRun} {last : StrataRun}
    (h : c.runs = front ++ [last]) :
    (last.cls = k → (addIncrement k c).runs = front ++ [{ last with length := last.length + 25 }] ∧
      (addIncrement k c).truncated = c.truncated) ∧
    (last.cls ≠ k → c.runs.length < 16 → (addIncrement k c).runs = c.runs ++ [⟨k, 25 * c.incCount, 25⟩] ∧
      (addIncrement k c).truncated = c.truncated) ∧
    (last.cls ≠ k → c.runs.length = 16 →
      (addIncrement k c).runs = front ++ [{ last with cls := .broken, length := last.length + 25 }] ∧
        (addIncrement k c).truncated = true) := by
  have hlen : (front ++ [last]).length = front.length + 1 := List.length_append
  obtain ⟨hr, ht⟩ := addIncrement_runs k c
  have hjoin : joinRuns k (25 * c.incCount) 16 c.runs = _ := h ▸ joinRuns_append ..
  rw [hr, ht, hjoin, joinRuns_last, h]
  refine ⟨fun hk => ?_, fun hk hroom => ?_, fun hk hfull => ?_⟩
  · rw [if_pos hk]
    exact ⟨rfl, Bool.or_false _⟩
  · rw [if_neg hk, if_pos (by omega), List.append_assoc]
    exact ⟨rfl, Bool.or_false _⟩
  · rw [if_neg hk, if_neg (by omega)]
    exact ⟨rfl, Bool.or_true _⟩

/-! ### A depth rise (R55) and what it leads to (R57, R58) -/

section
variable {x : Side} {s : State} {c : HoleCtx} (hc : (s.boom x).ctx = some c)
include hc

theorem raiseDepth_eq (depth : Nat) : raiseDepth x depth s =
    (let b := s.boom x
     let n := min depth 3000 / 25 - c.incCount
     let h := addIncrements (classify s (s.rotPressure x)) n b.phaseTime { c with depth := depth }
     s.setBoom x (if n = 0 then { b with ctx := some h }
       else { b with ctx := some h, phaseTime := 0, progressTime := 0 })) := by
  unfold raiseDepth
  rw [modBoom_eq, hc]
  rfl

theorem afterRise_collaring (hp : (s.boom x).phase = .collaring) :
    afterRise x s = if c.snap.collar ≤ c.depth then enterDrilling x (dropFlow x s) else s := by
  unfold afterRise
  rw [hc]
  dsimp only
  rw [hp]

theorem afterRise_drilling (hp : (s.boom x).phase = .drilling) : afterRise x s =
    if c.targetDepth ≤ c.depth then moveOn x (assess s.classes assessFuel c) s
    else if c.steelCount * c.snap.steelLength ≤ c.depth then enterSteelChange x s else s := by
  unfold afterRise assessBoom
  rw [hc]
  dsimp only
  rw [hp]

end

/-- Settles O50: the rise and its consequences, then the class of an increment and the run it joins. -/
theorem depthRisesCompleteIncrementsAndLeadOn : Obligations.DepthRisesCompleteIncrementsAndLeadOn := by
  refine ⟨fun x c depth s hc => ?_, fun s pressure time i j hi hj => classify_eq s pressure time hi hj,
    fun k c _ => ⟨rfl, fun hnil => ?_, fun front last h => addIncrement_append h⟩⟩
  · intro b n
    have hraise := raiseDepth_eq hc depth
    refine ⟨fun hn => hraise.trans ?_, fun hn => hraise.trans ?_, fun hp hlt => ?_, fun hp hle => ?_, fun hp hle => ?_,
      fun hp hlt hle => ?_, fun hp hlt hlt' => ?_⟩
    · dsimp only
      rw [if_pos hn, show min depth 3000 / 25 - c.incCount = 0 from hn]
      rfl
    · dsimp only
      rw [if_neg (Nat.ne_of_gt hn), addIncrements_eq_foldl]
    · exact (afterRise_collaring hc hp).trans (if_neg (Nat.not_le.mpr hlt))
    · exact (afterRise_collaring hc hp).trans (if_pos hle)
    · exact (afterRise_drilling hc hp).trans (if_pos hle)
    · exact (afterRise_drilling hc hp).trans ((if_neg (Nat.not_le.mpr hlt)).trans (if_pos hle))
    · exact (afterRise_drilling hc hp).trans ((if_neg (Nat.not_le.mpr hlt)).trans (if_neg (Nat.not_le.mpr hlt')))
  · obtain ⟨hr, ht⟩ := addIncrement_runs k c
    rw [hnil] at hr ht
    exact ⟨hr, ht.trans (Bool.or_false _)⟩

end Sys2Proof.Machine
end

section
/-! SUPPORT. The spin, the hold, lateness and the torque (R43, R80 to R87, R146). -/

namespace Sys2Proof.Machine

/-! ### Limits that are due -/

theorem spinEndDue_iff (x : Side) (s : State) : spinEndDue x s = true ↔ (s.boom x).phase = .spinning ∧
    ((∃ t, (s.boom x).port.view = .held t) ∨ (s.boom x).port.view = .free) ∧
      ∃ c r, (s.boom x).ctx = some c ∧ c.gel ≠ none ∧ c.resin = some r ∧ r.s ≤ c.spinElapsed := by
  unfold spinEndDue
  dsimp only
  rw [Bool.and_eq_true, Bool.and_eq_true, moving_iff, beq_iff_eq, and_assoc]
  rcases (s.boom x).ctx with _ | c
  · simp
  · rcases hr : c.resin with _ | r <;> simp [hr, Option.isSome_iff_ne_none]

theorem holdEndDue_iff (x : Side) (s : State) : holdEndDue x s = true ↔ (s.boom x).phase = .holding ∧
    ∃ c g e, (s.boom x).ctx = some c ∧ c.gel = some g ∧ (s.boom x).holdEnd = some e ∧ e ≤ g := by
  unfold holdEndDue
  dsimp only
  rw [Bool.and_eq_true, beq_iff_eq]
  rcases (s.boom x).ctx with _ | c
  · simp
  · rcases (s.boom x).holdEnd with _ | e
    · simp
    · rcases hg : c.gel with _ | g <;> simp [hg]

theorem torquingActive_iff (b : Boom) : b.torquingActive = true ↔
    b.phase = .torquing ∧ ((∃ t, b.port.view = .held t) ∨ b.port.view = .free) := by
  rw [Boom.torquingActive, Bool.and_eq_true, beq_iff_eq, moving_iff]

/-- The states in which a boom can be late, by their names (R84). -/
theorem underDeadline_iff (b : Boom) : b.underDeadline = true ∧ b.torquingActive = false ↔
    b.phase = .spinning ∨ b.phase = .holding ∨
      (b.phase = .torquing ∧ ¬ ((∃ t, b.port.view = .held t) ∨ b.port.view = .free)) ∨
      (b.phase = .suspended ∧ (b.suspendedPhase = some .spinning ∨ b.suspendedPhase = some .torquing)) := by
  rw [← Bool.not_eq_true, torquingActive_iff]
  unfold Boom.underDeadline
  rcases b.phase <;> simp

theorem late_iff_named (b : Boom) : b.late = true ↔
    (b.phase = .spinning ∨ b.phase = .holding ∨
      (b.phase = .torquing ∧ ¬ ((∃ t, b.port.view = .held t) ∨ b.port.view = .free)) ∨
      (b.phase = .suspended ∧ (b.suspendedPhase = some .spinning ∨ b.suspendedPhase = some .torquing))) ∧
    ∃ c g r, b.ctx = some c ∧ c.outcome = none ∧ c.gel = some g ∧ c.resin = some r ∧ r.w < g := by
  rw [late_iff, ← and_assoc, underDeadline_iff]

/-- A limit event that is due ends with its effect. -/
theorem limit_ends {i : Instr} {due : Prop} [Decidable due] {x : Side} {s v : State}
    (hi : exec i s = .next (if due then settle v else s)) (hd : due) (hs : s.settled) (hc : Calm (holeFlags x) s v) :
    ∃ t, exec i s = .next t ∧ ends (holeFlags x) s v t :=
  ⟨settle v, hi.trans (congrArg Host.Outcome.next (if_pos hd)), ends_settle hs (lines_not_mem_holeFlags x) hc⟩

/-- A limit event changes nothing where it is not due. -/
theorem limit_only {i : Instr} {due : Bool} {P : Prop} {s v : State} (hi : exec i s = .next (if due then settle v else s))
    (hd : limitDue s i = due) (hP : due = true ↔ P) : (limitDue s i = true ↔ P) ∧ (¬ P → exec i s = .next s) :=
  ⟨hd ▸ hP, fun hn => hi.trans (congrArg Host.Outcome.next (if_neg (mt hP.mp hn)))⟩

/-! ### The spin (R43, R80, R81, R146) -/

theorem temperature_of {s : State} {l : LineRec} {off span : Nat} (hl : s.lineOf .temperature = some l)
    (hb : l.binding = some ⟨.temperature, .temp off span⟩) :
    s.temperature = some ((l.analog * span / 1023 : Nat) - (off : Int)) := by
  unfold State.temperature
  rw [hl]
  dsimp only
  rw [hb]
  rfl

theorem temperature_unbound {s : State} (h : s.lineOf .temperature = none) : s.temperature = none := by
  unfold State.temperature
  rw [h]

section
variable {x : Side} {s : State} {c : HoleCtx} (hc : (s.boom x).ctx = some c)
include hc

/-- A spin that had started goes on with the times it has (R80). -/
theorem startSpin_started (hg : c.gel ≠ none) : startSpin x s = s := by
  obtain ⟨g, hg⟩ := Option.ne_none_iff_exists'.mp hg
  unfold startSpin
  rw [modCtx_eq, hc, Option.map_some, hg, ← hc]
  exact setBoom_self s x

/-- The first start of the spin latches the band and the times (R80). -/
theorem startSpin_first (hg : c.gel = none) : startSpin x s = s.setBoom x { s.boom x with
    ctx := some { c with
      tempBand := s.temperature.map fun t => (tempBandOf t).val + 1
      resin := some (resinTimes c.snap ((s.temperature.map fun t => s.temps[tempBandOf t]).getD 100))
      gel := some 0, spinElapsed := 0 } } := by
  unfold startSpin
  rw [modCtx_eq, hc, Option.map_some, hg]
  simp only [Option.map_map]
  rfl

theorem endSpin_eq {g : Nat} {r : ResinTimes} (hg : c.gel = some g) (hr : c.resin = some r) :
    endSpin x s = s.setBoom x { s.boom x with
      phase := .holding, holdEnd := some (g + r.h), port := (s.boom x).port.drop, stallTime := 0 } := by
  unfold endSpin
  have hend : ((s.boom x).ctx.bind fun c => c.gel.bind fun g => c.resin.map fun r => g + r.h) = some (g + r.h) := by
    rw [hc, Option.bind_some, hg, hr]
    rfl
  rw [modBoom_dropFlow, hend]

end

/-- A boom that enters TORQUING past its deadline is late first (R85). -/
theorem enterTorquing_late {x : Side} {s : State} (hl : ({ s.boom x with phase := .torquing } : Boom).late = true) :
    enterTorquing x s = takeLate x (s.setBoom x { s.boom x with phase := .torquing }) := by
  unfold enterTorquing
  dsimp only
  rw [modBoom_eq, setBoom_boom, if_pos hl]

/-! ### The torque (R85 to R87) -/

theorem modCtx_none {x : Side} {s : State} (h : (s.boom x).ctx = none) (f : HoleCtx → HoleCtx) : s.modCtx x f = s := by
  rw [modCtx_eq, h, Option.map_none, ← h]
  exact setBoom_self s x

section
variable {x : Side} {s : State}

theorem computeTorque_inactive {bar : Nat} (h : ¬ (s.boom x).torquingActive = true) : computeTorque x bar s = s := if_neg h

theorem computeTorque_none {bar : Nat} (h : (s.boom x).ctx = none) : computeTorque x bar s = s := by
  unfold computeTorque
  dsimp only
  rw [modCtx_none h, h]
  exact ite_self s

theorem takePulse_inactive (h : ¬ (s.boom x).torquingActive = true) : takePulse x s = s := if_neg h

theorem takePulse_none (h : (s.boom x).ctx = none) : takePulse x s = s := by
  unfold takePulse
  dsimp only
  rw [modCtx_none h, h]
  exact ite_self s

variable {b : Boom} {c : HoleCtx} (hc : b.ctx = some c) (ha : b.torquingActive = true)
include hc ha

/-- The torque of a pressure is kept at its highest; at the target the bolt is installed (R86). -/
theorem computeTorque_active (bar : Nat) : computeTorque x bar (s.setBoom x b) =
    (let h := { c with torque := max c.torque (bar * c.snap.torqueFactor / 10) }
     if c.snap.torqueTarget ≤ bar * c.snap.torqueFactor / 10 then
       enterReleasing x (s.setBoom x { b with
         ctx := some { h with outcome := some (if c.acceptedWeak then .installedMarked else .installed) } })
     else s.setBoom x { b with ctx := some h }) := by
  unfold computeTorque
  rw [setBoom_boom, if_pos ha]
  simp only [modCtx_eq, setBoom_boom, setBoom_setBoom, hc, Option.map_some]
  rfl

/-- A pulse counts a turn; at the turn limit the bolt has spun through (R87). -/
theorem takePulse_active : takePulse x (s.setBoom x b) =
    (let h := { c with turns := c.turns + 1 }
     if c.snap.turnLimit ≤ c.turns + 1 then
       enterReleasing x (s.setBoom x { b with ctx := some { h with outcome := some .spinThrough } })
     else s.setBoom x { b with ctx := some h }) := by
  unfold takePulse
  rw [setBoom_boom, if_pos ha]
  simp only [modCtx_eq, setBoom_boom, setBoom_setBoom, hc, Option.map_some]

end

theorem rotPressure_setBoom (s : State) (x y : Side) (b : Boom) : (s.setBoom x b).rotPressure y = s.rotPressure y := by
  cases x <;> rfl

/-- A context whose tension start offset is taken, the first time as the gel clock stands (R85). -/
def HoleCtx.tensioned (c : HoleCtx) : HoleCtx :=
  { c with
    tensionOffset := if c.tensionOffset = none then c.gel else c.tensionOffset
    turns := if c.tensionOffset = none then 0 else c.turns }

/-- Torquing begins: its offset is taken, then the torque is computed (R85, R86). -/
theorem torqueBegins_eq {x : Side} {s : State} {c : HoleCtx} (hc : (s.boom x).ctx = some c) : torqueBegins x s =
    computeTorque x (s.rotPressure x) (s.setBoom x { s.boom x with ctx := some c.tensioned }) := by
  unfold torqueBegins HoleCtx.tensioned
  dsimp only
  rw [modCtx_eq, hc, Option.map_some, rotPressure_setBoom]
  rcases h : c.tensionOffset with _ | o
  · rfl
  · rw [if_neg (by simp), if_neg (by simp), if_neg (by simp), ← h]

/-! ### Events of the rotation -/

section
variable {x : Side} {s : State}

theorem exec_rotationPulse (hn : (s.boom x).hasNext .rotationPulse = true) : exec (.rotationPulse x) s =
    .next (settle (takePulse x (s.setBoom x { s.boom x with events := (s.boom x).events.erase .rotationPulse }))) :=
  congrArg Host.Outcome.next (if_pos hn)

/-- A pressure below the stall pressure takes the stall-pressure time to 0, and the torque is computed (R59, R86). -/
theorem takePressureChange_setBoom {b : Boom} {p : Nat} (hp : b.snap.stallPressure = p) (bar : Nat) :
    takePressureChange x bar (s.setBoom x b) =
      computeTorque x bar (s.setBoom x { b with stallTime := if bar < p then 0 else b.stallTime }) := by
  unfold takePressureChange
  dsimp only
  rw [modBoom_eq, setBoom_boom, setBoom_setBoom, hp]
  congr 1
  split <;> rfl

theorem exec_rotationPressureChange {bar p : Nat} (hn : (s.boom x).hasNext (.rotationPressure bar) = true)
    (hp : (s.boom x).snap.stallPressure = p) : exec (.rotationPressureChange x) s =
      .next (settle (computeTorque x bar (s.setBoom x { s.boom x with
        events := (s.boom x).events.erase (.rotationPressure bar)
        stallTime := if bar < p then 0 else (s.boom x).stallTime }))) := by
  have hfirst : (s.boom x).firstOf (BoomEvent.rotationPressure 0).cls = some (.rotationPressure bar) := beq_iff_eq.mp hn
  have htake := takePressureChange_setBoom (x := x) (s := s)
    (b := { s.boom x with events := (s.boom x).events.erase (.rotationPressure bar) }) hp bar
  refine Eq.trans ?_ (congrArg (fun u => Host.Outcome.next (settle u)) htake)
  change execRotationPressureChange x s = _
  unfold execRotationPressureChange
  rw [hfirst]
  exact congrArg Host.Outcome.next (if_pos hn)

end

section
variable {x : Side} {s : State} (hs : s.settled)
include hs

/-- An event taken with no effect but on the stall-pressure time changes nothing more. -/
theorem settle_taken (es : List BoomEvent) (n : Nat) : settle (s.setBoom x { s.boom x with events := es, stallTime := n }) =
    s.setBoom x { s.boom x with events := es, stallTime := n } :=
  settle_settled (settled_setBoom hs x _ rfl)

/-- A pulse at a boom whose torquing is not active, or without a hole, changes nothing. -/
theorem rotationPulse_idle (hn : (s.boom x).hasNext .rotationPulse = true)
    (h : ¬ (s.boom x).torquingActive = true ∨ (s.boom x).ctx = none) : exec (.rotationPulse x) s =
      .next (s.setBoom x { s.boom x with events := (s.boom x).events.erase .rotationPulse }) := by
  rw [exec_rotationPulse hn]
  rcases h with h | h
  · rw [takePulse_inactive (by rwa [setBoom_boom])]
    exact congrArg Host.Outcome.next (settle_taken hs _ _)
  · rw [takePulse_none (by rwa [setBoom_boom])]
    exact congrArg Host.Outcome.next (settle_taken hs _ _)

/-- A pressure at a boom without a hole changes nothing. -/
theorem rotationPressureChange_none {bar : Nat} (hn : (s.boom x).hasNext (.rotationPressure bar) = true)
    (h : (s.boom x).ctx = none) : exec (.rotationPressureChange x) s =
      .next (s.setBoom x { s.boom x with events := (s.boom x).events.erase (.rotationPressure bar) }) := by
  have hsnap : (s.boom x).snap.stallPressure = 0 := by rw [Boom.snap, h]; rfl
  rw [exec_rotationPressureChange hn hsnap, computeTorque_none (by rwa [setBoom_boom]), if_neg (Nat.not_lt_zero bar)]
  exact congrArg Host.Outcome.next (settle_taken hs _ _)

end

section
variable {x : Side} {s : State} {c : HoleCtx} (hs : s.settled) (hc : (s.boom x).ctx = some c) {bar : Nat}
include hs hc

/-- A pressure while torquing is not active concerns the stall-pressure time alone (R59). -/
theorem rotationPressureChange_inactive (hn : (s.boom x).hasNext (.rotationPressure bar) = true)
    (h : ¬ (s.boom x).torquingActive = true) : exec (.rotationPressureChange x) s =
      .next (s.setBoom x { s.boom x with
        events := (s.boom x).events.erase (.rotationPressure bar)
        stallTime := if bar < c.snap.stallPressure then 0 else (s.boom x).stallTime }) := by
  rw [exec_rotationPressureChange hn (congrArg _ (snap_of_ctx hc)), computeTorque_inactive (by rwa [setBoom_boom])]
  exact congrArg Host.Outcome.next (settle_taken hs _ _)

/-- A pressure while torquing is active ends with the torque it gives (R59, R86). -/
theorem rotationPressureChange_ends (hn : (s.boom x).hasNext (.rotationPressure bar) = true) {v : State}
    (hv : computeTorque x bar (s.setBoom x { s.boom x with
      events := (s.boom x).events.erase (.rotationPressure bar)
      stallTime := if bar < c.snap.stallPressure then 0 else (s.boom x).stallTime }) = v) :
    ∃ t, exec (.rotationPressureChange x) s = .next t ∧ ends (holeFlags x) s v t := by
  exact ⟨settle v, hv ▸ exec_rotationPressureChange hn (congrArg _ (snap_of_ctx hc)),
    ends_settle hs (lines_not_mem_holeFlags x) (hv ▸ (calm_setBoom _ s x _).trans (calm_computeTorque _ x bar))⟩

end

/-- A pulse while torquing is active ends with the turn it counts (R87). -/
theorem rotationPulse_ends {x : Side} {s v : State} (hs : s.settled) (hn : (s.boom x).hasNext .rotationPulse = true)
    (hv : takePulse x (s.setBoom x { s.boom x with events := (s.boom x).events.erase .rotationPulse }) = v) :
    ∃ t, exec (.rotationPulse x) s = .next t ∧ ends (holeFlags x) s v t :=
  ⟨settle v, hv ▸ exec_rotationPulse hn, ends_settle hs (lines_not_mem_holeFlags x)
    (hv ▸ (calm_setBoom _ s x _).trans (calm_takePulse _ x))⟩

/-- Settles O54: the limits by what makes them due, the spin, the hold and the torque by their equations. -/
theorem spinHoldAndTorque : Obligations.SpinHoldAndTorque := by
  refine ⟨fun x s => ?_, fun x s hs => ?_, fun x c s hc => ?_⟩
  · exact ⟨limit_only rfl rfl (spinEndDue_iff x s), limit_only rfl rfl (holdEndDue_iff x s),
      limit_only rfl rfl (late_iff_named (s.boom x))⟩
  · intro b active
    exact ⟨fun hn h => rotationPulse_idle hs hn (h.imp_left (mt (torquingActive_iff b).mp)),
      fun bar hn h => rotationPressureChange_none hs hn h⟩
  · intro b active next band times
    have hactive (h : active) : b.torquingActive = true := (torquingActive_iff b).mpr h
    refine ⟨fun l off span => temperature_of, temperature_unbound, startSpin_started hc, fun hg ht => ?_,
      fun t hg ht => ?_, fun g r hs hp hm hg hr hle => ?_, fun g e hs hp hg he hle => ⟨fun hl => ?_, fun hl => ?_⟩,
      fun hs hl => limit_ends rfl hl hs (calm_takeLate s x), fun ha => ?_, fun bar hs hn => ?_, fun hs hn => ?_⟩
    · have hfirst := startSpin_first hc hg
      rw [ht] at hfirst
      exact hfirst
    · have hfirst := startSpin_first hc hg
      rw [ht] at hfirst
      exact hfirst
    · have hend := limit_ends (i := .spinEnd x) (x := x) rfl ((spinEndDue_iff x s).mpr ⟨hp, hm, c, r, hc, by simp [hg], hr, hle⟩)
        hs (calm_endSpin s x)
      rwa [endSpin_eq hc hg hr] at hend
    · have hend := limit_ends (i := .holdEnd x) rfl ((holdEndDue_iff x s).mpr ⟨hp, c, g, e, hc, hg, he, hle⟩) hs
        (calm_enterTorquing s x)
      rwa [enterTorquing_late hl] at hend
    · exact limit_ends (i := .holdEnd x) rfl ((holdEndDue_iff x s).mpr ⟨hp, c, g, e, hc, hg, he, hle⟩) hs
        (calm_enterTorquing s x)
    · intro bar k
      have htorque := (torqueBegins_eq hc).trans
        (computeTorque_active (b := { b with ctx := some c.tensioned }) rfl (hactive ha) (s.rotPressure x))
      exact ⟨fun hlt => htorque.trans (if_neg (Nat.not_le.mpr hlt)), fun hle => htorque.trans (if_pos hle)⟩
    · intro e h
      refine ⟨fun ha => rotationPressureChange_inactive hs hc hn (mt (torquingActive_iff b).mp ha), fun ha hlt => ?_,
        fun ha hle => ?_⟩
      · exact rotationPressureChange_ends hs hc hn
          ((computeTorque_active (b := e) hc (hactive ha) bar).trans (if_neg (Nat.not_le.mpr hlt)))
      · exact rotationPressureChange_ends hs hc hn
          ((computeTorque_active (b := e) hc (hactive ha) bar).trans (if_pos hle))
    · intro e h
      refine ⟨fun ha hlt => ?_, fun ha hle => ?_⟩
      · exact rotationPulse_ends hs hn
          ((takePulse_active (b := e) hc (hactive ha)).trans (if_neg (Nat.not_le.mpr hlt)))
      · exact rotationPulse_ends hs hn ((takePulse_active (b := e) hc (hactive ha)).trans (if_pos hle))

end Sys2Proof.Machine
end

section
/-! SUPPORT. What the output lines show: an output line follows its owner, and what the owners command (R46, R47, R71, R105, R125,
R140, R147, R149). -/

namespace Sys2Proof.Machine

/-! ### A line that follows its owner -/

/-- A level taken latches by the sense (R140). -/
theorem toLevel_eq (new : Bool) (l : LineRec) : l.toLevel new = { l with digital := new, latch := l.latchAfter new } := by
  rcases l with ⟨mode, pull, sense, mask, binding, value, digital, snapshot, latch, analog, term⟩
  by_cases h : new = digital
  · subst h
    simp [LineRec.toLevel, LineRec.latchAfter]
  · have hedge : (new != digital) = true := bne_iff_ne.mpr h
    unfold LineRec.toLevel LineRec.latchAfter LineRec.condition
    simp only [if_neg h, hedge, Bool.true_and, Bool.or_assoc]
    congr 2
    cases mode <;> cases sense <;> cases new <;> rfl

/-- What an output value drives: the stop loop holds a bound line at 0 (R149). -/
theorem levelNow_out {l : LineRec} (h : l.mode.isOut = true) (holding : Bool) :
    l.levelNow holding = decide (0 < l.outValue ∧ ¬ (holding = true ∧ l.binding ≠ none)) := by
  have hdriven : l.levelNow holding = decide (0 < l.driven holding) := by
    unfold LineRec.levelNow
    revert h
    cases l.mode <;> simp [LineMode.isOut]
  rw [hdriven, LineRec.driven]
  cases holding <;> cases l.binding <;> simp

/-- An output line takes its owner's command, drives it unless the stop loop holds it, and latches the edge (R140, R147, R149). -/
theorem refreshLine_out (s : State) {l : LineRec} (h : l.mode.isOut = true) : refreshLine s l =
    (let v := match l.binding with | some b => (ownerCommand s b.fn).getD l.outValue | none => l.outValue
     let d : Bool := 0 < v ∧ ¬ (s.holding = true ∧ l.binding ≠ none)
     { l with outValue := v, digital := d, latch := l.latchAfter d }) := by
  have hvalue : ((l.binding.bind fun b => ownerCommand s b.fn)).getD l.outValue =
      match l.binding with | some b => (ownerCommand s b.fn).getD l.outValue | none => l.outValue := by
    cases l.binding <;> rfl
  have hrefresh : refreshLine s l =
      (let l' := { l with outValue := ((l.binding.bind fun b => ownerCommand s b.fn)).getD l.outValue }
       l'.toLevel (l'.levelNow s.holding)) := by
    unfold refreshLine
    revert h
    cases l.mode <;> simp [LineMode.isOut]
  rw [hrefresh, ← hvalue]
  dsimp only
  rw [levelNow_out (by exact h), toLevel_eq]
  rfl

theorem isOut_iff (m : LineMode) : m.isOut = true ↔ m = .switchedOut ∨ m = .proportionalOut := by
  cases m <;> simp [LineMode.isOut]

theorem isOut_eq_false_iff (m : LineMode) : m.isOut = false ↔ m = .digitalIn ∨ m = .analogIn := by
  cases m <;> simp [LineMode.isOut]

/-- In settled lines each line is as refreshed. -/
theorem refreshLine_settled {s : State} (h : s.linesSettled) (i : Fin 32) : refreshLine s s.lines[i] = s.lines[i] := by
  have hi := congrArg (fun v : Vector LineRec 32 => v[i]) (show s.lines.map (refreshLine s) = s.lines from h)
  simpa using hi

/-! ### Every step leaves the lines settled -/

/-- After power-on every line is an input, which no owner commands. -/
theorem powerUp_linesSettled (s : State) : (powerUp s).linesSettled := by
  show ((s.lines.map fun l => LineRec.powerOn l.term).map (refreshLine (powerUp s))) = _
  rw [Vector.map_map]
  exact congrArg s.lines.map (funext fun l => refreshLine_input _ _ rfl)

/-- A tenth of a second changes no command: the timers alone run. -/
theorem tick_ownerCommand (s : State) : ownerCommand (tick s) = ownerCommand s := by
  have hboom (x : Side) : boomOutputs (tickBoom x s) = boomOutputs (s.boom x) := by
    unfold boomOutputs
    rcases h : (s.boom x).ctx with _ | c <;> simp [tickBoom, tickCtx, Boom.snap, h]
  have hcanopy : (tickCanopy s).state = s.canopy.state ∧ (tickCanopy s).port = s.canopy.port := by
    unfold tickCanopy
    rcases hk : s.canopy.state <;> simp [hk]
  refine ownerCommand_congr (fun x => ?_) hcanopy.1 (congrArg FlowPort.view hcanopy.2)
  cases x
  · exact hboom .a
  · exact hboom .b

theorem moved_linesSettled {s t : State} (h : s.linesSettled) (hm : Moved s t) : t.linesSettled := by
  cases hm with
  | still => exact h
  | event u => exact settle_linesSettled u
  | on => exact powerUp_linesSettled s

theorem step_linesSettled {s t : State} (h : s.linesSettled) (he : step s = .next t) : t.linesSettled := by
  obtain ⟨c, rest, -, hc⟩ | ⟨-, c, -, hc⟩ | ⟨-, rfl⟩ := step_cases s t he
  · have hrest : ({ s with pending := rest } : State).linesSettled :=
      linesSettled_congr h rfl rfl (ownerCommand_congr (fun x => by cases x <;> rfl) rfl rfl)
    exact moved_linesSettled hrest (exec_moved c _ t hc)
  · exact moved_linesSettled h (exec_moved c s t hc)
  · exact linesSettled_congr h rfl rfl (tick_ownerCommand s)

/-! ### What a boom commands -/

theorem isHeld_iff (v : FlowView) : v.isHeld = true ↔ ∃ t, v = .held t := by cases v <;> simp [FlowView.isHeld]

/-- A boom commands its four outputs (R147). -/
theorem ownerCommand_boom {s : State} {x : Side} {o : BoomOutputs} (h : boomOutputs (s.boom x) = o) :
    ownerCommand s (.boom x .feedUp) = some o.feedUp ∧ ownerCommand s (.boom x .feedDown) = some o.feedDown ∧
      ownerCommand s (.boom x .rotation) = some o.rotation ∧
      ownerCommand s (.boom x .loader) = some (boolNat o.loader) := by
  subst h
  exact ⟨rfl, rfl, rfl, rfl⟩

/-- A boom without a grant drives nothing but the loader (R46, R47). -/
theorem boomOutputs_ungranted {b : Boom} (hv : b.port.view.isHeld = false) (hp : b.phase ≠ .inserting) :
    boomOutputs b = ⟨0, 0, 0, false⟩ := by
  unfold boomOutputs
  rw [hv]
  revert hp
  cases b.phase <;> simp

/-- A boom in a state that moves nothing drives nothing. -/
theorem boomOutputs_unmoved {b : Boom} (hu : b.phase.usesFlow = false) (hp : b.phase ≠ .inserting) :
    boomOutputs b = ⟨0, 0, 0, false⟩ := by
  unfold boomOutputs
  revert hu hp
  cases b.phase <;> simp [Phase.usesFlow]

/-- Settles O7: the lines by what a step can do, a line by `refreshLine_out`, the commands by the boom's state. -/
theorem stepKeepsOutputsAsCommanded : Obligations.StepKeepsOutputsAsCommanded := by
  refine ⟨fun s t => step_linesSettled, fun s l => ⟨fun h => ?_, fun h => ?_⟩, fun s i hs ho => ?_, fun x s => ?_, fun s => ?_⟩
  · exact refreshLine_input s l ((isOut_eq_false_iff _).mpr h)
  · exact refreshLine_out s ((isOut_iff _).mpr h)
  · have hline := (refreshLine_out s ho).symm.trans (refreshLine_settled hs i)
    have hvalue := congrArg LineRec.outValue hline
    have hdigital := congrArg LineRec.digital hline
    dsimp only at hvalue hdigital
    rw [hvalue] at hdigital
    refine ⟨fun b v hb hv => ?_, fun hb => ?_⟩
    · simp only [hb, hv, Option.getD_some] at hvalue
      rw [← hdigital, ← hvalue, hb]
      simp
    · rw [← hdigital, hb]
      simp
  · intro b granted commands
    have hcommands {o : BoomOutputs} (h : boomOutputs b = o) : commands o.feedUp o.feedDown o.rotation (boolNat o.loader) :=
      ownerCommand_boom h
    refine ⟨fun c hc => ?_, fun hg hp => ?_, fun h1 h2 h3 h4 h5 h6 h7 h8 h9 => ?_⟩
    · have hsnap : b.snap = c.snap := snap_of_ctx hc
      have hheld (hg : granted) : b.port.view.isHeld = true := (isHeld_iff _).mpr hg
      refine ⟨fun hp hg => ?_, fun hp hg hb => ?_, fun hp hg hb => ?_, fun hp hg => ?_, fun hp hf => ?_, fun hp hf => ?_,
        fun hp hg => ?_, fun hp hg => ?_⟩
      · exact hcommands (o := ⟨_, _, _, false⟩) (by rw [boomOutputs, hp, hheld hg, hsnap])
      · exact hcommands (o := ⟨_, _, _, false⟩) (by rw [boomOutputs, hp, hheld hg, hsnap]; simp [hb])
      · exact hcommands (o := ⟨_, _, _, false⟩) (by rw [boomOutputs, hp, hheld hg, hsnap]; simp [hb])
      · refine hcommands (o := ⟨_, _, _, false⟩) ?_
        rcases hp with ⟨hp, -⟩ | hp | hp | hp <;> rw [boomOutputs, hp, hheld hg, hsnap]
      · exact hcommands (o := ⟨_, _, _, true⟩) (by simp [boomOutputs, hp, hc, Option.isSome_iff_ne_none, hf])
      · exact hcommands (o := ⟨_, _, _, false⟩) (by simp [boomOutputs, hp, hc, hf])
      · exact hcommands (o := ⟨_, _, _, false⟩) (by rw [boomOutputs, hp, hheld hg, hsnap])
      · exact hcommands (o := ⟨_, _, _, false⟩) (by rw [boomOutputs, hp, hheld hg, hsnap])
    · exact hcommands (boomOutputs_ungranted (Bool.eq_false_iff.mpr (mt (isHeld_iff _).mp hg)) hp)
    · refine hcommands (boomOutputs_unmoved ?_ h7)
      unfold Phase.usesFlow
      split
      case h_9 => rfl
      all_goals contradiction
  · refine ⟨fun hr hg => ?_, fun h => ?_, ?_⟩
    · simp [ownerCommand, hr, (isHeld_iff _).mpr hg, boolNat]
    · have hnone : (s.canopy.state == .raising && s.canopy.port.view.isHeld) = false := by
        rw [Bool.and_eq_false_iff, beq_eq_false_iff_ne]
        exact h.imp_right fun hv => Bool.eq_false_iff.mpr fun k => ((isHeld_iff _).mp k).elim hv
      simp [ownerCommand, hnone, boolNat]
    · simp [ownerCommand, boolNat]

end Sys2Proof.Machine
end

section
/-! SUPPORT. Commands whose event has not come, and what a tenth of a second adds to the timers (logs 4, 8). -/

namespace Sys2Proof.Machine

/-! ### Limit events (log 8) -/

theorem mem_limitCommands (c : Instr) : c ∈ limitCommands ↔
    c ∈ ([.canopyAdoptSet, .canopySet, .raiseTimeout, .canopyLost, .canopyLowered] : List Instr) ∨
      ∃ x : Side, c ∈ ([.tensionLate x, .pressureStall x, .progressStall x, .backOffEnd x, .retractTimeout x,
        .secondFailureTimeout x, .jam x, .spinEnd x, .holdEnd x] : List Instr) := by
  rw [limitCommands, List.mem_append, List.mem_flatMap, or_comm]
  refine or_congr_right ⟨fun ⟨x, _, h⟩ => ⟨x, h⟩, fun ⟨x, h⟩ => ⟨x, ?_, h⟩⟩
  cases x <;> simp

/-- A limit command takes its event where it is due, and else changes nothing (log 33). -/
theorem exec_limit {c : Instr} (h : c ∈ limitCommands) (s : State) :
    ∃ u, exec c s = .next (if limitDue s c then settle u else s) := by
  rw [mem_limitCommands] at h
  simp only [List.mem_cons, List.not_mem_nil, or_false] at h
  rcases h with (rfl | rfl | rfl | rfl | rfl) |
    ⟨x, rfl | rfl | rfl | rfl | rfl | rfl | rfl | rfl | rfl⟩ <;> exact ⟨_, rfl⟩

theorem exec_limit_early {c : Instr} (h : c ∈ limitCommands) {s : State} (hd : limitDue s c = false) : exec c s = .next s := by
  obtain ⟨u, hu⟩ := exec_limit h s
  rw [hu, hd]
  rfl

/-- On an empty queue nothing due means a tenth of a second. -/
theorem step_tick {s : State} (hp : s.pending = []) (h : ∀ c ∈ limitCommands, limitDue s c = false) :
    step s = .next (tick s) := by
  have hnone : dueCommand s = none := List.find?_eq_none.mpr fun c hc => by simp [h c hc]
  unfold step
  rw [hp, hnone]

/-- On an empty queue a limit event that is due is taken. -/
theorem step_due {s : State} (hp : s.pending = []) {c : Instr} (hc : c ∈ limitCommands) (hd : limitDue s c = true) :
    ∃ d ∈ limitCommands, limitDue s d = true ∧ step s = exec d s := by
  have hsome : (dueCommand s).isSome := List.find?_isSome.mpr ⟨c, hc, hd⟩
  obtain ⟨d, hdue⟩ := Option.isSome_iff_exists.mp hsome
  refine ⟨d, List.mem_of_find?_eq_some hdue, List.find?_some hdue, ?_⟩
  unfold step
  rw [hp, hdue]

/-! ### Events that have not come (log 4) -/

theorem onEvent_absent {x : Side} {e : BoomEvent} {f : State → State} {s : State} (h : (s.boom x).hasNext e = false) :
    onEvent x e f s = s := if_neg (by simp [h])

/-- The commands that take a boom's event, with the event each takes. -/
theorem exec_boomEvent {x : Side} {c : Instr} {e : BoomEvent}
    (h : (c, e) ∈ ([(.boomStopLoopOpen x, .stopLoop), (.deadmanPress x, .deadman true), (.deadmanRelease x, .deadman false),
      (.atHoleRise x, .atHole), (.feedHomeRise x, .feedHome), (.cartridgePass x, .cartridgePass),
      (.boltPresentRise x, .boltPresent), (.rotationPulse x, .rotationPulse), (.boomPumpFall x, .pump false),
      (.boomPumpRise x, .pump true), (.canopyLossAtBoom x, .canopy false),
      (.canopyRegainAtBoom x, .canopy true)] : List (Instr × BoomEvent))) (s : State) :
    ∃ f, exec c s = .next (onEvent x e f s) := by
  simp only [List.mem_cons, List.not_mem_nil, or_false, Prod.mk.injEq] at h
  rcases h with ⟨rfl, rfl⟩ | ⟨rfl, rfl⟩ | ⟨rfl, rfl⟩ | ⟨rfl, rfl⟩ | ⟨rfl, rfl⟩ | ⟨rfl, rfl⟩ | ⟨rfl, rfl⟩ | ⟨rfl, rfl⟩ |
    ⟨rfl, rfl⟩ | ⟨rfl, rfl⟩ | ⟨rfl, rfl⟩ | ⟨rfl, rfl⟩ <;> exact ⟨_, rfl⟩

/-- The first event of a class is next. -/
theorem hasNext_of_firstOf {b : Boom} {k : Nat} {e : BoomEvent} (h : b.firstOf k = some e) : b.hasNext e = true := by
  have hk : (e.cls == k) = true := List.find?_some (p := fun e : BoomEvent => e.cls == k) h
  rw [Boom.hasNext, beq_iff_eq.mp hk, h]
  exact beq_self_eq_true _

theorem feedPositionChange_absent {x : Side} {s : State} (h : ∀ mm, (s.boom x).hasNext (.feedPosition mm) = false) :
    exec (.feedPositionChange x) s = .next s := by
  change execFeedPositionChange x s = .next s
  unfold execFeedPositionChange
  split
  · next mm hf => exact absurd (hasNext_of_firstOf hf) (by simp [h mm])
  · rfl

theorem rotationPressureChange_absent {x : Side} {s : State} (h : ∀ bar, (s.boom x).hasNext (.rotationPressure bar) = false) :
    exec (.rotationPressureChange x) s = .next s := by
  change execRotationPressureChange x s = .next s
  unfold execRotationPressureChange
  split
  · next bar hf => exact absurd (hasNext_of_firstOf hf) (by simp [h bar])
  · rfl

section
variable {s : State}

/-! ### Hand-overs of the arbiter that have not come, or whose turn has not (R120) -/

theorem boomHandOver_absent {x : Side} {c : Instr} {m : Nat → FlowMsg}
    (hc : (c, m) ∈ ([(.boomGrantTaken x, .grant), (.boomTakeBack x, .takeBack), (.boomFlowRefusal x, .refusal)] :
      List (Instr × (Nat → FlowMsg)))) (h : ∀ tk, (s.boom x).port.inbox.head? ≠ some (m tk)) : exec c s = .next s := by
  have hno (tk : Nat) (rest : List FlowMsg) : (s.boom x).port.inbox ≠ m tk :: rest :=
    fun hi => h tk (congrArg List.head? hi)
  simp only [List.mem_cons, List.not_mem_nil, or_false, Prod.mk.injEq] at hc
  rcases hc with ⟨rfl, rfl⟩ | ⟨rfl, rfl⟩ | ⟨rfl, rfl⟩ <;>
  · refine congrArg Host.Outcome.next ?_
    split
    · next hi => exact absurd hi (hno _ _)
    · rfl

theorem canopyHandOver_absent {c : Instr} {m : Nat → FlowMsg}
    (hc : (c, m) ∈ ([(.canopyGrantTaken, .grant), (.canopyTakeBack, .takeBack), (.canopyFlowRefusal, .refusal)] :
      List (Instr × (Nat → FlowMsg)))) (h : ∀ tk, s.canopy.port.inbox.head? ≠ some (m tk)) : exec c s = .next s := by
  have hno (tk : Nat) (rest : List FlowMsg) : s.canopy.port.inbox ≠ m tk :: rest :=
    fun hi => h tk (congrArg List.head? hi)
  simp only [List.mem_cons, List.not_mem_nil, or_false, Prod.mk.injEq] at hc
  rcases hc with ⟨rfl, rfl⟩ | ⟨rfl, rfl⟩ | ⟨rfl, rfl⟩ <;>
  · refine congrArg Host.Outcome.next ?_
    split
    · next hi => exact absurd hi (hno _ _)
    · rfl

/-- A refusal waits while one of its PUMP_SET from ahead in the queue is not taken (R120). -/
theorem flowRefusal_waits {c : Instr} {k : Consumer} {tk : Nat} {x : Side} {late : List FlowMsg}
    (hc : (c, k) ∈ ([(.boomFlowRefusal x, .boom x), (.canopyFlowRefusal, .canopy)] : List (Instr × Consumer)))
    (hi : (s.port k).inbox = .refusal tk :: late)
    (hl : ∃ l ∈ s.arbiter.refusing, (k, tk) ∈ l ∧ l.head? ≠ some (k, tk)) : exec c s = .next s := by
  obtain ⟨l, hl, hm, hh⟩ := hl
  have hwait : ¬ s.arbiter.mayRefuse k tk = true := fun h => hh ((mayRefuse_iff _ _ _).mp h l hl hm)
  simp only [List.mem_cons, List.not_mem_nil, or_false, Prod.mk.injEq] at hc
  rcases hc with ⟨rfl, rfl⟩ | ⟨rfl, rfl⟩
  · change execBoomFlowRefusal x s = .next s
    unfold execBoomFlowRefusal
    rw [show (s.boom x).port.inbox = .refusal tk :: late from hi]
    exact congrArg Host.Outcome.next (if_neg hwait)
  · change execCanopyFlowRefusal s = .next s
    unfold execCanopyFlowRefusal
    rw [show s.canopy.port.inbox = .refusal tk :: late from hi]
    exact congrArg Host.Outcome.next (if_neg hwait)

/-! ### The other blocks' events that have not come -/

theorem pressureChange_absent (h : nextPressure s = none) : exec .canopyPressureChange s = .next s := by
  change execCanopyPressureChange s = .next s
  unfold execCanopyPressureChange
  rw [h]

/-- The RESTART reply is being sent (R173). -/
theorem restartSending_iff : restartSending s = true ↔ s.link.tx = .reply ∧ ∃ tag, s.link.reply = some ⟨0x84, tag, [0]⟩ := by
  unfold restartSending
  rw [Bool.and_eq_true, beq_iff_eq]
  refine and_congr_right fun _ => ?_
  rcases s.link.reply with _ | ⟨kind, tag, body⟩
  · simp
  · simp [isRestartReply, Status.code]

variable (hs : s.settled)
include hs

theorem requestArrival_absent {k : Consumer} (h : ∀ d m tk, .request d m tk ∉ (s.port k).outbox) :
    exec (.flowRequestArrival k) s = .next s := by
  have hnone : requestArrives k s = s := by
    unfold requestArrives
    dsimp only
    split
    · next d m tk hf => exact absurd (List.mem_of_find?_eq_some hf) (h d m tk)
    · rfl
  change Host.Outcome.next (settle (requestArrives k s)) = .next s
  rw [hnone, settle_settled hs]

theorem release_absent {k : Consumer} (h : ∀ tk, (s.port k).outbox.head? ≠ some (.release tk)) :
    exec (.flowRelease k) s = .next s := by
  have hnone : releaseArrives k s = s := by
    unfold releaseArrives
    dsimp only
    split
    · next tk _ ho => exact absurd (congrArg List.head? ho) (h tk)
    · rfl
  change Host.Outcome.next (settle (releaseArrives k s)) = .next s
  rw [hnone, settle_settled hs]

end

/-! ### A tenth of a second -/

/-- The boom feeds: in COLLARING or DRILLING, in motion, with the bit at the face (R56). -/
theorem feeds_iff (x : Side) (s : State) : feeds x s = true ↔
    ((s.boom x).phase = .collaring ∨ (s.boom x).phase = .drilling) ∧ (s.boom x).port.view.moving = true ∧
      (s.boom x).backOff = false ∧ ∃ c d f, (s.boom x).ctx = some c ∧ (s.boom x).base = some ⟨d, some f⟩ ∧
        c.depth + f ≤ d + s.feedPos x := by
  have hface : (s.boom x).atFace (s.feedPos x) = true ↔ ∃ c d f, (s.boom x).ctx = some c ∧
      (s.boom x).base = some ⟨d, some f⟩ ∧ c.depth + f ≤ d + s.feedPos x := by
    unfold Boom.atFace Boom.reach
    rcases (s.boom x).ctx with _ | c <;> rcases (s.boom x).base with _ | ⟨d, _ | f⟩ <;> simp
    omega
  simp only [feeds, Bool.and_eq_true, Bool.or_eq_true, beq_iff_eq, Bool.not_eq_true', hface, and_assoc]

theorem runIf_eq {on : Bool} {P : Prop} [Decidable P] (h : on = true ↔ P) (n : Nat) :
    runIf on n = if P then n + 1 else n := by
  unfold runIf
  exact if_congr h rfl rfl

theorem runOrZero_eq {on : Bool} {P : Prop} [Decidable P] (h : on = true ↔ P) (n : Nat) :
    runOrZero on n = if P then n + 1 else 0 := by
  unfold runOrZero
  exact if_congr h rfl rfl

/-- A retract part in motion, by the states' names (R64, R90, R105). -/
theorem retractMoving_iff (b : Boom) : b.retractMoving = true ↔ b.ctx.isSome ∧ b.port.view.moving ∧
    ((b.phase = .steelChange ∧ b.waitReason = none) ∨ b.phase = .retracting ∨ b.phase = .releasing ∨ b.phase = .aborting) := by
  unfold Boom.retractMoving
  rw [Bool.and_eq_true, Bool.and_eq_true, and_comm (a := b.port.view.moving = true), and_assoc]
  refine and_congr_right fun _ => and_congr_right fun _ => ?_
  cases b.phase <;> simp

theorem tickCanopy_eq (s : State) : tickCanopy s =
    (let k := s.canopy
     let high := s.reads1 .canopyPressure
     match k.state with
     | .unknown => { k with settleTime := if s.bound .canopyPressure ∧ high then k.settleTime + 1 else 0 }
     | .raising => { k with raiseTime := k.raiseTime + 1, settleTime := if high then k.settleTime + 1 else 0 }
     | .set => { k with lossTime := if high then 0 else k.lossTime + 1 }
     | .lowering => { k with lowerTime := if high then 0 else k.lowerTime + 1 }
     | .lowered | .lost => k) := by
  have hlow (n : Nat) : runOrZero (!s.reads1 .canopyPressure) n = if s.reads1 .canopyPressure then 0 else n + 1 := by
    cases s.reads1 .canopyPressure <;> rfl
  unfold tickCanopy
  dsimp only
  rw [hlow, hlow, runOrZero_eq (Bool.and_eq_true_iff ..)]
  rfl

/-- A boom after a tenth, timer by timer (R56, R59, R61, R64, R75, R81, R90, R105). -/
theorem tickBoom_eq (x : Side) (s : State) : tickBoom x s =
    (let b := s.boom x
     { b with
       phaseTime := if feeds x s then b.phaseTime + 1 else b.phaseTime
       progressTime := if feeds x s ∧ b.phase = .drilling then b.progressTime + 1 else b.progressTime
       stallTime := match b.ctx with
         | some c =>
           if feeds x s ∧ b.phase = .drilling ∧ c.snap.stallPressure ≤ s.rotPressure x then b.stallTime + 1 else 0
         | none => 0
       backOffTime := if b.phase = .drilling ∧ b.backOff ∧ b.port.view.moving then b.backOffTime + 1 else b.backOffTime
       retractTime := if b.ctx.isSome ∧ b.port.view.moving ∧ ((b.phase = .steelChange ∧ b.waitReason = none) ∨
           b.phase = .retracting ∨ b.phase = .releasing ∨ b.phase = .aborting) then b.retractTime + 1 else b.retractTime
       pushTime := if b.phase = .inserting ∧ (match b.ctx with | some c => c.inFlight.isSome | none => false) = true
         then b.pushTime + 1 else b.pushTime
       ctx := match b.ctx with
         | some c => some { c with
             gel := match c.gel with | some g => some (g + 1) | none => none
             spinElapsed := if b.phase = .spinning ∧ b.port.view.moving ∧ c.gel.isSome then c.spinElapsed + 1
               else c.spinElapsed }
         | none => none }) := by
  have hstall : runOrZero (feeds x s && (s.boom x).phase == .drilling &&
      (s.boom x).snap.stallPressure ≤ s.rotPressure x) (s.boom x).stallTime =
      match (s.boom x).ctx with
      | some c => if feeds x s ∧ (s.boom x).phase = .drilling ∧ c.snap.stallPressure ≤ s.rotPressure x
          then (s.boom x).stallTime + 1 else 0
      | none => 0 := by
    rcases hc : (s.boom x).ctx with _ | c
    · have hno : feeds x s = false := by
        rw [← Bool.not_eq_true, feeds_iff]
        simp [hc]
      rw [hno]
      rfl
    · rw [snap_of_ctx hc]
      exact runOrZero_eq (by simp [and_assoc]) _
  have hprogress := runIf_eq (on := feeds x s && (s.boom x).phase == .drilling)
    (P := feeds x s ∧ (s.boom x).phase = .drilling) (by simp) (s.boom x).progressTime
  have hback := runIf_eq (on := (s.boom x).phase == .drilling && (s.boom x).backOff && (s.boom x).port.view.moving)
    (P := (s.boom x).phase = .drilling ∧ (s.boom x).backOff ∧ (s.boom x).port.view.moving) (by simp [and_assoc])
    (s.boom x).backOffTime
  have hpush : runIf (s.boom x).pushing (s.boom x).pushTime =
      if (s.boom x).phase = .inserting ∧ (match (s.boom x).ctx with | some c => c.inFlight.isSome | none => false) = true
      then (s.boom x).pushTime + 1 else (s.boom x).pushTime :=
    runIf_eq (by unfold Boom.pushing; rcases (s.boom x).ctx with _ | c <;> simp) _
  have hctx : (s.boom x).ctx.map (tickCtx (s.boom x)) = match (s.boom x).ctx with
      | some c => some { c with
          gel := match c.gel with | some g => some (g + 1) | none => none
          spinElapsed := if (s.boom x).phase = .spinning ∧ (s.boom x).port.view.moving ∧ c.gel.isSome then c.spinElapsed + 1
            else c.spinElapsed }
      | none => none := by
    rcases (s.boom x).ctx with _ | c
    · rfl
    · have hgel : c.gel.map (· + 1) = match c.gel with | some g => some (g + 1) | none => none := by cases c.gel <;> rfl
      rw [Option.map_some, tickCtx, hgel,
        runIf_eq (P := (s.boom x).phase = .spinning ∧ (s.boom x).port.view.moving ∧ c.gel.isSome) (by simp [and_assoc])]
  unfold tickBoom
  dsimp only
  rw [hstall, hprogress, hback, runIf_eq (retractMoving_iff _), hpush, hctx]
  rfl

/-- Settles O2: the queue's step, the commands whose event has not come, and the timers of a tenth. -/
theorem stepsWithoutAnEventAreTicksOrNothing : Obligations.StepsWithoutAnEventAreTicksOrNothing := by
  refine ⟨fun s hp => ⟨step_tick hp, fun c => step_due hp⟩, mem_limitCommands, fun x s => ?_, fun s => ?_⟩
  · refine ⟨fun c e hm he => ?_, fun c hc hd => exec_limit_early hc hd, fun h => ?_, fun h => ?_, fun h => ?_, fun h => ?_,
      fun h => ?_, fun h => ?_, feedPositionChange_absent, rotationPressureChange_absent,
      boomHandOver_absent (by simp), boomHandOver_absent (by simp), boomHandOver_absent (by simp),
      canopyHandOver_absent (by simp), canopyHandOver_absent (by simp), canopyHandOver_absent (by simp),
      fun c k tk late hc hi => flowRefusal_waits hc hi, pressureChange_absent, fun h => ?_,
      fun hs k => ⟨requestArrival_absent hs, release_absent hs⟩⟩
    · obtain ⟨f, hf⟩ := exec_boomEvent hm s
      rw [hf, onEvent_absent he]
    · exact congrArg Host.Outcome.next (if_neg (by simp [h]))
    · exact congrArg Host.Outcome.next (if_neg (by simp [h]))
    · exact congrArg Host.Outcome.next (if_neg h)
    · exact congrArg Host.Outcome.next (if_neg h)
    · exact congrArg Host.Outcome.next (if_neg fun k => h.elim (· k.1) (fun hd => by simp [hd] at k))
    · exact congrArg Host.Outcome.next (if_neg (mt restartSending_iff.mp h))
    · exact congrArg Host.Outcome.next (if_neg (by simpa using h))
  · intro runs moving inFlight boomAfter k high
    have hboom (x : Side) : tickBoom x s = boomAfter x := (tickBoom_eq x s).trans rfl
    have htick : tick s = { s with boomA := boomAfter .a, boomB := boomAfter .b, canopy := tickCanopy s } := by
      rw [tick, hboom, hboom]
    exact ⟨fun x => feeds_iff x s, htick.trans (congrArg
      (fun k : Canopy => ({ s with boomA := boomAfter .a, boomB := boomAfter .b, canopy := k } : State)) (tickCanopy_eq s))⟩

end Sys2Proof.Machine
end

section
/-! SUPPORT. The reads: what STATUS, TALLY_READ, FLOW_READ and BOOM_READ report (R68, R124, R172, R176, section 10.6). -/

namespace Sys2Proof.Machine

/-! ### The flag set (section 10.6) -/

/-- Bits added in rising order are the bits set. -/
theorem foldl_bits {α : Type} (code : α → Nat) (p : α → Bool) {l : List α} (hl : l.Pairwise fun f g => code f < code g)
    {n m : Nat} (hn : n < 2 ^ m) (hm : ∀ f ∈ l, m ≤ code f) (k : Nat) :
    (l.foldl (fun n f => if p f then n + 2 ^ code f else n) n).testBit k =
      (n.testBit k || l.any fun f => p f && code f == k) := by
  induction l generalizing n m with
  | nil => simp
  | cons f l ih =>
    obtain ⟨hfirst, hl⟩ := List.pairwise_cons.mp hl
    have hle : n < 2 ^ code f := hn.trans_le (Nat.pow_le_pow_right (by decide) (hm f (by simp)))
    have hor : n + 2 ^ code f = 2 ^ code f ||| n := by
      rw [Nat.add_comm]
      simpa using Nat.two_pow_add_eq_or_of_lt hle 1
    have hnext : (if p f then n + 2 ^ code f else n) < 2 ^ (code f + 1) := by
      rw [Nat.pow_succ]
      split <;> omega
    rw [List.foldl_cons, ih hl hnext hfirst, List.any_cons]
    split
    · next hp => rw [hor, Nat.testBit_or, Nat.testBit_two_pow, hp]; grind
    · next hp => simp [hp]

/-- The codes number the flags' places from 1. -/
theorem Flag.code_eq (f : Flag) : f.code = f.idx.val + 1 := by
  cases f with
  | holeDone x | overrun x | wait x | halt x => cases x <;> rfl
  | _ => rfl

theorem flagSet_testBit (s : State) (k : Nat) :
    (flagSet s).testBit k = allFlags.any fun f => (s.flag f).set && f.code == k := by
  unfold flagSet
  rw [foldl_bits Flag.code (fun f => (s.flag f).set) allFlags_sorted (m := 0) (by decide) (by simp)]
  simp

theorem flagSet_testBit_code (s : State) (f : Flag) : (flagSet s).testBit f.code = (s.flag f).set := by
  rw [flagSet_testBit, Bool.eq_iff_iff, List.any_eq_true]
  constructor
  · rintro ⟨g, -, hg⟩
    obtain ⟨hset, hcode⟩ := Bool.and_eq_true_iff.mp hg
    rw [beq_iff_eq, Flag.code_eq, Flag.code_eq, Nat.add_right_cancel_iff] at hcode
    rwa [← Flag.idx_inj (Fin.ext hcode)]
  · intro h
    exact ⟨f, mem_allFlags f, by simp [h]⟩

/-- The flag set has no bit where there is no code. -/
theorem flagSet_testBit_none (s : State) {k : Nat} (hk : k = 0 ∨ 16 ≤ k) : (flagSet s).testBit k = false := by
  rw [flagSet_testBit, List.any_eq_false]
  intro f _
  have hcode := Flag.code_eq f
  have hne : f.code ≠ k := by omega
  simp [hne]

theorem flagSet_lt (s : State) : flagSet s < 65536 :=
  Nat.lt_pow_two_of_testBit (n := 16) _ fun _ hk => flagSet_testBit_none s (.inr hk)

/-! ### Fields of the replies -/

theorem windowCells_nodup (s : State) : s.windowCells.Nodup := by
  unfold State.windowCells
  split
  · exact List.nodup_nil
  · rw [← List.filter_flatMap]
    refine List.Nodup.filter _ (nodup_flatMap_map (f := fun y x => (⟨x, y⟩ : Pos)) ?_ (by decide) (by decide))
    intro y x y' x' h
    exact ⟨congrArg Pos.row h, congrArg Pos.col h⟩

/-- The first entries of one width are the first bytes. -/
theorem flatten_take {α : Type} (w n : Nat) (es : List (List α)) (h : ∀ e ∈ es, e.length = w) :
    (es.take n).flatten = es.flatten.take (w * n) := by
  induction es generalizing n with
  | nil => simp
  | cons e es ih =>
    have he := h e (by simp)
    rcases n with _ | n
    · simp
    · rw [List.take_succ_cons, List.flatten_cons, List.flatten_cons, ih n fun e' he' => h e' (by simp [he']),
        Nat.mul_succ, Nat.add_comm, ← he, List.take_length_add_append]

theorem threeEntries_eq (w : Nat) (es : List (List Byte)) (h : ∀ e ∈ es, e.length = w) :
    threeEntries w es = (es ++ List.replicate 3 (List.replicate w 0)).flatten.take (w * 3) := by
  refine flatten_take w 3 _ fun e he => ?_
  rcases List.mem_append.mp he with he | he
  · exact h e he
  · rw [List.eq_of_mem_replicate he, List.length_replicate]

theorem bitsByte_three (a b c : Bool) : bitsByte [a, b, c] = bitsByte [a, b, c, false, false] := by
  cases a <;> cases b <;> cases c <;> rfl

theorem holds_byte (h : Holds) : h.byte = bitsByte [h.canopy, h.deadman, h.pump, h.host, false] := by
  rcases h with ⟨a, b, c, d⟩
  cases a <;> cases b <;> cases c <;> cases d <;> rfl

theorem loopCode_eq (s : State) :
    byteOf (loopCode s) = if s.bound .stopLoop = false then 3 else if s.reads1 .stopLoop then 2 else 1 := by
  unfold loopCode State.loopOpen
  cases s.bound .stopLoop <;> cases s.reads1 .stopLoop <;> rfl

theorem byteOf_slotCode (o : Option Slot) :
    byteOf (slotCode o) = match o with | none => 1 | some ⟨false, _⟩ => 2 | some ⟨true, _⟩ => 3 := by
  rcases o with _ | ⟨_ | _, _⟩ <;> rfl

theorem countCells_eq (s : State) (st : CellState) :
    s.countCells st = (s.windowCells.filter fun q => (s.cell q).state = st).length := rfl

/-! ### The replies -/

/-- Settles O19: each reply by its fields, the code tables by their values. -/
theorem readsReportAndChangeNothing : Obligations.ReadsReportAndChangeNothing := by
  refine ⟨fun tag boom s hs => ?_, ⟨fun n => ⟨rfl, rfl, rfl⟩, rfl, fun q => rfl⟩,
    rfl, rfl, rfl, rfl, rfl, rfl, rfl, rfl, rfl, rfl, rfl, rfl, rfl, rfl⟩
  intro bits holds phase kinds slot report
  have hphase (o : Option Phase) : byteOf ((o.map Phase.code).getD 0) = phase o := by cases o <;> rfl
  have hholds (h : Holds) : h.byte = holds h := (holds_byte h).trans (bitsByte_five ..)
  have hslot (o : Option Slot) : byteOf (slotCode o) = slot o := byteOf_slotCode o
  refine ⟨flagSet_testBit_code s, flagSet_testBit_none s (.inl rfl), flagSet_lt s, ⟨windowCells_nodup s, mem_windowCells s⟩,
    congrArg Host.Outcome.next ?_, congrArg Host.Outcome.next ?_, congrArg Host.Outcome.next ?_,
    congrArg Host.Outcome.next ?_⟩
  · refine hostSends_same hs ?_
    rw [answer_status, reqStatus, accept, boomStatus, boomStatus]
    simp only [hphase, hholds, hslot, loopCode_eq, boolByte_eq]
    rfl
  · refine hostSends_same hs ?_
    rw [answer_tallyRead, reqTallyRead, accept, boolByte_eq, boolByte_eq]
    simp only [countCells_eq]
    simp [Status.code, allCellStates]
  · refine hostSends_same hs ?_
    rw [answer_flowRead, reqFlowRead]
    rw [threeEntries_eq 3 _ (by simp), threeEntries_eq 4 _ (by simp)]
    rfl
  · have hkinds (ks : List CartKind) : kindBytes magazineSize ks = kinds 6 ks := kindBytes_eq 6 ks
    have hbits (a b c d e : Bool) : bitsByte [a, b, c, d, e] = bits a b c d e := bitsByte_five a b c d e
    have hreport (x : Side) : boomBytes x (s.boom x) = report x := by
      have hcursor : posBytes (s.boom x).cursor = match (s.boom x).cursor with
          | some q => [byteOf (q.col.val + 1), byteOf (q.row.val + 1)]
          | none => [0, 0] := by cases (s.boom x).cursor <;> rfl
      have hdepth : ((s.boom x).base.map (·.depth)).getD 0 = match (s.boom x).base with
          | some base => base.depth
          | none => 0 := by cases (s.boom x).base <;> rfl
      have hfeed : ((s.boom x).base.bind fun x => x.feed) = match (s.boom x).base with
          | some base => base.feed
          | none => none := by cases (s.boom x).base <;> rfl
      have hreason : byteOf (((s.boom x).waitReason.map WaitReason.code).getD 0) = match (s.boom x).waitReason with
          | some r => byteOf r.code
          | none => 0 := by cases (s.boom x).waitReason <;> rfl
      have hflight (o : Option CartKind) : byteOf ((o.map CartKind.code).getD 0) = match o with
          | some k => byteOf k.code
          | none => 0 := by cases o <;> rfl
      unfold boomBytes
      simp only [hphase, hholds, hkinds, hbits, bitsByte_three, hreason, hflight, hcursor, hdepth, hfeed]
      rfl
    by_cases h1 : boom = 1
    · refine hostSends_same hs ?_
      rw [answer_boomRead, reqBoomRead, if_pos h1, sideOf_side (x := .a) h1, ← hreport]
      rfl
    · by_cases h2 : boom = 2
      · refine hostSends_same hs ?_
        rw [answer_boomRead, reqBoomRead, if_neg h1, if_pos h2, sideOf_side (x := .b) h2, ← hreport]
        rfl
      · refine hostSends_same hs ?_
        rw [answer_boomRead, reqBoomRead, if_neg h1, if_neg h2, sideOf_none ⟨h1, h2⟩]
        rfl

end Sys2Proof.Machine
end

section
/-! SUPPORT. Where the end of a hole leads (R51, R91, R106, R109, R112). -/

namespace Sys2Proof.Machine

/-- A hole handed over leaves its boom's marks. -/
theorem handHole_stopPending (x : Side) (c : HoleCtx) (o : HoleOutcome) (s : State) :
    ((handHole x c o s).boom x).stopPending = (s.boom x).stopPending := by
  unfold handHole
  dsimp only
  rw [noteReseek_other, endContext_boom, placeRecord_boom, takeOutcome_boom]

/-- The seek of a boom whose hole ended: alone, or behind the seek of the other boom where that waits (log 11). -/
theorem seekAmong_cases (x : Side) (s : State) : ∃ n, seekAmong x s = seek x { s with freeCount := n } ∨
    ((s.boom x.other).phase = .seekWait ∧ seekAmong x s = seek x (reseek x.other { s with freeCount := n })) := by
  unfold seekAmong
  dsimp only
  split
  · next hw =>
    split
    · exact ⟨_, .inr ⟨hw, rfl⟩⟩
    · exact ⟨_, .inl rfl⟩
  · exact ⟨s.freeCount, .inl rfl⟩

section
variable {x : Side} {s : State} {c : HoleCtx} (hc : (s.boom x).ctx = some c)
include hc

theorem releaseDone_eq : releaseDone x s =
    (let u := handHole x c (c.outcome.getD .abandoned) s
     if (s.boom x).stopPending then enterIdle x u else seekAmong x u) := by
  unfold releaseDone
  rw [hc]
  dsimp only
  rw [handHole_stopPending]

theorem abortDone_eq : abortDone x s = (let o := c.outcome.getD .abandoned
    let halted := raiseFlag (.halt x) (some x) (some c.pos) (haltReason c o)
      ((handHole x c o s).setBoom x { (handHole x c o s).boom x with phase := .halted })
    if (s.boom x).stopPending then enterIdle x halted else halted) := by
  unfold abortDone enterHalted
  rw [hc]
  dsimp only
  rw [raiseFlag_boom, modBoom_eq, setBoom_boom, handHole_stopPending]

theorem stopHole_eq (o : HoleOutcome) : stopHole x o s = raiseFlag (.halt x) (some x) (some c.pos)
    (haltReason c (c.outcome.getD o)) (enterStopped x (handHole x c (c.outcome.getD o) s)) := by
  unfold stopHole
  rw [hc]

theorem secondFailure_eq (f : FaultCode) : secondFailure x f s =
    stopHole x .abandoned (s.setBoom x { s.boom x with ctx := some { c with fault := some f } }) := by
  rw [secondFailure, modCtx_eq, hc, Option.map_some]

end

/-- Settles O37: each end by its equation. -/
theorem holeEndsLeadOn : Obligations.HoleEndsLeadOn := by
  intro x c o s hc u reason idle halted
  refine ⟨fun hst ho => ?_, fun hst ho => ?_, stopHole_eq hc o, fun f => secondFailure_eq hc f⟩
  · subst ho
    have hrelease := releaseDone_eq hc
    have habort := abortDone_eq hc
    simp only [hst, if_true] at hrelease habort
    exact ⟨hrelease, habort⟩
  · subst ho
    have hrelease := releaseDone_eq hc
    have habort := abortDone_eq hc
    simp only [hst, Bool.false_eq_true, if_false] at hrelease habort
    rw [hrelease]
    exact ⟨habort, seekAmong_cases x u⟩

end Sys2Proof.Machine
end

section
/-! SUPPORT. AT_HOLE, HOLD, RESUME and the at-hole edge (R52, R53, R94 to R97, R101, R102). -/

namespace Sys2Proof.Machine

theorem recordsHolds_iff (b : Boom) : b.recordsHolds = true ↔ ¬ (b.phase = .idle ∨ b.phase = .stopped) := by
  simp [Boom.recordsHolds]

theorem heldPhase_iff (b : Boom) : b.heldPhase = true ↔ b.phase = .collaring ∨ b.phase = .drilling ∨
    (b.phase = .steelChange ∧ b.waitReason = none) ∨ b.phase = .retracting ∨ b.phase = .inserting ∨ b.phase = .spinning ∨
    b.phase = .torquing := by
  unfold Boom.heldPhase
  split
  case h_7 h => simp [h]
  all_goals simp_all

/-- A hold reason at a boom that records reasons, with the suspension it brings in a held phase. -/
theorem addHold_eq {x : Side} {s : State} (f : Holds → Holds) (hr : (s.boom x).recordsHolds = true) :
    addHold x f s = if (s.boom x).heldPhase then suspend x (s.setBoom x { s.boom x with holds := f (s.boom x).holds })
      else s.setBoom x { s.boom x with holds := f (s.boom x).holds } := by
  unfold addHold
  rw [if_pos hr]
  dsimp only
  rw [modBoom_eq, setBoom_boom]
  rfl

/-- The boom of a confirmed position. -/
theorem confirmAtHole_eq (x : Side) (s : State) : confirmAtHole x s = s.setBoom x
    (if (s.boom x).phase = .positioning then
      { s.boom x with ctx := (s.boom x).ctx.map fun c => { c with atHole := true } } else s.boom x) := by
  unfold confirmAtHole
  split
  · exact modCtx_eq ..
  · exact (setBoom_self s x).symm

/-- Confirming a position commands nothing. -/
theorem settled_confirmAtHole {s : State} (h : s.settled) (x : Side) : (confirmAtHole x s).settled := by
  rw [confirmAtHole_eq]
  refine settled_setBoom h x _ ?_
  split
  · next hp => rw [boomOutputs_idle (by simp [hp]), boomOutputs_idle (by simp [hp])]
  · rfl

theorem settled_takeEvent {s : State} (h : s.settled) (x : Side) (e : BoomEvent) : (s.takeEvent x e).settled :=
  settled_setBoom h x _ rfl

/-- An event that leaves a settled state has ended. -/
theorem onEvent_settled {x : Side} {e : BoomEvent} {f : State → State} {s : State} (hn : (s.boom x).hasNext e = true)
    (h : (f (s.takeEvent x e)).settled) : onEvent x e f s = f (s.takeEvent x e) :=
  (if_pos hn).trans (settle_settled h)

/-- Settles O42: the position confirmed on request and on the edge, and the HOST reason added and removed. -/
theorem atHoleHoldAndResume : Obligations.AtHoleHoldAndResume := by
  refine ⟨fun x tag boom s => ?_, fun tag boom s hs => ⟨fun hb => ⟨?_, ?_⟩, fun x hx => ?_⟩⟩
  · intro confirmed
    refine ⟨fun hs hb => congrArg Host.Outcome.next (hostSends_same hs ?_), fun hs hx => congrArg Host.Outcome.next ?_,
      fun hs hn => congrArg Host.Outcome.next ?_⟩
    · rw [answer_atHole, reqAtHole, sideOf_none hb]
      rfl
    · have ha : answer 0x23 [boom] s = _ := answer_atHole boom s
      unfold reqAtHole at ha
      rw [sideOf_side hx] at ha
      dsimp only at ha
      by_cases hp : (s.boom x).phase = .positioning
      · rw [if_pos hp] at ha ⊢
        have hsend := hostSends_exact (tag := tag) hs ha (settled_confirmAtHole hs.1 x)
        rw [confirmAtHole_eq] at hsend
        exact hsend
      · rw [if_neg hp] at ha ⊢
        exact hostSends_same hs ha
    · have htaken := onEvent_settled (f := confirmAtHole x) hn (settled_confirmAtHole (settled_takeEvent hs x .atHole) x)
      rw [confirmAtHole_eq, State.takeEvent, modBoom_eq, setBoom_boom, setBoom_setBoom] at htaken
      exact htaken
  · refine congrArg Host.Outcome.next (hostSends_same hs ?_)
    rw [answer_hold, reqHold, sideOf_none hb]
    rfl
  · refine congrArg Host.Outcome.next (hostSends_same hs ?_)
    rw [answer_resume, reqResume, sideOf_none hb]
    rfl
  · have hhold : answer 0x26 [boom] s = _ := answer_hold boom s
    have hresume : answer 0x27 [boom] s = _ := answer_resume boom s
    unfold reqHold at hhold
    unfold reqResume at hresume
    rw [sideOf_side hx] at hhold hresume
    intro b out held added
    have hrec : b.recordsHolds = true ↔ ¬ out := recordsHolds_iff b
    have hheld : b.heldPhase = true ↔ held := heldPhase_iff b
    have hsettled (h : Holds) : (s.setBoom x { b with holds := h }).settled := settled_setBoom hs.1 x _ rfl
    have hout : held → ¬ out := by
      rintro (h | h | ⟨h, -⟩ | h | h | h | h) (k | k) <;> cases h.symm.trans k
    have hadd (ho : ¬ out) : answer 0x26 [boom] s = _ :=
      hhold.trans ((if_pos (hrec.mpr ho)).trans (congrArg (accept []) (addHold_eq _ (hrec.mpr ho))))
    refine ⟨fun ho => ⟨?_, ?_⟩, fun ho hh => ?_, fun hh => ?_, fun ho => ?_⟩
    · exact congrArg Host.Outcome.next (hostSends_same hs (hhold.trans (if_neg (mt hrec.mp (not_not.mpr ho)))))
    · exact congrArg Host.Outcome.next (hostSends_same hs (hresume.trans (if_neg (mt hrec.mp (not_not.mpr ho)))))
    · exact congrArg Host.Outcome.next (hostSends_exact hs
        ((hadd ho).trans (congrArg (accept []) (if_neg (mt hheld.mp hh)))) (hsettled _))
    · exact ⟨_, rfl, hostSends_ends hs ((hadd (hout hh)).trans (congrArg (accept []) (if_pos (hheld.mpr hh))))
        (lines_not_mem_holeFlags x) ((calm_setBoom _ s x _).trans (calm_suspend _ x))⟩
    · exact congrArg Host.Outcome.next (hostSends_exact hs (hresume.trans (if_pos (hrec.mpr ho))) (hsettled _))

end Sys2Proof.Machine
end

section
/-! SUPPORT. PROCEED (R63, R66, R67, R76, R78, R108). -/

namespace Sys2Proof.Machine

/-- A boom from which PROCEED leads on. -/
def Boom.proceeds (b : Boom) : Prop :=
  (b.phase = .steelChange ∧ b.waitReason = some .addSteel) ∨ b.phase = .holeOpen ∨
    (b.phase = .inserting ∧ b.waitReason ≠ none) ∨ b.phase = .boltWait ∨ b.phase = .halted

theorem proceedFrom_none {x : Side} {s : State} (h : ¬ (s.boom x).proceeds) : proceedFrom x s = none := by
  unfold Boom.proceeds at h
  unfold proceedFrom
  dsimp only
  split <;> simp_all

section
variable {x : Side} {s : State}

theorem proceedFrom_steelChange (hp : (s.boom x).phase = .steelChange) (hw : (s.boom x).waitReason = some .addSteel) :
    proceedFrom x s = some (addSteel x s) := by
  unfold proceedFrom
  simp only [hp, hw, if_true]

theorem proceedFrom_holeOpen (hp : (s.boom x).phase = .holeOpen) : proceedFrom x s = some (enterInserting x s) := by
  unfold proceedFrom
  simp only [hp]

theorem proceedFrom_inserting (hp : (s.boom x).phase = .inserting) (hw : (s.boom x).waitReason ≠ none) :
    proceedFrom x s = some (selectCartridge x (s.setBoom x { s.boom x with waitReason := none })) := by
  unfold proceedFrom
  simp only [hp, Option.isSome_iff_ne_none.mpr hw, if_true, modBoom_eq]

theorem proceedFrom_boltWait (hp : (s.boom x).phase = .boltWait) : proceedFrom x s = some (enterSpinning x s) := by
  unfold proceedFrom
  simp only [hp]

theorem proceedFrom_halted (hp : (s.boom x).phase = .halted) : proceedFrom x s = some (seek x s) := by
  unfold proceedFrom
  simp only [hp]

end

theorem answer_proceed_taken {x : Side} {boom : Byte} {s v : State} (hx : boom = (match x with | .a => 1 | .b => 2))
    (h : proceedFrom x s = some v) : answer 0x24 [boom] s = accept (holdsReply x v) v := by
  rw [answer_proceed, reqProceed, sideOf_side hx]
  dsimp only
  rw [h]

theorem answer_proceed_refused {x : Side} {boom : Byte} {s : State} (hx : boom = (match x with | .a => 1 | .b => 2))
    (h : proceedFrom x s = none) : answer 0x24 [boom] s = refuse .refusedState s := by
  rw [answer_proceed, reqProceed, sideOf_side hx]
  dsimp only
  rw [h]

/-- A steel is added (R63): the boom's base restarts, and the deadman must be pressed again where it is not. -/
theorem addSteel_eq {x : Side} {s : State} {c : HoleCtx} (hc : (s.boom x).ctx = some c) : addSteel x s =
    goOn x (drillEntry (assess s.classes assessFuel) { c with steelCount := c.steelCount + 1 })
      (s.setBoom x { s.boom x with
        base := some ⟨c.steelCount * c.snap.steelLength, none⟩, waitReason := none
        holds := if s.reads1 (.boom x .deadman) then (s.boom x).holds else { (s.boom x).holds with deadman := true } }) := by
  unfold addSteel
  rw [hc]
  dsimp only
  rw [modBoom_eq, setBoom_reads1]
  split
  · rw [setBoom_classes]
  · rw [modBoom_eq, setBoom_boom, setBoom_setBoom, setBoom_classes]

/-- Settles O43, by the wait the boom stands at. -/
theorem proceedTakesTheBoomPastItsWait : Obligations.ProceedTakesTheBoomPastItsWait := by
  intro tag boom s hs
  refine ⟨fun hb => congrArg Host.Outcome.next (hostSends_same hs ?_), fun x hx => ?_⟩
  · rw [answer_proceed, reqProceed, sideOf_none hb]
    rfl
  · intro b taken
    have htaken {v : State} (hv : proceedFrom x s = some v) (hc : Calm (holeFlags x) s v) : taken v :=
      ⟨_, rfl, hostSends_ends hs (answer_proceed_taken hx hv) (lines_not_mem_holeFlags x) hc⟩
    refine ⟨fun c hp hw hc => htaken ((proceedFrom_steelChange hp hw).trans (congrArg some (addSteel_eq hc)))
        ((calm_setBoom _ s x _).trans (calm_goOn _ x _)),
      fun hp => htaken (proceedFrom_holeOpen hp) (calm_enterInserting s x),
      fun hp hw => htaken (proceedFrom_inserting hp hw) ((calm_setBoom _ s x _).trans (calm_selectCartridge _ x)),
      fun hp => htaken (proceedFrom_boltWait hp) (calm_enterSpinning s x),
      fun hp => htaken (proceedFrom_halted hp) (calm_seek s (by simp [holeFlags]) x),
      fun hsteel hopen hins hbolt hhalt => ?_⟩
    refine congrArg Host.Outcome.next (hostSends_same hs (answer_proceed_refused hx (proceedFrom_none ?_)))
    rintro (h | h | h | h | h)
    exacts [hsteel h, hopen h, hins h, hbolt h, hhalt h]

end Sys2Proof.Machine
end

section
/-! SUPPORT. The feed position judged against the depth (R55, R59; log 18). -/

namespace Sys2Proof.Machine

section
variable {x : Side} {s : State}

/-- A feed position is judged in COLLARING and DRILLING once the base feed position is taken: a rise past the depth, a reach
short of it, or neither. -/
theorem judgeFeed_eq {c : HoleCtx} {d f : Nat} (mm : Nat) (hp : (s.boom x).phase = .collaring ∨ (s.boom x).phase = .drilling)
    (hb : (s.boom x).base = some ⟨d, some f⟩) (hc : (s.boom x).ctx = some c) :
    judgeFeed x mm s = if c.depth + f < d + mm then afterRise x (raiseDepth x (d + mm - f) s)
      else if d + mm < c.depth + f then s.setBoom x { s.boom x with stallTime := 0 } else s := by
  have hreach : (s.boom x).reach mm = some ((d : Int) + mm - f) := by
    unfold Boom.reach
    rw [hb]
  have hrise : (c.depth : Int) < (d : Int) + mm - f ↔ c.depth + f < d + mm := by omega
  have hshort : (d : Int) + mm - f < c.depth ↔ d + mm < c.depth + f := by omega
  have hnat : ((d : Int) + mm - f).toNat = d + mm - f := by omega
  unfold judgeFeed
  rcases hp with hp | hp <;> simp only [hp, hreach, hc, hrise, hshort, hnat, modBoom_eq]

theorem judgeFeed_rise {c : HoleCtx} {d f mm : Nat} (hp : (s.boom x).phase = .collaring ∨ (s.boom x).phase = .drilling)
    (hb : (s.boom x).base = some ⟨d, some f⟩) (hc : (s.boom x).ctx = some c) (h : c.depth + f < d + mm) :
    judgeFeed x mm s = afterRise x (raiseDepth x (d + mm - f) s) :=
  (judgeFeed_eq mm hp hb hc).trans (if_pos h)

theorem judgeFeed_short {c : HoleCtx} {d f mm : Nat} (hp : (s.boom x).phase = .collaring ∨ (s.boom x).phase = .drilling)
    (hb : (s.boom x).base = some ⟨d, some f⟩) (hc : (s.boom x).ctx = some c) (h : d + mm < c.depth + f) :
    judgeFeed x mm s = s.setBoom x { s.boom x with stallTime := 0 } :=
  (judgeFeed_eq mm hp hb hc).trans ((if_neg (by omega)).trans (if_pos h))

theorem judgeFeed_same {c : HoleCtx} {d f mm : Nat} (hp : (s.boom x).phase = .collaring ∨ (s.boom x).phase = .drilling)
    (hb : (s.boom x).base = some ⟨d, some f⟩) (hc : (s.boom x).ctx = some c) (h : d + mm = c.depth + f) :
    judgeFeed x mm s = s :=
  (judgeFeed_eq mm hp hb hc).trans ((if_neg (by omega)).trans (if_neg (by omega)))

/-- Outside COLLARING and DRILLING, and before the base feed position is taken, no feed position is judged. -/
theorem judgeFeed_unjudged (mm : Nat) (h : ((s.boom x).phase ≠ .collaring ∧ (s.boom x).phase ≠ .drilling) ∨
    (s.boom x).base = none ∨ ∃ d, (s.boom x).base = some ⟨d, none⟩) : judgeFeed x mm s = s := by
  have hreach (hb : (s.boom x).base = none ∨ ∃ d, (s.boom x).base = some ⟨d, none⟩) : (s.boom x).reach mm = none := by
    unfold Boom.reach
    rcases hb with hb | ⟨d, hb⟩ <;> rw [hb]
  have hno {r : Int} (hr : (s.boom x).reach mm = some r) :
      ¬ ((s.boom x).phase = .collaring ∨ (s.boom x).phase = .drilling) := by
    rcases h with ⟨hcollar, hdrill⟩ | h
    · exact not_or.mpr ⟨hcollar, hdrill⟩
    · cases hr.symm.trans (hreach h)
  unfold judgeFeed
  dsimp only
  split
  case h_1 hp hr _ => exact absurd (.inl hp) (hno hr)
  case h_2 hp hr _ => exact absurd (.inr hp) (hno hr)
  case h_3 => rfl

/-- A motion that begins takes the base feed position where it is still to be taken (R55). -/
theorem feedBegins_untaken {d : Nat} (hb : (s.boom x).base = some ⟨d, none⟩) : feedBegins x s =
    judgeFeed x (s.feedPos x) (s.setBoom x { s.boom x with base := some ⟨d, some (s.feedPos x)⟩ }) := by
  rw [feedBegins, takeBaseFeed_none hb, setBoom_feedPos]

theorem feedBegins_taken {d f : Nat} (hb : (s.boom x).base = some ⟨d, some f⟩) :
    feedBegins x s = judgeFeed x (s.feedPos x) s := by
  have hsame : takeBaseFeed x s = s := by
    unfold takeBaseFeed
    rw [modBoom_eq, hb]
    exact setBoom_self s x
  rw [feedBegins, hsame]

theorem exec_feedPositionChange {mm : Nat} (hn : (s.boom x).hasNext (.feedPosition mm) = true) :
    exec (.feedPositionChange x) s = .next (settle (judgeFeed x mm (s.setBoom x { s.boom x with
      events := (s.boom x).events.erase (.feedPosition mm) }))) := by
  have hfirst : (s.boom x).firstOf (BoomEvent.feedPosition 0).cls = some (.feedPosition mm) := beq_iff_eq.mp hn
  change execFeedPositionChange x s = _
  unfold execFeedPositionChange
  rw [hfirst]
  exact congrArg Host.Outcome.next (if_pos hn)

end

/-- Settles O49: the judgement at a motion's begin, then at a feed position handed on. -/
theorem feedPositionChangeIsJudged : Obligations.FeedPositionChangeIsJudged := by
  refine ⟨fun x mm s => ?_, fun x mm s hs hn => ?_⟩
  · intro b based
    exact ⟨fun d hb => feedBegins_untaken hb, fun d f hb => feedBegins_taken hb, fun c d f hp hb hc =>
      ⟨judgeFeed_rise hp hb hc, judgeFeed_short hp hb hc, judgeFeed_same hp hb hc⟩⟩
  · intro b next
    have hboom : (s.setBoom x b).boom x = b := setBoom_boom s x b
    have hnext {v : State} (hv : judgeFeed x mm (s.setBoom x b) = v) : next v :=
      ⟨settle v, hv ▸ exec_feedPositionChange hn, ends_settle hs (lines_not_mem_holeFlags x)
        (hv ▸ (calm_setBoom _ s x b).trans (calm_judgeFeed _ x mm))⟩
    refine ⟨fun h => (exec_feedPositionChange hn).trans (congrArg Host.Outcome.next ?_), fun c d f hp hb hc => ?_⟩
    · have hsame : judgeFeed x mm (s.setBoom x b) = s.setBoom x b := judgeFeed_unjudged mm (by rwa [hboom])
      exact (congrArg settle hsame).trans (settle_settled (settled_setBoom hs x _ rfl))
    · rw [← hboom] at hp hb hc
      refine ⟨fun h => hnext (judgeFeed_rise hp hb hc h), fun h => hnext ?_, fun h => hnext (judgeFeed_same hp hb hc h)⟩
      rw [judgeFeed_short hp hb hc h, hboom, setBoom_setBoom]

end Sys2Proof.Machine
end

section
/-! SUPPORT. Stalls, back-offs and retractions (R56, R59 to R65, R90, R91, R105, R106, R112). -/

namespace Sys2Proof.Machine

/-! ### What makes the limits due -/

section
variable (x : Side) (s : State)

theorem pressureStallDue_iff : pressureStallDue x s = true ↔ (s.boom x).phase = .drilling ∧ feeds x s = true ∧
    ∃ c, (s.boom x).ctx = some c ∧ c.snap.stallTime ≤ (s.boom x).stallTime := by
  unfold pressureStallDue
  rcases hc : (s.boom x).ctx with _ | c
  · simp [hc]
  · simp [hc, snap_of_ctx hc, and_assoc]

/-- A boom that feeds is in a hole. -/
theorem progressStallDue_iff : progressStallDue x s = true ↔
    (s.boom x).phase = .drilling ∧ feeds x s = true ∧ 100 ≤ (s.boom x).progressTime := by
  have hctx (hf : feeds x s = true) : (s.boom x).ctx.isSome = true := by
    obtain ⟨-, -, -, c, d, f, hc, -⟩ := (feeds_iff x s).mp hf
    simp [hc]
  simp only [progressStallDue, Bool.and_eq_true, beq_iff_eq, decide_eq_true_eq, and_assoc]
  exact and_congr_right fun _ => ⟨And.right, fun h => ⟨hctx h.1, h⟩⟩

theorem backOffDue_iff : backOffDue x s = true ↔ (s.boom x).phase = .drilling ∧ (s.boom x).backOff = true ∧
    ((∃ t, (s.boom x).port.view = .held t) ∨ (s.boom x).port.view = .free) ∧ 20 ≤ (s.boom x).backOffTime := by
  simp only [backOffDue, Bool.and_eq_true, beq_iff_eq, decide_eq_true_eq, moving_iff, and_assoc]
  exact Iff.rfl

theorem retractTimeoutDue_iff : retractTimeoutDue x s = true ↔ (s.boom x).ctx ≠ none ∧
    (((s.boom x).phase = .steelChange ∧ (s.boom x).waitReason = none) ∨ (s.boom x).phase = .retracting) ∧
    ((∃ t, (s.boom x).port.view = .held t) ∨ (s.boom x).port.view = .free) ∧ 300 ≤ (s.boom x).retractTime := by
  simp only [retractTimeoutDue, Bool.and_eq_true, Bool.or_eq_true, beq_iff_eq, decide_eq_true_eq,
    retractMoving_iff, Option.isSome_iff_ne_none, moving_iff]
  rcases (s.boom x).phase <;> simp [retractLimit, and_assoc, and_left_comm]

theorem secondFailureDue_iff : secondFailureDue x s = true ↔ (s.boom x).ctx ≠ none ∧
    ((s.boom x).phase = .releasing ∨ (s.boom x).phase = .aborting) ∧
    ((∃ t, (s.boom x).port.view = .held t) ∨ (s.boom x).port.view = .free) ∧ 300 ≤ (s.boom x).retractTime := by
  simp only [secondFailureDue, Bool.and_eq_true, Bool.or_eq_true, beq_iff_eq, decide_eq_true_eq,
    retractMoving_iff, Option.isSome_iff_ne_none, moving_iff]
  rcases (s.boom x).phase <;> simp [retractLimit, and_assoc]

end

/-! ### Stalls -/

section
variable {x : Side} {s : State} {c : HoleCtx}

theorem feeds_inHole_iff (hc : (s.boom x).ctx = some c) : feeds x s = true ↔
    ((s.boom x).phase = .collaring ∨ (s.boom x).phase = .drilling) ∧
      ((∃ t, (s.boom x).port.view = .held t) ∨ (s.boom x).port.view = .free) ∧ (s.boom x).backOff = false ∧
      ∃ d f, (s.boom x).base = some ⟨d, some f⟩ ∧ c.depth + f ≤ d + s.feedPos x := by
  rw [feeds_iff, moving_iff]
  refine and_congr_right fun _ => and_congr_right fun _ => and_congr_right fun _ => ⟨?_, ?_⟩
  · rintro ⟨c', d, f, hc', hb, hle⟩
    cases hc.symm.trans hc'
    exact ⟨d, f, hb, hle⟩
  · rintro ⟨d, f, hb, hle⟩
    exact ⟨c, d, f, hc, hb, hle⟩

/-- A boom's hole after one more stall (R60). -/
def Boom.stalled (b : Boom) (c : HoleCtx) : Boom :=
  { b with progressTime := 0, stallTime := 0, ctx := some { c with stallCount := c.stallCount + 1 } }

/-- The third stall aborts the hole; the others begin a back-off (R60). -/
theorem takeStall_eq (hc : (s.boom x).ctx = some c) : takeStall x s =
    if 2 ≤ c.stallCount then enterAborting x .abandoned (some .stall) (s.setBoom x ((s.boom x).stalled c))
    else s.setBoom x { (s.boom x).stalled c with backOff := true, backOffTime := 0 } := by
  unfold takeStall
  dsimp only
  simp only [modBoom_eq, setBoom_boom, setBoom_setBoom, hc, Option.map_some, stallLimit, Nat.add_le_add_iff_right (n := 1) (m := 2)]
  rfl

end

/-! ### Retractions -/

section
variable {x : Side} {s : State} {b : Boom} {c : HoleCtx}

theorem retractDone_inSteelChange (hp : (s.boom x).phase = .steelChange) :
    retractDone x s = waitFor x .addSteel (dropFlow x s) := by
  unfold retractDone
  rw [hp]

theorem retractDone_inRetracting (hp : (s.boom x).phase = .retracting) : retractDone x s =
    waitFor x .clearHole ((dropFlow x s).modBoom x fun b => { b with phase := .holeOpen }) := by
  unfold retractDone
  rw [hp]

/-- The retraction of STEEL_CHANGE ends in the wait for the steel (R62). -/
theorem retractDone_waitsForSteel (hc : b.ctx = some c) (hp : b.phase = .steelChange) :
    retractDone x (s.setBoom x b) = raiseFlag (.wait x) (some x) (some c.pos) 1
      (s.setBoom x { b with port := b.port.drop, stallTime := 0, waitReason := some .addSteel }) := by
  have hpos : b.ctx.map (fun c => c.pos) = some c.pos := by rw [hc, Option.map_some]
  rw [retractDone_inSteelChange (by rwa [setBoom_boom]), dropFlow_setBoom, waitFor_setBoom]
  exact congrArg (fun p => raiseFlag (.wait x) (some x) p 1 _) hpos

/-- The retraction of RETRACTING ends in HOLE_OPEN, in the wait for the hole to be cleared (R65). -/
theorem retractDone_opensHole (hc : b.ctx = some c) (hp : b.phase = .retracting) :
    retractDone x (s.setBoom x b) = raiseFlag (.wait x) (some x) (some c.pos) 2
      (s.setBoom x { b with port := b.port.drop, stallTime := 0, phase := .holeOpen, waitReason := some .clearHole }) := by
  have hpos : b.ctx.map (fun c => c.pos) = some c.pos := by rw [hc, Option.map_some]
  rw [retractDone_inRetracting (by rwa [setBoom_boom]), dropFlow_setBoom, modBoom_eq, setBoom_boom, setBoom_setBoom,
    waitFor_setBoom]
  exact congrArg (fun p => raiseFlag (.wait x) (some x) p 2 _) hpos

theorem retractDone_aborting (hp : b.phase = .aborting) :
    retractDone x (s.setBoom x b) = abortDone x (s.setBoom x b) := by
  unfold retractDone
  rw [setBoom_boom, hp]

theorem abortDone_none (hc : (s.boom x).ctx = none) : abortDone x s = s := by
  unfold abortDone
  rw [hc]

/-- A boom whose retraction the feed home edge ends. -/
def Boom.retracts (b : Boom) : Prop :=
  b.phase = .aborting ∨ (((∃ t, b.port.view = .held t) ∨ b.port.view = .free) ∧
    ((b.phase = .steelChange ∧ b.waitReason = none) ∨ b.phase = .retracting ∨ b.phase = .releasing))

theorem retracts_iff (hc : b.ctx = some c) : b.retracts ↔ b.retractMoving = true ∨ b.phase = .aborting := by
  rw [retractMoving_iff, moving_iff, hc]
  unfold Boom.retracts
  rcases b.phase <;> simp

theorem takeFeedHome_retracts (hc : b.ctx = some c) (h : b.retracts) :
    takeFeedHome x (s.setBoom x b) = retractDone x (s.setBoom x b) :=
  if_pos (by rw [setBoom_boom]; exact (retracts_iff hc).mp h)

/-- An edge at a boom that is not retracting, or without a hole, changes nothing (log 17). -/
theorem takeFeedHome_else (h : ¬ b.retracts ∨ b.ctx = none) : takeFeedHome x (s.setBoom x b) = s.setBoom x b := by
  rcases hc : b.ctx with _ | c
  · unfold takeFeedHome
    split
    · next hr =>
      have hp : b.phase = .aborting := by simpa [retractMoving_iff, hc] using hr
      rw [retractDone_aborting hp, abortDone_none (by rwa [setBoom_boom])]
    · rfl
  · have hno : ¬ b.retracts := h.resolve_right (by simp [hc])
    exact if_neg (by rw [setBoom_boom]; exact mt (retracts_iff hc).mpr hno)

theorem exec_feedHomeRise (hn : (s.boom x).hasNext .feedHome = true) : exec (.feedHomeRise x) s =
    .next (settle (takeFeedHome x (s.setBoom x { s.boom x with events := (s.boom x).events.erase .feedHome }))) :=
  congrArg Host.Outcome.next (if_pos hn)

theorem calm_takeFeedHome (s : State) (x : Side) : Calm (holeFlags x) s (takeFeedHome x s) :=
  .ite (calm_retractDone s x) (.refl _ s)

end

/-- Settles O52: the limits by what makes them due, then a stall, a back-off's end and each end of a retraction. -/
theorem stallsBackOffsAndRetractions : Obligations.StallsBackOffsAndRetractions := by
  refine ⟨fun x s => ?_, fun x s hs hn => ?_, fun x c s hc => ?_, fun x c s hs hc => ?_⟩
  · exact ⟨limit_only rfl rfl (pressureStallDue_iff x s), limit_only rfl rfl (progressStallDue_iff x s),
      limit_only rfl rfl (backOffDue_iff x s), limit_only rfl rfl (retractTimeoutDue_iff x s),
      limit_only rfl rfl (secondFailureDue_iff x s)⟩
  · intro b retracting h
    have htake : takeFeedHome x (s.setBoom x { b with events := b.events.erase .feedHome }) = _ := takeFeedHome_else h
    exact (exec_feedHomeRise hn).trans (congrArg Host.Outcome.next
      ((congrArg settle htake).trans (settle_settled (settled_setBoom hs x _ rfl))))
  · intro b d
    have hself : s.setBoom x b = s := setBoom_self s x
    have hsteel := retractDone_waitsForSteel (x := x) (s := s) hc
    have hopen := retractDone_opensHole (x := x) (s := s) hc
    have hrelease := retractDone_releasing (x := x) (s := s) (b := b)
    have habort := retractDone_aborting (x := x) (s := s) (b := b)
    rw [hself] at hsteel hopen hrelease habort
    exact ⟨rfl, hsteel, hopen, hrelease, habort⟩
  · intro b moving next stalled
    have hstall {i : Instr} {due : Bool} (hi : exec i s = .next (if due then settle (takeStall x s) else s))
        (hd : due = true) : (c.stallCount < 2 → next i (s.setBoom x { stalled with backOff := true, backOffTime := 0 })) ∧
          (2 ≤ c.stallCount → next i (enterAborting x .abandoned (some .stall) (s.setBoom x stalled))) := by
      have hend := limit_ends hi hd hs (calm_takeStall s x)
      rw [takeStall_eq hc] at hend
      refine ⟨fun hlt => ?_, fun hle => ?_⟩
      · rwa [if_neg (by omega)] at hend
      · rwa [if_pos hle] at hend
    refine ⟨?_, fun i hi hp hf => ?_, fun hp hb hm hle => ?_, fun hn => ?_, fun hm hle => ⟨fun hp => ?_, fun hp => ?_⟩⟩
    · exact feeds_inHole_iff hc
    · rcases hi with ⟨rfl, hle⟩ | ⟨rfl, hle⟩
      · exact hstall rfl ((pressureStallDue_iff x s).mpr ⟨hp, hf, c, hc, hle⟩)
      · exact hstall rfl ((progressStallDue_iff x s).mpr ⟨hp, hf, hle⟩)
    · exact limit_ends rfl ((backOffDue_iff x s).mpr ⟨hp, hb, hm, hle⟩) hs (calm_setBoom _ s x _)
    · intro e d retracting
      have hnext {v : State} (h : retracting) (hv : retractDone x (s.setBoom x e) = v) : next (.feedHomeRise x) v := by
        have htake : takeFeedHome x (s.setBoom x e) = v := (takeFeedHome_retracts (b := e) hc h).trans hv
        exact ⟨settle v, htake ▸ exec_feedHomeRise hn, ends_settle hs (lines_not_mem_holeFlags x)
          (htake ▸ (calm_setBoom _ s x e).trans (calm_takeFeedHome _ x))⟩
      exact ⟨fun h hp => hnext h (retractDone_waitsForSteel hc hp), fun h hp => hnext h (retractDone_opensHole hc hp),
        fun h hp => hnext h (retractDone_releasing hp), fun h hp => hnext h (retractDone_aborting hp)⟩
    · exact limit_ends rfl ((retractTimeoutDue_iff x s).mpr ⟨by simp [hc], hp, hm, hle⟩) hs (calm_enterAborting s x _ _)
    · exact limit_ends rfl ((secondFailureDue_iff x s).mpr ⟨by simp [hc], hp, hm, hle⟩) hs (calm_secondFailure s x _)

end Sys2Proof.Machine
end

section
/-! SUPPORT. The arbiter's hand-overs at a boom: grants, take-backs and refusals (R47, R89, R117, R120, R121). -/

namespace Sys2Proof.Machine

section
variable {x : Side} {s : State}

/-! ### A hand-over leaves the boom's list -/

/-- A boom whose first hand-over was taken, with `rest` behind it. -/
def Boom.handed (b : Boom) (rest : List FlowMsg) : Boom := { b with port := { b.port with inbox := rest } }

theorem popFlow_handed {m : FlowMsg} {rest : List FlowMsg} (hi : (s.boom x).port.inbox = m :: rest) :
    popFlow (.boom x) s = s.setBoom x ((s.boom x).handed rest) := by
  change s.setBoom x { s.boom x with port := { (s.boom x).port with inbox := (s.boom x).port.inbox.tail } } = _
  rw [hi]
  rfl

/-- The arbiter's lists of refusals once that of a boom is taken (R120). -/
def refusalTold (x : Side) (tk : Nat) (s : State) : State :=
  { s with arbiter := { s.arbiter with
    refusing := (s.arbiter.refusing.map fun l => l.erase (.boom x, tk)).filter fun l => l ≠ [] } }

theorem refusalTold_boom (tk : Nat) (y : Side) : (refusalTold x tk s).boom y = s.boom y := by cases y <;> rfl

theorem refusalTold_setBoom (tk : Nat) (b : Boom) :
    (refusalTold x tk s).setBoom x b = refusalTold x tk (s.setBoom x b) := by cases x <;> rfl

theorem settled_refusalTold (h : s.settled) (tk : Nat) : (refusalTold x tk s).settled :=
  settled_congr h rfl rfl rfl rfl (ownerCommand_congr (fun y => by rw [refusalTold_boom]) rfl rfl)

theorem exec_boomGrantTaken {tk : Nat} {rest : List FlowMsg} (hi : (s.boom x).port.inbox = .grant tk :: rest) :
    exec (.boomGrantTaken x) s = .next (settle (takeGrant x tk (s.setBoom x ((s.boom x).handed rest)))) := by
  rw [← popFlow_handed hi]
  change execBoomGrantTaken x s = _
  unfold execBoomGrantTaken
  rw [hi]

theorem exec_boomTakeBack {tk : Nat} {rest : List FlowMsg} (hi : (s.boom x).port.inbox = .takeBack tk :: rest) :
    exec (.boomTakeBack x) s = .next (settle (takeTakeBack x tk (s.setBoom x ((s.boom x).handed rest)))) := by
  rw [← popFlow_handed hi]
  change execBoomTakeBack x s = _
  unfold execBoomTakeBack
  rw [hi]

/-- A refusal is taken once those ahead of it are (R120). -/
theorem exec_boomFlowRefusal {tk : Nat} {rest : List FlowMsg} (hi : (s.boom x).port.inbox = .refusal tk :: rest)
    (hturn : ∀ l ∈ s.arbiter.refusing, (.boom x, tk) ∈ l → l.head? = some (.boom x, tk)) :
    exec (.boomFlowRefusal x) s =
      .next (settle (takeRefusal x tk (refusalTold x tk (s.setBoom x ((s.boom x).handed rest))))) := by
  rw [← popFlow_handed hi]
  change execBoomFlowRefusal x s = _
  unfold execBoomFlowRefusal
  rw [hi]
  exact congrArg Host.Outcome.next (if_pos ((mayRefuse_iff ..).mpr hturn))

/-! ### Grants -/

section
variable {b : Boom} {tk : Nat}

theorem takeGrant_unasked (hv : b.port.view ≠ .waiting tk) : takeGrant x tk (s.setBoom x b) = s.setBoom x b :=
  if_neg (by rwa [setBoom_boom])

/-- A grant past the tension deadline finds the boom late (R84, log 24). -/
theorem takeGrant_late (hv : b.port.view = .waiting tk) (hl : b.late = true) :
    takeGrant x tk (s.setBoom x b) = takeLate x (s.setBoom x b) :=
  (if_pos (by rwa [setBoom_boom])).trans (if_pos (by rwa [setBoom_boom]))

theorem takeGrant_begins (hv : b.port.view = .waiting tk) (hl : b.late = false) : takeGrant x tk (s.setBoom x b) =
    motionBegins x (s.setBoom x { b with port := { b.port with view := .held tk } }) := by
  refine (if_pos (by rwa [setBoom_boom])).trans ((if_neg (by rw [setBoom_boom, hl]; exact Bool.false_ne_true)).trans ?_)
  rw [modBoom_eq, setBoom_boom, setBoom_setBoom]

end

theorem motionBegins_feed (hp : (s.boom x).phase = .collaring ∨ (s.boom x).phase = .drilling) :
    motionBegins x s = feedBegins x s := by
  unfold motionBegins
  rcases hp with hp | hp <;> rw [hp]

theorem motionBegins_retract (hp : (s.boom x).phase = .steelChange ∨ (s.boom x).phase = .retracting ∨
    (s.boom x).phase = .releasing ∨ (s.boom x).phase = .aborting) : motionBegins x s = retractBegins x s := by
  unfold motionBegins
  rcases hp with hp | hp | hp | hp <;> rw [hp]

theorem motionBegins_spin (hp : (s.boom x).phase = .spinning) : motionBegins x s = startSpin x s := by
  unfold motionBegins
  rw [hp]

theorem motionBegins_torque (hp : (s.boom x).phase = .torquing) : motionBegins x s = torqueBegins x s := by
  unfold motionBegins
  rw [hp]

/-- The tension start offset is taken where there is none. -/
theorem HoleCtx.tensioned_eq (c : HoleCtx) :
    c.tensioned = if c.tensionOffset = none then { c with tensionOffset := c.gel, turns := 0 } else c := by
  unfold HoleCtx.tensioned
  split <;> rfl

/-! ### Take-backs -/

/-- The motion a boom's phase asks for, with its demand. -/
theorem motion_eq {b : Boom} {c : HoleCtx} (hc : b.ctx = some c) {m : Motion} {d : Nat}
    (h : (b.phase = .collaring ∧ m = .collar ∧ d = c.snap.collarDemand) ∨
      (b.phase = .drilling ∧ m = .drill ∧ d = c.snap.drillDemand) ∨
      (b.phase = .spinning ∧ m = .spin ∧ d = c.snap.spinDemand) ∨
      (b.phase = .torquing ∧ m = .torque ∧ d = c.snap.torqueDemand) ∨
      ((b.phase = .steelChange ∨ b.phase = .retracting ∨ b.phase = .releasing ∨ b.phase = .aborting) ∧
        m = .retract ∧ d = c.snap.retractDemand)) : b.motion = (m, d) := by
  unfold Boom.motion
  rw [snap_of_ctx hc]
  rcases h with ⟨hp, rfl, rfl⟩ | ⟨hp, rfl, rfl⟩ | ⟨hp, rfl, rfl⟩ | ⟨hp, rfl, rfl⟩ | ⟨hp | hp | hp | hp, rfl, rfl⟩ <;> rw [hp]

theorem takeTakeBack_gone {b : Boom} {tk : Nat} (hheld : b.port.view ≠ .held tk) (hwait : b.port.view ≠ .waiting tk) :
    takeTakeBack x tk (s.setBoom x b) = s.setBoom x b :=
  if_neg (by rw [setBoom_boom]; exact not_or.mpr ⟨hheld, hwait⟩)

/-- A take-back asks for the same demand again; what has become late in it is taken (R121, log 31). -/
theorem takeTakeBack_asks {b : Boom} {tk d : Nat} {m : Motion} (hv : b.port.view = .held tk ∨ b.port.view = .waiting tk)
    (hm : b.motion = (m, d)) (hd : d ≠ 0) : takeTakeBack x tk (s.setBoom x b) = lateCheck x
      { s.setBoom x { b with
        port := ⟨.waiting s.ticket, b.port.outbox ++ [.request d m s.ticket], b.port.inbox⟩, stallTime := 0 } with
          ticket := s.ticket + 1 } := by
  have hmotion : ({ b with port := { b.port with view := .none }, stallTime := 0 } : Boom).motion = (m, d) := hm
  refine (if_pos (by rwa [setBoom_boom])).trans ?_
  dsimp only
  rw [modBoom_eq, setBoom_boom, setBoom_setBoom, setBoom_boom, hmotion]
  exact congrArg (lateCheck x) ((if_neg hd).trans (asked_setBoom_setBoom ..))

/-! ### Refusals -/

theorem takeRefusal_unasked {tk : Nat} (hv : (s.boom x).port.view ≠ .waiting tk) : takeRefusal x tk s = s := if_neg hv

/-- The boom whose flow is refused has none (R47). -/
def Boom.refused (b : Boom) : Boom := { b with port := { b.port with view := .none } }

theorem refusalTold_refused (tk : Nat) (b : Boom) : (let u := refusalTold x tk (s.setBoom x b)
    u.setBoom x (u.boom x).refused) = refusalTold x tk (s.setBoom x b.refused) := by
  dsimp only
  rw [refusalTold_boom, setBoom_boom, refusalTold_setBoom, setBoom_setBoom]

section
variable {tk : Nat} (hv : (s.boom x).port.view = .waiting tk)
include hv

theorem takeRefusal_tension (hp : (s.boom x).phase = .spinning ∨ (s.boom x).phase = .torquing) : takeRefusal x tk s =
    enterAborting x .untensioned (some .flowExceedsBudget) (s.setBoom x (s.boom x).refused) := by
  unfold takeRefusal
  rcases hp with hp | hp <;> simp only [hv, if_true, modBoom_eq, setBoom_boom, hp, Boom.refused]

theorem takeRefusal_second (hp : (s.boom x).phase = .releasing ∨ (s.boom x).phase = .aborting) :
    takeRefusal x tk s = secondFailure x .flowExceedsBudget (s.setBoom x (s.boom x).refused) := by
  unfold takeRefusal
  rcases hp with hp | hp <;> simp only [hv, if_true, modBoom_eq, setBoom_boom, hp, Boom.refused]

theorem takeRefusal_aborts (hp : (s.boom x).phase = .collaring ∨ (s.boom x).phase = .drilling ∨
    (s.boom x).phase = .steelChange ∨ (s.boom x).phase = .retracting) : takeRefusal x tk s =
    enterAborting x .abandoned (some .flowExceedsBudget) (s.setBoom x (s.boom x).refused) := by
  unfold takeRefusal
  rcases hp with hp | hp | hp | hp <;> simp only [hv, if_true, modBoom_eq, setBoom_boom, hp, Boom.refused]

end

/-! ### How a hand-over ends -/

section
variable {tk : Nat} {rest : List FlowMsg} {v : State} (hs : s.settled)
include hs

theorem settled_handed : (s.setBoom x ((s.boom x).handed rest)).settled := settled_setBoom hs x _ rfl

theorem boomGrantTaken_ends (hi : (s.boom x).port.inbox = .grant tk :: rest)
    (hv : takeGrant x tk (s.setBoom x ((s.boom x).handed rest)) = v) :
    ∃ t, exec (.boomGrantTaken x) s = .next t ∧ ends (holeFlags x) s v t :=
  ⟨settle v, hv ▸ exec_boomGrantTaken hi, ends_settle hs (lines_not_mem_holeFlags x)
    (hv ▸ (calm_setBoom _ s x _).trans (calm_takeGrant _ x tk))⟩

theorem boomTakeBack_ends (hi : (s.boom x).port.inbox = .takeBack tk :: rest)
    (hv : takeTakeBack x tk (s.setBoom x ((s.boom x).handed rest)) = v) :
    ∃ t, exec (.boomTakeBack x) s = .next t ∧ ends (holeFlags x) s v t :=
  ⟨settle v, hv ▸ exec_boomTakeBack hi, ends_settle hs (lines_not_mem_holeFlags x)
    (hv ▸ (calm_setBoom _ s x _).trans (calm_takeTakeBack _ x tk))⟩

theorem boomFlowRefusal_ends (hi : (s.boom x).port.inbox = .refusal tk :: rest)
    (hturn : ∀ l ∈ s.arbiter.refusing, (.boom x, tk) ∈ l → l.head? = some (.boom x, tk))
    (hv : takeRefusal x tk (refusalTold x tk (s.setBoom x ((s.boom x).handed rest))) = v) :
    ∃ t, exec (.boomFlowRefusal x) s = .next t ∧ ends (holeFlags x) s v t :=
  ⟨settle v, hv ▸ exec_boomFlowRefusal hi hturn, ends_settle hs (lines_not_mem_holeFlags x)
    (hv ▸ ((calm_setBoom _ s x _).trans (calm_arbiter _ _)).trans (calm_takeRefusal _ x tk))⟩

end

end

/-- Settles O55: the hand-overs that are discarded, then a grant, a take-back and a refusal by the boom's phase. -/
theorem boomsTakeTheArbitersHandOvers : Obligations.BoomsTakeTheArbitersHandOvers := by
  refine ⟨fun x tk rest s hs => ?_, fun x c tk rest s hs hc => ?_⟩
  · intro b discarded
    refine ⟨fun hi hv => ?_, fun hi hheld hwait => ?_, fun hi hv hturn => ?_⟩
    · have htake := takeGrant_unasked (x := x) (s := s) (b := b.handed rest) hv
      exact (exec_boomGrantTaken hi).trans (congrArg Host.Outcome.next
        ((congrArg settle htake).trans (settle_settled (settled_handed hs))))
    · have htake := takeTakeBack_gone (x := x) (s := s) (b := b.handed rest) hheld hwait
      exact (exec_boomTakeBack hi).trans (congrArg Host.Outcome.next
        ((congrArg settle htake).trans (settle_settled (settled_handed hs))))
    · have htake := takeRefusal_unasked (x := x) (s := refusalTold x tk (s.setBoom x (b.handed rest))) (tk := tk)
        (by rwa [refusalTold_boom, setBoom_boom])
      have hend := (exec_boomFlowRefusal hi hturn).trans (congrArg Host.Outcome.next
        ((congrArg settle htake).trans (settle_settled (settled_refusalTold (settled_handed hs) tk))))
      rwa [refusalTold, setBoom_arbiter] at hend
  · intro b p mine next
    refine ⟨fun hi => ?_, fun hi hmine m d hm hd => ?_, fun hi hturn => ?_⟩
    · intro g home
      have hboom : g.boom x = { b with port := { p with view := .held tk } } := setBoom_boom ..
      refine ⟨fun hv hl => boomGrantTaken_ends hs hi (takeGrant_late hv hl), fun hv hl => ?_⟩
      have hbegins {v : State} (h : motionBegins x g = v) : next (.boomGrantTaken x) v :=
        boomGrantTaken_ends hs hi ((takeGrant_begins (b := b.handed rest) hv hl).trans h)
      have hctx : (g.boom x).ctx = some c := by rw [hboom]; exact hc
      have hphase : (g.boom x).phase = b.phase := by rw [hboom]
      have hbase : (g.boom x).base = b.base := by rw [hboom]
      refine ⟨fun d hp hb => ?_, fun d f hp hb => ?_, fun hp => ?_, fun hp => ?_, fun hp => ?_⟩
      · intro based
        have hfeed : feedBegins x g = judgeFeed x (s.feedPos x) (g.setBoom x based) := by
          rw [feedBegins_untaken (hbase.trans hb), setBoom_feedPos]
        have hat : (g.setBoom x based).boom x = based := setBoom_boom ..
        have hbegin {v : State} (h : judgeFeed x (s.feedPos x) (g.setBoom x based) = v) : next (.boomGrantTaken x) v :=
          hbegins ((motionBegins_feed (by rwa [hphase])).trans (hfeed.trans h))
        have hp' : ((g.setBoom x based).boom x).phase = .collaring ∨ ((g.setBoom x based).boom x).phase = .drilling := by
          rw [hat]; exact hphase ▸ hp
        have hb' : ((g.setBoom x based).boom x).base = some ⟨d, some (s.feedPos x)⟩ := by rw [hat]
        have hc' : ((g.setBoom x based).boom x).ctx = some c := by rw [hat]; exact hctx
        refine ⟨fun h => hbegin (judgeFeed_same hp' hb' hc' (by omega)), fun h => hbegin ?_, fun h => hbegin ?_⟩
        · rw [judgeFeed_short hp' hb' hc' (by omega), hat, setBoom_setBoom]
        · rw [judgeFeed_rise hp' hb' hc' (by omega), Nat.add_sub_cancel]
      · have hfeed : feedBegins x g = judgeFeed x (s.feedPos x) g := by
          rw [feedBegins_taken (hbase.trans hb), setBoom_feedPos]
        rw [← hphase] at hp
        have hbegin {v : State} (h : judgeFeed x (s.feedPos x) g = v) : next (.boomGrantTaken x) v :=
          hbegins ((motionBegins_feed hp).trans (hfeed.trans h))
        have hb' := hbase.trans hb
        exact ⟨fun h => hbegin (judgeFeed_rise hp hb' hctx h), fun h => hbegin (judgeFeed_short hp hb' hctx h),
          fun h => hbegin (judgeFeed_same hp hb' hctx h)⟩
      · refine hbegins ((motionBegins_retract (by rwa [hphase])).trans ?_)
        rw [retractBegins, feedHome_setBoom]
      · exact hbegins (motionBegins_spin (hphase.trans hp))
      · intro h bar k
        have hh : h = c.tensioned := c.tensioned_eq.symm
        have hsnap : c.tensioned.snap = c.snap := rfl
        have hactive : ({ g.boom x with ctx := some c.tensioned } : Boom).torquingActive = true :=
          (torquingActive_iff _).mpr ⟨hphase.trans hp, .inl ⟨tk, by rw [hboom]⟩⟩
        have htorque : motionBegins x g = _ := (motionBegins_torque (hphase.trans hp)).trans ((torqueBegins_eq hctx).trans
          (computeTorque_active (b := { g.boom x with ctx := some c.tensioned }) rfl hactive (g.rotPressure x)))
        rw [rotPressure_setBoom] at htorque
        have hk : k = { c.tensioned with torque := max c.tensioned.torque (bar * c.snap.torqueFactor / 10) } := by
          simp only [k, hh]
        rw [hk]
        exact ⟨fun hlt => hbegins (htorque.trans (if_neg (Nat.not_le.mpr hlt))),
          fun hle => hbegins (htorque.trans (if_pos hle))⟩
    · intro v
      have hasks := takeTakeBack_asks (x := x) (s := s) (b := b.handed rest) hmine (motion_eq (b := b.handed rest) hc hm) hd
      exact ⟨fun hl => boomTakeBack_ends hs hi (hasks.trans (if_neg (ne_of_eq_of_ne hl Bool.false_ne_true))),
        fun hl => boomTakeBack_ends hs hi (hasks.trans (if_pos hl))⟩
    · intro told r hv
      have hboom : (refusalTold x tk (s.setBoom x (b.handed rest))).boom x = b.handed rest := by
        rw [refusalTold_boom, setBoom_boom]
      have hview : ((refusalTold x tk (s.setBoom x (b.handed rest))).boom x).port.view = .waiting tk := by rwa [hboom]
      have hphase : ((refusalTold x tk (s.setBoom x (b.handed rest))).boom x).phase = b.phase := by rw [hboom, Boom.handed]
      have hnext {go : State → State} (h : takeRefusal x tk (refusalTold x tk (s.setBoom x (b.handed rest))) = go _) :
          next (.boomFlowRefusal x) (go r) :=
        boomFlowRefusal_ends hs hi hturn (h.trans (congrArg go (refusalTold_refused tk (b.handed rest))))
      exact ⟨fun hp => hnext (takeRefusal_tension hview (by rwa [hphase])),
        fun hp => hnext (takeRefusal_second hview (by rwa [hphase])),
        fun hp => hnext (takeRefusal_aborts hview (by rwa [hphase]))⟩

end Sys2Proof.Machine
end

section
/-! SUPPORT. Suspension and lateness (R84, R97). -/

namespace Sys2Proof.Machine

/-! ### The deadline -/

/-- The gel clock of a hole without an outcome is past W′ (R84). -/
def HoleCtx.pastDeadline (c : HoleCtx) : Prop := c.outcome = none ∧ ∃ g r, c.gel = some g ∧ c.resin = some r ∧ r.w < g

/-- A boom in a hole is late past the deadline, by its state (R84). -/
theorem late_inHole_iff {b : Boom} {c : HoleCtx} (hc : b.ctx = some c) : b.late = true ↔ c.pastDeadline ∧
    (b.phase = .spinning ∨ b.phase = .holding ∨
      (b.phase = .torquing ∧ ∀ t, b.port.view ≠ .held t ∧ b.port.view ≠ .free) ∨
      (b.phase = .suspended ∧ (b.suspendedPhase = some .spinning ∨ b.suspendedPhase = some .torquing))) := by
  have hctx : (∃ c g r, b.ctx = some c ∧ c.outcome = none ∧ c.gel = some g ∧ c.resin = some r ∧ r.w < g) ↔
      c.pastDeadline := by
    simp [hc, HoleCtx.pastDeadline]
  have hview : ¬ ((∃ t, b.port.view = .held t) ∨ b.port.view = .free) ↔
      ∀ t, b.port.view ≠ .held t ∧ b.port.view ≠ .free := by
    simp [forall_and]
  rw [late_iff_named, hctx, hview, and_comm]

section
variable {x : Side} {s : State} {c : HoleCtx} (hc : (s.boom x).ctx = some c)
include hc

/-- Lateness is the outcome UNTENSIONED with its fault, and RELEASING (R84). -/
theorem takeLate_eq : takeLate x s = enterReleasing x (s.setBoom x { s.boom x with
    ctx := some { c with outcome := some .untensioned, fault := some .tensionLate } }) := by
  unfold takeLate
  rw [modCtx_eq, hc, Option.map_some]

end

/-! ### The suspension -/

/-- A boom of a hole, suspended in the phase it was in (R97). -/
def Boom.suspended (b : Boom) (c : HoleCtx) : Boom :=
  { b with
    phase := .suspended, suspendedPhase := some b.phase, port := b.port.drop, stallTime := 0
    ctx := some { c with suspensions := c.suspensions + 1 } }

/-- A suspended boom is late past the deadline, where it was suspended between spin start and tension (R84, log 31). -/
theorem suspended_late_iff (b : Boom) (c : HoleCtx) :
    (b.suspended c).late = true ↔ c.pastDeadline ∧ (b.phase = .spinning ∨ b.phase = .torquing) := by
  rw [late_inHole_iff (b := b.suspended c) rfl]
  simp [Boom.suspended, HoleCtx.pastDeadline]

/-- A suspension is counted, then its lateness is taken (R84, R97). -/
theorem suspend_eq {x : Side} {s : State} {c : HoleCtx} (hc : (s.boom x).ctx = some c) :
    suspend x s = lateCheck x (s.setBoom x ((s.boom x).suspended c)) := by
  unfold suspend
  rw [modBoom_dropFlow, hc, Option.map_some]
  rfl

/-- Settles O39: the suspension with its lateness check, and the deadline by the boom's state. -/
theorem suspensionAndLateness : Obligations.SuspensionAndLateness := by
  intro x c s hc b d pastDeadline
  have hlate : ((s.setBoom x d).boom x).late = true ↔ pastDeadline ∧ (b.phase = .spinning ∨ b.phase = .torquing) := by
    rw [setBoom_boom]
    exact suspended_late_iff b c
  have hsuspend : suspend x s = lateCheck x (s.setBoom x d) := suspend_eq hc
  exact ⟨fun h => hsuspend.trans (if_neg (mt hlate.mp h)), fun hp hb => hsuspend.trans (if_pos (hlate.mpr ⟨hp, hb⟩)),
    takeLate_eq hc, late_inHole_iff hc⟩

end Sys2Proof.Machine
end

section
/-! SUPPORT. Insertion: selection, cartridge passes, jams and the bolt (R72 to R78). -/

namespace Sys2Proof.Machine

/-! ### Selection (R73, R78) -/

section
variable {x : Side} {s : State} {c : HoleCtx} (hc : (s.boom x).ctx = some c)
include hc

/-- A boom in a hole waits, with the WAIT notice of its cell. -/
theorem waitFor_inHole (r : WaitReason) : waitFor x r s =
    raiseFlag (.wait x) (some x) (some c.pos) r.code (s.setBoom x { s.boom x with waitReason := some r }) := by
  unfold waitFor
  rw [hc, Option.map_some, modBoom_eq]

/-- With the required kinds all inserted the bolt is next (R78). -/
theorem selectCartridge_done (hk : c.required[c.nextIdx - 1]? = none) : selectCartridge x s =
    waitFor x .loadBolt (s.setBoom x { s.boom x with phase := .boltWait }) := by
  unfold selectCartridge
  rw [hc]
  dsimp only
  rw [hk]
  rfl

variable {k : CartKind} (hk : c.required[c.nextIdx - 1]? = some k)
include hk

theorem selectCartridge_empty (hm : (s.boom x).magazine = []) : selectCartridge x s = waitFor x .magEmpty s := by
  unfold selectCartridge
  simp only [hc, hk, hm]

theorem selectCartridge_mismatch {front : CartKind} {rest : List CartKind} (hm : (s.boom x).magazine = front :: rest)
    (hne : front ≠ k) : selectCartridge x s = waitFor x .magMismatch s := by
  unfold selectCartridge
  simp only [hc, hk, hm, if_neg hne]

theorem selectCartridge_match {rest : List CartKind} (hm : (s.boom x).magazine = k :: rest) : selectCartridge x s =
    s.setBoom x { s.boom x with magazine := rest, pushTime := 0, ctx := some { c with inFlight := some k } } := by
  unfold selectCartridge
  simp only [hc, hk, hm, if_true, modBoom_eq]

end

/-! ### The push (R74, R75) -/

section
variable {x : Side} {s : State}

/-- Outside the push part a cartridge pass means nothing. -/
theorem completePush_else (h : (s.boom x).phase ≠ .inserting ∨ ∀ c k, (s.boom x).ctx = some c → c.inFlight ≠ some k) :
    completePush x s = s := by
  unfold completePush
  split
  · next c hp hc =>
    split
    · next k hk => exact absurd hk (h.resolve_left (not_not.mpr hp) c k hc)
    · rfl
  · rfl

/-- A cartridge that has passed is inserted, and the next one is selected (R74). -/
theorem completePush_inFlight {b : Boom} {c : HoleCtx} {k : CartKind} (hp : b.phase = .inserting) (hc : b.ctx = some c)
    (hk : c.inFlight = some k) : completePush x (s.setBoom x b) = selectCartridge x (s.setBoom x { b with
      ctx := some { c with inserted := c.inserted ++ [k], inFlight := none, nextIdx := c.nextIdx + 1 } }) := by
  unfold completePush
  simp only [setBoom_boom, setBoom_setBoom, hp, hc, hk, modCtx_eq, Option.map_some]

/-- A hole whose cartridge in flight is lost to a jam (R75). -/
def HoleCtx.jammed (c : HoleCtx) : HoleCtx := { c with inFlight := none, jamCount := c.jamCount + 1 }

section
variable {c : HoleCtx} (hc : (s.boom x).ctx = some c)
include hc

theorem modCtx_jammed : (s.modCtx x fun c => { c with inFlight := none, jamCount := c.jamCount + 1 }) =
    s.setBoom x { s.boom x with ctx := some c.jammed } := by
  rw [modCtx_eq, hc, Option.map_some]
  rfl

/-- A jam before the third waits for the host (R75). -/
theorem takeJam_waits (hlt : c.jamCount < 2) :
    takeJam x s = waitFor x .jam (s.setBoom x { s.boom x with ctx := some c.jammed }) := by
  have hfew : ¬ jamLimit ≤ c.jammed.jamCount := Nat.not_le.mpr (Nat.succ_lt_succ hlt)
  unfold takeJam
  dsimp only
  rw [modCtx_jammed hc, setBoom_boom]
  exact if_neg hfew

/-- The third jam ends the hole, which is lost where cartridges are in it (R75). -/
theorem takeJam_aborts (hle : 2 ≤ c.jamCount) : takeJam x s =
    enterAborting x (if c.inserted = [] then .abandoned else .resinLost) (some .jamLimit)
      (s.setBoom x { s.boom x with ctx := some c.jammed }) := by
  have hthird : jamLimit ≤ c.jammed.jamCount := Nat.succ_le_succ hle
  have hout : resinOutcome c.jammed = if c.inserted = [] then .abandoned else .resinLost := by
    simp only [resinOutcome, List.isEmpty_iff]
    rfl
  unfold takeJam
  dsimp only
  rw [modCtx_jammed hc, setBoom_boom, ← hout]
  exact if_pos hthird

end

end

/-! ### Events of insertion -/

section
variable {x : Side} {s : State} {e : BoomEvent} {f : State → State} (hs : s.settled) (hn : (s.boom x).hasNext e = true)
include hs hn

/-- An event with no effect leaves the boom's list and changes nothing more. -/
theorem onEvent_taken (h : f (s.takeEvent x e) = s.takeEvent x e) : onEvent x e f s = s.takeEvent x e :=
  (onEvent_settled hn (by rw [h]; exact settled_takeEvent hs x e)).trans h

/-- An event with a calm effect ends with it. -/
theorem onEvent_ends {v : State} (hv : f (s.takeEvent x e) = v) (hc : ∀ u, Calm (holeFlags x) u (f u)) :
    ends (holeFlags x) s v (onEvent x e f s) := by
  rw [onEvent, if_pos hn, hv]
  exact ends_settle hs (lines_not_mem_holeFlags x) (hv ▸ (calm_modBoom _ s x _).trans (hc _))

end

theorem calm_takeBoltPresent (s : State) (x : Side) : Calm (holeFlags x) s (takeBoltPresent x s) :=
  .ite (calm_enterSpinning s x) (.refl _ s)

/-- Settles O53: the jam by what makes it due, the selection by the front of the magazine, then each event's effect. -/
theorem insertionFollowsTheRequiredSequence : Obligations.InsertionFollowsTheRequiredSequence := by
  refine ⟨fun x s => limit_only rfl rfl (jamDue_iff x s), fun x s hs => ⟨fun hn h => ?_, fun hn hp => ?_⟩,
    fun x c s hc => ?_⟩
  · exact congrArg Host.Outcome.next (onEvent_taken hs hn (completePush_else (by simpa using h)))
  · exact congrArg Host.Outcome.next (onEvent_taken hs hn (if_neg (by simpa using hp)))
  · intro b waits next lost
    have hjam (hs : s.settled) (hp : b.phase = .inserting) (hf : c.inFlight ≠ none) (hle : 50 ≤ b.pushTime) {v : State}
        (hv : takeJam x s = v) : next (.jam x) v :=
      hv ▸ limit_ends rfl ((jamDue_iff x s).mpr ⟨hp, ⟨c, hc, hf⟩, hle⟩) hs (calm_takeJam s x)
    have hlost : ((s.setBoom x { b with ctx := some lost }).boom x).ctx = some lost := by rw [setBoom_boom]
    refine ⟨fun hle => ?_, fun k hk => ⟨fun hm => ?_, fun front rest hm hne => ?_, fun rest => selectCartridge_match hc hk⟩,
      fun hs hn => ?_, fun hs hp hf hle => ⟨fun hlt => ?_, fun hge => ?_⟩, fun hs hn => ?_⟩
    · exact (selectCartridge_done hc (List.getElem?_eq_none hle)).trans (waitFor_inHole (by rwa [setBoom_boom]) _)
    · exact (selectCartridge_empty hc hk hm).trans (waitFor_inHole hc _)
    · exact (selectCartridge_mismatch hc hk hm hne).trans (waitFor_inHole hc _)
    · intro e k hp hk
      exact ⟨_, rfl, onEvent_ends hs hn (completePush_inFlight (b := e) hp hc hk) fun u => calm_completePush u x⟩
    · exact hjam hs hp hf hle ((takeJam_waits hc hlt).trans (waitFor_inHole hlost _))
    · exact hjam hs hp hf hle (takeJam_aborts hc hge)
    · intro e hp
      have htake : takeBoltPresent x (s.setBoom x e) = enterSpinning x (s.setBoom x e) := if_pos (by rwa [setBoom_boom])
      exact ⟨_, rfl, onEvent_ends hs hn htake fun u => calm_takeBoltPresent u x⟩

end Sys2Proof.Machine
end

section
/-! SUPPORT. MAGAZINE_LOAD (R69, R70). -/

namespace Sys2Proof.Machine

/-- Codes are read as the kinds they name. -/
theorem mapM_cartOf_codes (ks : List CartKind) : (ks.map fun k => byteOf k.code).mapM cartOf = some ks := by
  induction ks with
  | nil => rfl
  | cons k ks ih =>
    have hk : cartOf (byteOf k.code) = some k := by cases k <;> rfl
    rw [List.map_cons, List.mapM_cons, hk, ih]
    rfl

section
variable (kinds : Vector Byte 6) (n : Nat)

/-- The kinds of a load, read one by one. -/
theorem loadedKinds_eq_some {ks : List CartKind} (hn : n ≤ 6) (hl : ks.length = n)
    (hks : ∀ (i : Fin 6) (k : CartKind), ks[i.val]? = some k → (kinds[i]).toNat = k.code) :
    (kinds.toList.take n).mapM cartOf = some ks := by
  have hcodes : kinds.toList.take n = ks.map fun k => byteOf k.code := by
    refine List.ext_getElem (by simp [hl, hn]) fun i hi hi' => ?_
    have hik : i < ks.length := by simpa using hi'
    have hcode := hks ⟨i, by omega⟩ ks[i] (List.getElem?_eq_getElem hik)
    rw [List.getElem_take, Vector.getElem_toList, List.getElem_map]
    exact (byte_eq_iff _ _ (by cases ks[i] <;> decide)).mpr hcode
  rw [hcodes, mapM_cartOf_codes]

/-- A load is not read where one of its kinds names none; the positions past its count are not looked at. -/
theorem loadedKinds_eq_none (h : ∃ i : Fin 6, i.val < n ∧ (kinds[i] = 0 ∨ 3 < (kinds[i]).toNat)) :
    (kinds.toList.take n).mapM cartOf = none := by
  obtain ⟨i, hi, hk⟩ := h
  refine (mapM_eq_none_iff _ _).mpr ⟨kinds[i], ?_, (cartOf_eq_none_iff _).mpr hk⟩
  exact List.mem_take_iff_getElem.mpr ⟨i.val, by simp; omega, by simp⟩

end

section
variable {boom purge count : Byte} {kinds : List Byte} {s : State}

theorem reqMagazineLoad_range (h : (boom ≠ 1 ∧ boom ≠ 2) ∨ 1 < purge.toNat ∨ 6 < count.toNat ∨
    (kinds.take count.toNat).mapM cartOf = none) : reqMagazineLoad boom purge count kinds s = refuse .refusedRange s := by
  unfold reqMagazineLoad
  split
  · next x p hx hp =>
    dsimp only
    split
    · next ks hks =>
      refine if_pos (.inl ?_)
      rcases h with h | h | h | h
      · cases (sideOf_none h).symm.trans hx
      · exact absurd (onOffOf_eq_some hp) (Nat.not_le.mpr h)
      · exact h
      · cases h.symm.trans hks
    · rfl
  · rfl

/-- The magazine of a load: its kinds behind those that stay (R70). -/
def Boom.loaded (b : Boom) (purge : Byte) (ks : List CartKind) : List CartKind :=
  (if purge = 1 then [] else b.magazine) ++ ks

/-- Kinds that were read are loaded where they fit (R69, R70). -/
theorem reqMagazineLoad_read {x : Side} {ks : List CartKind} (hx : sideOf boom = some x) (hp : purge.toNat ≤ 1)
    (hc : count.toNat ≤ 6) (hks : (kinds.take count.toNat).mapM cartOf = some ks) :
    reqMagazineLoad boom purge count kinds s =
      (let m := (s.boom x).loaded purge ks
       if 6 < m.length then refuse .refusedRange s
       else accept (byteOf m.length :: kindBytes magazineSize m) (s.setBoom x { s.boom x with magazine := m })) := by
  have hcount : ¬ magazineSize < count.toNat := Nat.not_lt.mpr hc
  unfold reqMagazineLoad Boom.loaded
  simp only [hx, onOffOf_of hp, hks, hcount, false_or, decide_eq_true_eq, List.length_append, modBoom_eq]
  rfl

end

/-- A magazine as a reply sends it (section 10.6). -/
theorem kindBytes_magazine {ks : List CartKind} (h : ks.length ≤ 6) :
    kindBytes magazineSize ks = ks.map (fun k => byteOf k.code) ++ List.replicate (6 - ks.length) 0 := by
  rw [magazineSize, kindBytes_eq, List.take_of_length_le h]

/-- Settles O46: what is not read is refused, and what is read is loaded where it fits. -/
theorem magazineLoadAddsBehind : Obligations.MagazineLoadAddsBehind := by
  intro tag boom purge count kinds s hs
  have ha := answer_magazineLoad boom purge count kinds s
  refine ⟨fun hbad => congrArg Host.Outcome.next (hostSends_same hs (ha.trans (reqMagazineLoad_range ?_))),
    fun x ks hx hp hl hks hc => ?_⟩
  · exact hbad.imp_right (Or.imp_right (Or.imp_right (loadedKinds_eq_none kinds count.toNat)))
  · intro m
    have ha := ha.trans (reqMagazineLoad_read (sideOf_side hx) hp hc (loadedKinds_eq_some kinds _ hc hl hks))
    refine ⟨fun hlt => congrArg Host.Outcome.next (hostSends_same hs (ha.trans (if_pos hlt))),
      fun hle => congrArg Host.Outcome.next ?_⟩
    have hsend := hostSends_exact (tag := tag) hs (ha.trans (if_neg (Nat.not_lt.mpr hle)))
      (settled_setBoom hs.1 x _ rfl)
    rw [kindBytes_magazine (ks := (s.boom x).loaded purge ks) hle] at hsend
    exact hsend

end Sys2Proof.Machine
end

section
/-! SUPPORT. The stop loop at the field line unit: an opening taken, and what the lines show once the event has ended (R110,
R140, R141, R147, R149; log 23). -/

namespace Sys2Proof.Machine

/-! ### Lines refreshed -/

section
variable (s : State) (l : LineRec)

@[simp] theorem refreshLine_mode : (refreshLine s l).mode = l.mode := by rw [refreshLine_only]

@[simp] theorem refreshLine_binding : (refreshLine s l).binding = l.binding := by rw [refreshLine_only]

/-- A masked latch that is set stays so at the end of an event (R140). -/
theorem refreshLine_masked (h : l.mask = true ∧ l.latch = true) :
    (refreshLine s l).mask = true ∧ (refreshLine s l).latch = true := by
  obtain ⟨hm, hx⟩ := h
  by_cases ho : l.mode.isOut = true
  · rw [refreshLine_out s ho]
    simp [LineRec.latchAfter, hm, hx]
  · rw [refreshLine_input s l (eq_false_of_ne_true ho)]
    exact ⟨hm, hx⟩

/-- A bound output that the stop loop holds shows 0 (R149). -/
theorem refreshLine_held (hh : s.holding = true) (ho : l.mode.isOut = true) (hb : l.binding ≠ none) :
    (refreshLine s l).digital = false := by
  rw [refreshLine_out s ho]
  simp [hh, hb]

end

/-- The stop loop holds no unbound line (R149). -/
theorem refreshLine_unheld (s t : State) (l : LineRec) (h : l.binding = none) : refreshLine t l = refreshLine s l := by
  by_cases ho : l.mode.isOut = true
  · rw [refreshLine_out t ho, refreshLine_out s ho]
    simp [h]
  · rw [refreshLine_input t l (eq_false_of_ne_true ho), refreshLine_input s l (eq_false_of_ne_true ho)]

/-- A line as refreshed keeps its output value while its owner's command stays, and all else but its digital state and latch. -/
theorem refreshLine_settled_only {s t : State} {l : LineRec} (hl : refreshLine s l = l)
    (hc : ownerCommand t = ownerCommand s) : ∃ d x, refreshLine t l = { l with digital := d, latch := x } := by
  have hvalue : (refreshLine t l).outValue = l.outValue := by
    refine Eq.trans ?_ (congrArg LineRec.outValue hl)
    by_cases ho : l.mode.isOut = true
    · rw [refreshLine_out t ho, refreshLine_out s ho, hc]
    · rw [refreshLine_input t l (eq_false_of_ne_true ho), refreshLine_input s l (eq_false_of_ne_true ho)]
  exact ⟨_, _, (refreshLine_only t l).trans (by rw [hvalue])⟩

/-- A line as refreshed stays so where it is unbound or an input. -/
theorem refreshLine_settled_unbound {s t : State} {l : LineRec} (hl : refreshLine s l = l)
    (h : l.binding = none ∨ l.mode.isOut = false) : refreshLine t l = l :=
  h.elim (fun hb => (refreshLine_unheld s t l hb).trans hl) (refreshLine_input t l)

/-! ### Functions read from refreshed lines -/

section
variable {s t u : State} (hl : t.lines = s.lines.map (refreshLine u))
include hl

/-- A function's line is the same line, refreshed. -/
theorem lineOf_refreshed (fn : Fn) : t.lineOf fn = (s.lineOf fn).map (refreshLine u) := by
  have hbound : (LineRec.boundTo · fn) ∘ refreshLine u = (LineRec.boundTo · fn) := by
    funext l
    simp [LineRec.boundTo]
  unfold State.lineOf
  rw [hl, Vector.toList_map, List.find?_map, hbound]

theorem bound_refreshed (fn : Fn) : t.bound fn = s.bound fn := by
  unfold State.bound
  rw [lineOf_refreshed hl, Option.isSome_map]

/-- An input function reads as before (R143). -/
theorem reads1_refreshed {fn : Fn} (hb : s.bindingsSound) (hi : fn.requiredMode.isOut = false) :
    t.reads1 fn = s.reads1 fn := by
  unfold State.reads1
  rw [lineOf_refreshed hl]
  rcases h : s.lineOf fn with _ | l
  · rfl
  · obtain ⟨i, hi', hget⟩ := List.mem_iff_getElem.mp (List.mem_of_find?_eq_some h)
    have hto : l.boundTo fn = true := List.find?_some (p := (LineRec.boundTo · fn)) h
    obtain ⟨b, hbind, hfn⟩ : ∃ b, l.binding = some b ∧ b.fn = fn := by
      simpa [LineRec.boundTo, beq_iff_eq] using hto
    have hline : s.lines[(⟨i, by simpa using hi'⟩ : Fin 32)] = l := by simpa using hget
    have hmode : l.mode = fn.requiredMode := by
      rw [← hfn, ← hline]
      exact hb.1 _ b (by rw [hline, hbind])
    rw [Option.map_some, refreshLine_input u l (by rw [hmode, hi])]

/-- The end of an event does not open or close the stop loop. -/
theorem loopOpen_refreshed (hb : s.bindingsSound) : t.loopOpen = s.loopOpen := by
  unfold State.loopOpen
  rw [bound_refreshed hl, reads1_refreshed hl hb rfl]

end

/-! ### LINES over two refreshings (R141) -/

/-- LINES as new line records leave it. -/
theorem settleLines_linesKept (s : State) : linesKept s (settleLines s) := by
  have hlines : (settleLines s).lines = s.lines.map (refreshLine s) := by rw [settleLines_only]
  have hflag : (settleLines s).flag .lines =
      if ∃ i : Fin 32, ((settleLines s).lines[i].mask = true ∧ (settleLines s).lines[i].latch = true) ∧
          ¬ (s.lines[i].mask = true ∧ s.lines[i].latch = true)
      then (raiseFlag .lines none none 0 s).flag .lines else s.flag .lines := by
    rw [hlines]
    unfold settleLines
    rw [setLines_eq]
    unfold State.withLines State.flag
    dsimp only
    split <;> rfl
  unfold linesKept linesRaised
  rw [hflag]
  split
  · next h =>
    refine ⟨iff_of_true (raiseFlag_set _ _ _ _ _) (.inr h), ?_, ?_⟩ <;>
    · rw [raiseFlag_flag]
      split <;> rfl
  · next h => exact ⟨by simp only [h, or_false], rfl, rfl⟩

/-- What becomes flagged on the way stays flagged, where latches stay. -/
theorem linesKept_trans {s u t : State} (hsu : linesKept s u) (hut : linesKept u t)
    (hs : ∀ i : Fin 32, s.lines[i].mask = true ∧ s.lines[i].latch = true → u.lines[i].mask = true ∧ u.lines[i].latch = true)
    (hu : ∀ i : Fin 32, u.lines[i].mask = true ∧ u.lines[i].latch = true → t.lines[i].mask = true ∧ t.lines[i].latch = true) :
    linesKept s t := by
  obtain ⟨hset, hen, hlev⟩ := hsu
  obtain ⟨hset', hen', hlev'⟩ := hut
  refine ⟨?_, hen'.trans hen, hlev'.trans hlev⟩
  unfold linesRaised at *
  rw [hset', hset]
  constructor
  · rintro ((h | ⟨i, hi, hn⟩) | ⟨i, hi, hn⟩)
    · exact .inl h
    · exact .inr ⟨i, hu i hi, hn⟩
    · exact .inr ⟨i, hi, mt (hs i) hn⟩
  · rintro (h | ⟨i, hi, hn⟩)
    · exact .inl (.inl h)
    · by_cases hm : u.lines[i].mask = true ∧ u.lines[i].latch = true
      · exact .inl (.inr ⟨i, hm, hn⟩)
      · exact .inr ⟨i, hi, hm⟩

/-! ### The opening taken (R149) -/

/-- The part as the field line unit takes an opening: STOP_LOOP set, every bound output held. -/
def openingTaken (s : State) : State :=
  raiseFlag .stopLoop none none 0 { s with stopOpenings := s.stopOpenings - 1, holding := true }

section
variable (s : State)

theorem openingTaken_only : openingTaken s =
    { s with stopOpenings := s.stopOpenings - 1, holding := true, flags := (openingTaken s).flags } := by
  unfold openingTaken
  rw [raiseFlag_only]

theorem openingTaken_flag_ne {g : Flag} (h : g ≠ .stopLoop) : (openingTaken s).flag g = s.flag g :=
  raiseFlag_flag_ne _ _ _ _ _ _ h

theorem openingTaken_ownerCommand : ownerCommand (openingTaken s) = ownerCommand s := by
  rw [openingTaken_only]
  exact ownerCommand_congr (fun x => by cases x <;> rfl) rfl rfl

/-- The part at the end of the taking: outputs fallen once, and held on while the loop is open (log 23). -/
def openingShown (s : State) : State := { settleLines (openingTaken s) with holding := s.loopOpen }

theorem takeOpening_eq {s : State} (hb : s.bindingsSound) : takeOpening s = openingShown s := by
  have hlines : (settleLines (openingTaken s)).lines = s.lines.map (refreshLine (openingTaken s)) := by
    rw [settleLines_only, openingTaken_only]
  have htake : takeOpening s =
      { settleLines (openingTaken s) with holding := (settleLines (openingTaken s)).loopOpen } := rfl
  rw [htake, loopOpen_refreshed hlines hb, openingShown]

theorem openingShown_only : openingShown s =
    { s with
      stopOpenings := s.stopOpenings - 1, holding := s.loopOpen, lines := s.lines.map (refreshLine (openingTaken s))
      flags := (openingShown s).flags } := by
  unfold openingShown
  rw [settleLines_only, openingTaken_only]

theorem openingShown_lines : (openingShown s).lines = s.lines.map (refreshLine (openingTaken s)) := by
  rw [openingShown_only]

theorem openingShown_flag_ne {g : Flag} (hl : g ≠ .lines) (h : g ≠ .stopLoop) : (openingShown s).flag g = s.flag g :=
  (settleLines_flag_ne _ g hl).trans (openingTaken_flag_ne s h)

theorem openingShown_ownerCommand : ownerCommand (openingShown s) = ownerCommand s := by
  rw [openingShown_only]
  exact ownerCommand_congr (fun x => by cases x <;> rfl) rfl rfl

/-- Each line is refreshed as held, then as the loop leaves it. -/
theorem settle_openingShown_line (i : Fin 32) : (settle (openingShown s)).lines[i] =
    refreshLine (openingShown s) (refreshLine (openingTaken s) s.lines[i]) := by
  rw [settle_lines, openingShown_lines]
  simp

/-- LINES is set where a masked latch is set by the fall or by the end of the holding. -/
theorem openingShown_linesKept : linesKept s (settle (openingShown s)) := by
  have hfell : linesKept s (openingShown s) := by
    have hflag : (openingTaken s).flag .lines = s.flag .lines := openingTaken_flag_ne s (by decide)
    have hrec : (openingTaken s).lines = s.lines := by rw [openingTaken_only]
    have hkept : linesKept (openingTaken s) (openingShown s) := settleLines_linesKept (openingTaken s)
    unfold linesKept linesRaised at *
    rwa [hflag, hrec] at hkept
  refine linesKept_trans hfell (settle_linesKept rfl rfl) (fun i hi => ?_) (fun i hi => ?_)
  · rw [openingShown_lines]
    simpa using refreshLine_masked _ _ hi
  · rw [settle_lines]
    simpa using refreshLine_masked _ _ hi

end

section
variable {s : State} (hs : s.settled)
include hs

/-- While the transmitter of a settled part is idle, no flag's notice waits for it (R165). -/
theorem offered_of_settled_idle (hi : s.link.tx = .idle) (g : Flag) : offered (s.flag g) = false := by
  obtain ⟨-, -, -, -, hquiet⟩ := hs
  exact nextNotice_none (hquiet hi).2 g

/-- Beside the lines, an opening taken changes STOP_LOOP and LINES, and what an idle transmitter begins to send. -/
theorem openingShown_surround {t : State} (ht : t = settle (openingShown s)) :
    surround [.stopLoop] { s with lines := t.lines } t := by
  have hlink : (openingShown s).link = s.link := by rw [openingShown_only]
  subst ht
  refine ⟨fun i => ⟨⟨_, _, _, rfl⟩, fun _ => rfl⟩, fun g hg hl => ?_, ?_, fun h => ?_⟩
  · have hkept : (openingShown s).flag g = s.flag g := openingShown_flag_ne s hl (by simpa using hg)
    refine (settle_flag _ g hl fun hi => ?_).trans hkept
    rw [hkept]
    exact offered_of_settled_idle hs (hlink ▸ hi) g
  · rw [settle_only, hlink]
  · rw [settle_tx_busy _ (by rwa [hlink]), hlink]

/-- What a line shows after an opening: unbound lines go on, bound outputs are at 0 while the loop is open. -/
theorem openingShown_line (i : Fin 32) :
    let l := (settle (openingShown s)).lines[i]
    (s.lines[i].binding = none ∨ s.lines[i].mode.isOut = false → l = s.lines[i]) ∧
      (s.loopOpen = true → s.lines[i].mode.isOut = true → s.lines[i].binding ≠ none → l.digital = false) ∧
      ∃ d x, l = { s.lines[i] with digital := d, latch := x } := by
  have hsettled := refreshLine_settled hs.1 i
  obtain ⟨d, x, hfell⟩ := refreshLine_settled_only hsettled (openingTaken_ownerCommand s)
  obtain ⟨d', x', hshown⟩ := refreshLine_settled_only (refreshLine_idem (openingTaken s) s.lines[i])
    ((openingShown_ownerCommand s).trans (openingTaken_ownerCommand s).symm)
  intro l
  rw [show l = _ from settle_openingShown_line s i]
  refine ⟨fun h => ?_, fun ho hm hb => ?_, d', x', ?_⟩
  · rw [refreshLine_settled_unbound (t := openingTaken s) hsettled h]
    exact refreshLine_settled_unbound hsettled h
  · exact refreshLine_held _ _ ho (by rwa [refreshLine_mode]) (by rwa [refreshLine_binding])
  · rw [hshown, hfell]

end

/-- Settles O29: the opening taken by `takeOpening_eq`, its lines by the two refreshings they go through. -/
theorem stopLoopOpeningDrivesBoundOutputsToZero : Obligations.StopLoopOpeningDrivesBoundOutputsToZero := by
  intro s hs hb hn u
  have hexec : exec .stopLoopOpen s = .next (settle (openingShown s)) := by
    rw [← takeOpening_eq hb]
    exact congrArg Host.Outcome.next (if_pos hn)
  have hshown : openingShown s = { u.withLines (u.lines.map (refreshLine u)) with holding := s.loopOpen } := by
    rw [← setLines_eq]
    rfl
  exact ⟨_, hexec, openingShown_surround hs rfl, openingShown_linesKept s, hshown ▸ settle_settlesTo _,
    openingShown_line hs⟩

end Sys2Proof.Machine
end

section
/-! SUPPORT. Hold reasons lost and regained at a boom, and the stop loop's opening there (R93 to R97, R109 to R111; log 5). -/

namespace Sys2Proof.Machine

/-! ### Events of one function (log 5) -/

/-- Two events are of one function: of one class, whatever they carry. -/
theorem cls_eq_iff (e y : BoomEvent) : y.cls = e.cls ↔ match e, y with
    | .deadman _, .deadman _ | .pump _, .pump _ | .canopy _, .canopy _ | .feedPosition _, .feedPosition _
    | .rotationPressure _, .rotationPressure _ => True
    | _, _ => e = y := by
  cases e <;> cases y <;> simp [BoomEvent.cls]

/-! ### Hold reasons -/

/-- A boom whose hold reasons an event changes, the event taken. -/
def Boom.withHolds (b : Boom) (e : BoomEvent) (f : Holds → Holds) : Boom :=
  { b with events := b.events.erase e, holds := f b.holds }

/-- A recorded reason, with the suspension it brings in a held phase (R94, R96). -/
theorem addHold_takeEvent {x : Side} {s : State} (e : BoomEvent) (f : Holds → Holds)
    (h : ¬ ((s.boom x).phase = .idle ∨ (s.boom x).phase = .stopped)) :
    addHold x f (s.takeEvent x e) =
      (let added := s.setBoom x ((s.boom x).withHolds e f)
       if (s.boom x).heldPhase then suspend x added else added) := by
  rw [addHold_eq f ((recordsHolds_iff _).mpr (by rwa [takeEvent_eq, setBoom_boom])), takeEvent_eq, setBoom_boom,
    setBoom_setBoom]
  rfl

section
variable {x : Side} {s : State} {e : BoomEvent} (hs : s.settled) (hn : (s.boom x).hasNext e = true) (f : Holds → Holds)
include hs hn

/-- A boom in IDLE or STOPPED records no reason (R93). -/
theorem onEvent_addHold_out (h : (s.boom x).phase = .idle ∨ (s.boom x).phase = .stopped) :
    onEvent x e (addHold x f) s = s.takeEvent x e := by
  refine onEvent_taken hs hn (if_neg ?_)
  rw [recordsHolds_iff, takeEvent_eq, setBoom_boom]
  exact not_not.mpr h

/-- Outside the held phases a reason is recorded and nothing more (R94, R96). -/
theorem onEvent_addHold_unheld (h : ¬ ((s.boom x).phase = .idle ∨ (s.boom x).phase = .stopped))
    (hh : ¬ (s.boom x).heldPhase = true) : onEvent x e (addHold x f) s =
      s.setBoom x ((s.boom x).withHolds e f) := by
  have hadd := (addHold_takeEvent e f h).trans (if_neg hh)
  refine (onEvent_settled hn ?_).trans hadd
  rw [hadd]
  exact settled_setBoom hs x _ rfl

/-- In a held phase a reason suspends the boom (R94, R96, R97). -/
theorem onEvent_addHold_held (hh : (s.boom x).heldPhase = true) : ends (holeFlags x) s
    (suspend x (s.setBoom x ((s.boom x).withHolds e f)))
    (onEvent x e (addHold x f) s) := by
  have hrec : ¬ ((s.boom x).phase = .idle ∨ (s.boom x).phase = .stopped) := by
    rintro (h | h) <;> simp [Boom.heldPhase, h] at hh
  exact onEvent_ends hs hn ((addHold_takeEvent e f hrec).trans (if_pos hh)) fun u => calm_addHold u x f

/-- A reason removed resumes nothing (R95). -/
theorem onEvent_removeHold : onEvent x e (removeHold x f) s =
    s.setBoom x ((s.boom x).withHolds e f) := by
  have hremove : removeHold x f (s.takeEvent x e) = _ := modBoom_eq (s.takeEvent x e) x _
  rw [takeEvent_eq, setBoom_boom, setBoom_setBoom] at hremove
  refine (onEvent_settled hn ?_).trans hremove
  rw [takeEvent_eq, hremove]
  exact settled_setBoom hs x _ rfl

end

/-- Settles O47: an event's turn by its class, the losses by the boom's state, the regains by their removal. -/
theorem lossesAddHoldReasonsAndRegainsRemoveThem : Obligations.LossesAddHoldReasonsAndRegainsRemoveThem := by
  refine ⟨fun b e => ?_, fun x s hs => ?_⟩
  · intro same
    have hsame (y : BoomEvent) : y.cls ≠ e.cls ↔ ¬ same y := not_congr (cls_eq_iff e y)
    simp only [hasNext_iff, hsame]
  · intro b held
    have hheld : b.heldPhase = true ↔ held := heldPhase_iff b
    refine ⟨fun c e h hc hn => ?_, fun hn => congrArg Host.Outcome.next (onEvent_removeHold hs hn _),
      fun hn => congrArg Host.Outcome.next (onEvent_removeHold hs hn _)⟩
    obtain ⟨f, hexec, rfl⟩ : ∃ f, exec c s = .next (onEvent x e (addHold x f) s) ∧ h = f b.holds := by
      obtain ⟨rfl, rfl, rfl⟩ | ⟨rfl, rfl, rfl⟩ | ⟨rfl, rfl, rfl⟩ := hc <;> exact ⟨_, rfl, rfl⟩
    rw [hexec]
    refine ⟨fun ho => ?_, fun hi hp hh => ?_, fun hh => ⟨_, rfl, ?_⟩⟩
    · exact congrArg Host.Outcome.next (onEvent_addHold_out hs hn f ho)
    · exact congrArg Host.Outcome.next (onEvent_addHold_unheld hs hn f (not_or.mpr ⟨hi, hp⟩) (mt hheld.mp hh))
    · exact onEvent_addHold_held hs hn f (hheld.mpr hh)

/-! ### The stop loop's opening at a boom -/

section
variable {x : Side} {s : State}

theorem boomStops_out (h : (s.boom x).phase = .idle ∨ (s.boom x).phase = .stopped) : boomStops x s = s := by
  unfold boomStops
  rcases h with h | h <;> simp only [h]

/-- Between holes a boom stops with no cell to name (R110). -/
theorem boomStops_between (h : (s.boom x).phase = .seekWait ∨ (s.boom x).phase = .halted) :
    boomStops x s = raiseFlag (.halt x) (some x) none 0 (enterStopped x s) := by
  unfold boomStops
  rcases h with h | h <;> simp only [h]

/-- A claim is released (R110). -/
theorem boomStops_positioning (h : (s.boom x).phase = .positioning) : boomStops x s =
    raiseFlag (.halt x) (some x) ((s.boom x).ctx.map fun c => c.pos) 0 (enterStopped x (releaseClaim x s)) := by
  unfold boomStops
  simp only [h]

/-- A hole ends where it stands (R109). -/
theorem boomStops_hole (hi : (s.boom x).phase ≠ .idle) (ht : (s.boom x).phase ≠ .stopped)
    (hw : (s.boom x).phase ≠ .seekWait) (hh : (s.boom x).phase ≠ .halted) (hp : (s.boom x).phase ≠ .positioning) :
    boomStops x s = stopHole x .stopped s := by
  unfold boomStops
  dsimp only
  split <;> first | rfl | contradiction

end

theorem calm_boomStops (s : State) (x : Side) : Calm (holeFlags x) s (boomStops x s) := by
  by_cases hout : (s.boom x).phase = .idle ∨ (s.boom x).phase = .stopped
  · rw [boomStops_out hout]
    exact .refl _ s
  by_cases hbetween : (s.boom x).phase = .seekWait ∨ (s.boom x).phase = .halted
  · rw [boomStops_between hbetween]
    exact (calm_enterStopped s x).trans (calm_raiseHalt _ x _ _)
  by_cases hp : (s.boom x).phase = .positioning
  · rw [boomStops_positioning hp]
    exact ((calm_releaseClaim s x).trans (calm_enterStopped _ x)).trans (calm_raiseHalt _ x _ _)
  · obtain ⟨hi, ht⟩ := not_or.mp hout
    obtain ⟨hw, hh⟩ := not_or.mp hbetween
    rw [boomStops_hole hi ht hw hh hp]
    exact calm_stopHole s x _

/-- Settles O56, by the boom's state. -/
theorem stopLoopOpeningStopsABoom : Obligations.StopLoopOpeningStopsABoom := by
  intro x s hs hn u ph stopped next
  have hphase : (u.boom x).phase = ph := by rw [setBoom_boom]
  have hctx : (u.boom x).ctx = (s.boom x).ctx := by rw [setBoom_boom]
  have hnext {v : State} (hv : boomStops x u = v) : next v := ⟨_, rfl, onEvent_ends hs hn hv fun w => calm_boomStops w x⟩
  refine ⟨fun h => ?_, fun h => hnext ?_, fun c hp hc => hnext ?_, fun hi ht hw hh hp => hnext ?_⟩
  · exact congrArg Host.Outcome.next (onEvent_taken hs hn (boomStops_out (hphase ▸ h)))
  · exact boomStops_between (hphase ▸ h)
  · have hstop := boomStops_positioning (hphase.trans hp)
    rwa [hctx, hc] at hstop
  · exact boomStops_hole (hphase ▸ hi) (hphase ▸ ht) (hphase ▸ hw) (hphase ▸ hh) (hphase ▸ hp)

end Sys2Proof.Machine
end

section
/-! SUPPORT. The flow arbiter's record: what a hand-over, a grant check, a release and a request make of it (R113 to R118). -/

namespace Sys2Proof.Machine

/-! ### Hand-overs leave the arbiter's record -/

section
variable (s : State)

@[simp] theorem modBoom_arbiter (x : Side) (f : Boom → Boom) : (s.modBoom x f).arbiter = s.arbiter := setBoom_arbiter s x _

@[simp] theorem setPort_arbiter (k : Consumer) (p : FlowPort) : (s.setPort k p).arbiter = s.arbiter := by
  cases k with
  | canopy => rfl
  | boom x => exact modBoom_arbiter s x _

@[simp] theorem handFlow_arbiter (k : Consumer) (m : FlowMsg) : (handFlow k m s).arbiter = s.arbiter := setPort_arbiter s k _

@[simp] theorem popFlow_arbiter (k : Consumer) : (popFlow k s).arbiter = s.arbiter := setPort_arbiter s k _

theorem handAll_arbiter (m : FlowEntry → FlowMsg) (es : List FlowEntry) :
    (es.foldl (fun u e => handFlow e.consumer (m e) u) s).arbiter = s.arbiter := by
  induction es generalizing s with
  | nil => rfl
  | cons e es ih => rw [List.foldl_cons, ih, handFlow_arbiter]

/-- A hand-over reads and writes the consumer's port alone. -/
theorem handFlow_setArbiter (k : Consumer) (m : FlowMsg) (a : Arbiter) :
    handFlow k m { s with arbiter := a } = { handFlow k m s with arbiter := a } := by
  cases k with
  | canopy => rfl
  | boom x => cases x <;> rfl

end

/-! ### The grant check (R116) -/

section
variable {s : State}

theorem grantTotal_append (es fs : List FlowEntry) : grantTotal (es ++ fs) = grantTotal es + grantTotal fs := by
  simp [grantTotal]

theorem grantTotal_cons (e : FlowEntry) (es : List FlowEntry) : grantTotal (e :: es) = e.demand + grantTotal es := by
  simp [grantTotal]

/-- The heads granted fit into the budget beside what was granted before. -/
theorem grantHeads_within {budget total : Nat} (h : total ≤ budget) (q : List FlowEntry) :
    total + grantTotal (grantHeads budget total q).1 ≤ budget := by
  induction q generalizing total with
  | nil => exact h
  | cons e q ih =>
    unfold grantHeads
    split
    · next hfit =>
      have hrest := ih hfit
      rw [grantTotal_cons]
      omega
    · exact h

theorem grantCheck_low (h : s.arbiter.view = .low) : grantCheck s = s := by
  unfold grantCheck
  rw [h]

theorem grantCheck_ok (h : s.arbiter.view = .ok) :
    grantCheck s = (let r := grantHeads s.arbiter.budget (grantTotal s.arbiter.grants) s.arbiter.queue
      r.1.foldl (fun u e => handFlow e.consumer (.grant e.ticket) u)
        { s with arbiter := { s.arbiter with grants := s.arbiter.grants ++ r.1, queue := r.2 } }) := by
  unfold grantCheck
  rw [h]

/-- A grant check moves a front of the queue behind the grants, and keeps their sum within the budget. -/
theorem grantCheck_arbiter (s : State) : ∃ front back, s.arbiter.queue = front ++ back ∧
    (grantCheck s).arbiter = { s.arbiter with grants := s.arbiter.grants ++ front, queue := back } ∧
    (grantTotal s.arbiter.grants ≤ s.arbiter.budget → grantTotal (s.arbiter.grants ++ front) ≤ s.arbiter.budget) := by
  cases h : s.arbiter.view with
  | low => exact ⟨[], s.arbiter.queue, rfl, by rw [grantCheck_low h, List.append_nil], by rw [List.append_nil]; exact id⟩
  | ok =>
    refine ⟨_, _, (grantHeads_append s.arbiter.budget (grantTotal s.arbiter.grants) s.arbiter.queue).symm, ?_, fun hle => ?_⟩
    · rw [grantCheck_ok h]
      exact handAll_arbiter _ (fun e => .grant e.ticket) _
    · rw [grantTotal_append]
      exact grantHeads_within hle _

theorem grantCheck_budget (s : State) : (grantCheck s).arbiter.budget = s.arbiter.budget := by
  obtain ⟨_, _, _, hcheck, _⟩ := grantCheck_arbiter s
  rw [hcheck]

/-! ### Releases and refusals (R118 to R120) -/

theorem takeRelease_found {gone : FlowEntry → Bool} (h : ∃ e ∈ s.arbiter.grants ++ s.arbiter.queue, gone e = true) :
    takeRelease gone s = grantCheck { s with arbiter := s.arbiter.without gone } := by
  refine if_pos ?_
  rwa [← List.any_append, List.any_eq_true]

theorem takeRelease_absent {gone : FlowEntry → Bool} (h : ¬ ∃ e ∈ s.arbiter.grants ++ s.arbiter.queue, gone e = true) :
    takeRelease gone s = s := by
  refine if_neg ?_
  rwa [← List.any_append, List.any_eq_true]

/-- A new budget refuses the requests above it, and leaves the grants. -/
theorem refuseOver_arbiter (n : Nat) (s : State) : (refuseOver n s).arbiter = { s.arbiter with
    budget := n, queue := s.arbiter.queue.filter fun e => !decide (n < e.demand), refusing := (refuseOver n s).arbiter.refusing } := by
  unfold refuseOver
  simp only [handAll_arbiter _ fun e => .refusal e.ticket]

end

end Sys2Proof.Machine
end

section
/-! SUPPORT. What a command can do to the arbiter's entries and budget, and that each keeps the rules of R113. -/

namespace Sys2Proof.Machine

/-! ### The arbiter's book -/

/-- The budget, the grant map and the request queue: what the rules of R113 speak of. -/
def State.book (s : State) : Nat × List FlowEntry × List FlowEntry := (s.arbiter.budget, s.arbiter.grants, s.arbiter.queue)

/-- What one command can make of the book. `u` is the state in which the arbiter acts, its own lists of events aside. -/
inductive Rebooked (s t : State) : Prop where
  | same (h : t.book = s.book)
  | anew (h : t.book = State.reset.book)
  | emptied (h : t.book = (s.arbiter.budget, [], []))
  | checked (u : State) (hu : u.book = s.book) (h : t.book = (grantCheck u).book)
  | released (u : State) (hu : u.book = s.book) (gone : FlowEntry → Bool) (h : t.book = (takeRelease gone u).book)
  | requested (u : State) (hu : u.book = s.book) (k : Consumer) (d : Nat) (m : Motion) (n : Nat)
      (h : t.book = (takeRequest k d m n u).book)
  | budgeted (u : State) (hu : u.book = s.book) (n : Nat) (hle : grantTotal s.arbiter.grants ≤ n) (hn : n ≤ 200)
      (h : t.book = (grantCheck (refuseOver n u)).book)

section
variable {s u t : State}

theorem book_congr (h : t.arbiter = s.arbiter) : t.book = s.book := by rw [State.book, h, State.book]

theorem book_eq_iff : t.book = s.book ↔
    t.arbiter.budget = s.arbiter.budget ∧ t.arbiter.grants = s.arbiter.grants ∧ t.arbiter.queue = s.arbiter.queue := by
  simp [State.book]

theorem Rebooked.before (h : Rebooked u t) (hu : u.book = s.book) : Rebooked s t := by
  obtain ⟨hb, hg, _⟩ := book_eq_iff.mp hu
  cases h with
  | same h => exact .same (h.trans hu)
  | anew h => exact .anew h
  | emptied h => exact .emptied (by rw [h, hb])
  | checked v hv h => exact .checked v (hv.trans hu) h
  | released v hv gone h => exact .released v (hv.trans hu) gone h
  | requested v hv k d m n h => exact .requested v (hv.trans hu) k d m n h
  | budgeted v hv n hle hn h => exact .budgeted v (hv.trans hu) n (hg ▸ hle) hn h

theorem Rebooked.after (h : Rebooked s u) (ht : t.book = u.book) : Rebooked s t := by
  cases h with
  | same h => exact .same (ht.trans h)
  | anew h => exact .anew (ht.trans h)
  | emptied h => exact .emptied (ht.trans h)
  | checked v hv h => exact .checked v hv (ht.trans h)
  | released v hv gone h => exact .released v hv gone (ht.trans h)
  | requested v hv k d m n h => exact .requested v hv k d m n (ht.trans h)
  | budgeted v hv n hle hn h => exact .budgeted v hv n hle hn (ht.trans h)

/-! ### The sum of the grants stays within the budget -/

theorem budgetKept_congr (h : t.book = s.book) : t.budgetKept ↔ s.budgetKept := by
  obtain ⟨hb, hg, _⟩ := book_eq_iff.mp h
  rw [State.budgetKept, hb, hg]

theorem State.budgetKept.grantCheck (h : s.budgetKept) : (Machine.grantCheck s).budgetKept := by
  obtain ⟨front, back, _, hcheck, hle⟩ := grantCheck_arbiter s
  rw [State.budgetKept, hcheck]
  exact ⟨hle h.1, h.2⟩

theorem grantTotal_filter_le (p : FlowEntry → Bool) (es : List FlowEntry) : grantTotal (es.filter p) ≤ grantTotal es :=
  (List.filter_sublist.map _).sum_le_sum fun _ _ => Nat.zero_le _

theorem State.budgetKept.takeRelease (h : s.budgetKept) (gone : FlowEntry → Bool) : (Machine.takeRelease gone s).budgetKept := by
  by_cases hfound : ∃ e ∈ s.arbiter.grants ++ s.arbiter.queue, gone e = true
  · rw [takeRelease_found hfound]
    exact State.budgetKept.grantCheck ⟨(grantTotal_filter_le _ _).trans h.1, h.2⟩
  · rwa [takeRelease_absent hfound]

theorem State.budgetKept.takeRequest (h : s.budgetKept) (k : Consumer) (d : Nat) (m : Motion) (n : Nat) :
    (Machine.takeRequest k d m n s).budgetKept := by
  have hold := h.takeRelease fun e => e.consumer == k
  unfold Machine.takeRequest
  dsimp only
  split
  · rwa [budgetKept_congr (book_congr (handFlow_arbiter ..))]
  · exact State.budgetKept.grantCheck hold

theorem State.budgetKept.refuseOver {n : Nat} (hle : grantTotal s.arbiter.grants ≤ n) (hn : n ≤ 200) :
    (Machine.refuseOver n s).budgetKept := by
  rw [State.budgetKept, refuseOver_arbiter]
  exact ⟨hle, hn⟩

theorem Rebooked.budgetKept (h : Rebooked s t) (hs : s.budgetKept) : t.budgetKept := by
  cases h with
  | same h => exact (budgetKept_congr h).mpr hs
  | anew h => exact (budgetKept_congr h).mpr (by decide)
  | emptied h =>
    obtain ⟨hb, hg, _⟩ : t.arbiter.budget = s.arbiter.budget ∧ t.arbiter.grants = [] ∧ t.arbiter.queue = [] := by
      simpa [State.book] using h
    rw [State.budgetKept, hb, hg]
    exact ⟨Nat.zero_le _, hs.2⟩
  | checked u hu h => exact (budgetKept_congr h).mpr ((budgetKept_congr hu).mpr hs).grantCheck
  | released u hu gone h => exact (budgetKept_congr h).mpr (((budgetKept_congr hu).mpr hs).takeRelease gone)
  | requested u hu k d m n h => exact (budgetKept_congr h).mpr (((budgetKept_congr hu).mpr hs).takeRequest k d m n)
  | budgeted u hu n hle hn h =>
    obtain ⟨_, hg, _⟩ := book_eq_iff.mp hu
    exact (budgetKept_congr h).mpr (State.budgetKept.refuseOver (hg ▸ hle) hn).grantCheck

/-! ### Each consumer has one entry -/

theorem consumersOnce_congr (h : t.book = s.book) : t.consumersOnce ↔ s.consumersOnce := by
  obtain ⟨_, hg, hq⟩ := book_eq_iff.mp h
  rw [State.consumersOnce, hg, hq, State.consumersOnce]

/-- A grant check takes no entry out and adds none. -/
theorem grantCheck_entries (s : State) : (grantCheck s).arbiter.grants ++ (grantCheck s).arbiter.queue =
    s.arbiter.grants ++ s.arbiter.queue := by
  obtain ⟨front, back, hqueue, hcheck, _⟩ := grantCheck_arbiter s
  rw [hcheck, hqueue, List.append_assoc]

theorem State.consumersOnce.grantCheck (h : s.consumersOnce) : (Machine.grantCheck s).consumersOnce := by
  rwa [State.consumersOnce, grantCheck_entries]

/-- What is left of entries, each of another consumer, still is. -/
theorem State.consumersOnce.sublist (h : s.consumersOnce)
    (hsub : (t.arbiter.grants ++ t.arbiter.queue).Sublist (s.arbiter.grants ++ s.arbiter.queue)) : t.consumersOnce :=
  List.Nodup.sublist (hsub.map _) h

theorem State.consumersOnce.takeRelease (h : s.consumersOnce) (gone : FlowEntry → Bool) :
    (Machine.takeRelease gone s).consumersOnce := by
  by_cases hfound : ∃ e ∈ s.arbiter.grants ++ s.arbiter.queue, gone e = true
  · rw [takeRelease_found hfound]
    exact State.consumersOnce.grantCheck (h.sublist (List.filter_sublist.append List.filter_sublist))
  · rwa [takeRelease_absent hfound]

/-- No entry that is to go is left after a release. -/
theorem takeRelease_gone {gone : FlowEntry → Bool} {e : FlowEntry}
    (he : e ∈ (takeRelease gone s).arbiter.grants ++ (takeRelease gone s).arbiter.queue) : gone e = false := by
  by_cases hfound : ∃ e ∈ s.arbiter.grants ++ s.arbiter.queue, gone e = true
  · rw [takeRelease_found hfound, grantCheck_entries, Arbiter.without, ← List.filter_append] at he
    simpa using (List.mem_filter.mp he).2
  · rw [takeRelease_absent hfound] at he
    exact Bool.eq_false_iff.mpr fun hgone => hfound ⟨e, he, hgone⟩

theorem append_joinQueue_perm (e : FlowEntry) (es q : List FlowEntry) : (es ++ joinQueue e q).Perm (e :: (es ++ q)) :=
  ((joinQueue_perm e q).append_left es).trans List.perm_middle

/-- The entry that joins is the only one of its consumer, whose old one has gone (R114). -/
theorem State.consumersOnce.takeRequest (h : s.consumersOnce) (k : Consumer) (d : Nat) (m : Motion) (n : Nat) :
    (Machine.takeRequest k d m n s).consumersOnce := by
  have hold := h.takeRelease fun e => e.consumer == k
  have habsent : ∀ e, e ∈ (Machine.takeRelease (fun e => e.consumer == k) s).arbiter.grants ++
      (Machine.takeRelease (fun e => e.consumer == k) s).arbiter.queue → e.consumer ≠ k :=
    fun e he => by simpa using takeRelease_gone he
  unfold Machine.takeRequest
  dsimp only
  split
  · rwa [consumersOnce_congr (book_congr (handFlow_arbiter ..))]
  · refine State.consumersOnce.grantCheck ?_
    refine ((append_joinQueue_perm ..).map (·.consumer)).nodup_iff.mpr ?_
    refine List.nodup_cons.mpr ⟨fun hmem => ?_, hold⟩
    obtain ⟨e, he, hk⟩ := List.mem_map.mp hmem
    exact habsent e he hk

theorem State.consumersOnce.refuseOver (h : s.consumersOnce) (n : Nat) : (Machine.refuseOver n s).consumersOnce := by
  refine h.sublist ?_
  rw [refuseOver_arbiter]
  exact (List.Sublist.refl _).append List.filter_sublist

theorem Rebooked.consumersOnce (h : Rebooked s t) (hs : s.consumersOnce) : t.consumersOnce := by
  cases h with
  | same h => exact (consumersOnce_congr h).mpr hs
  | anew h => exact (consumersOnce_congr h).mpr List.nodup_nil
  | emptied h =>
    obtain ⟨_, hg, hq⟩ : t.arbiter.budget = s.arbiter.budget ∧ t.arbiter.grants = [] ∧ t.arbiter.queue = [] := by
      simpa [State.book] using h
    rw [State.consumersOnce, hg, hq]
    exact List.nodup_nil
  | checked u hu h => exact (consumersOnce_congr h).mpr ((consumersOnce_congr hu).mpr hs).grantCheck
  | released u hu gone h => exact (consumersOnce_congr h).mpr (((consumersOnce_congr hu).mpr hs).takeRelease gone)
  | requested u hu k d m n h => exact (consumersOnce_congr h).mpr (((consumersOnce_congr hu).mpr hs).takeRequest k d m n)
  | budgeted u hu n _ _ h => exact (consumersOnce_congr h).mpr (((consumersOnce_congr hu).mpr hs).refuseOver n).grantCheck

end

end Sys2Proof.Machine
end

section
/-! SUPPORT. The pattern table, the booms and the canopy leave the arbiter's record as it stands: they speak to the arbiter
through their ports alone (R115, R118). -/

namespace Sys2Proof.Machine

variable (s : State) (x : Side)

/-! ### Shared updates -/

@[simp] theorem raiseFlag_arbiter (f : Flag) (b : Option Side) (p : Option Pos) (r : Nat) :
    (raiseFlag f b p r s).arbiter = s.arbiter := by rw [raiseFlag_only]

@[simp] theorem setLines_arbiter (ls : Vector LineRec 32) : (setLines ls s).arbiter = s.arbiter := by rw [setLines_only]

@[simp] theorem setLine_arbiter (i : Fin 32) (l : LineRec) : (setLine i l s).arbiter = s.arbiter := setLines_arbiter s _

@[simp] theorem settleLines_arbiter : (settleLines s).arbiter = s.arbiter := setLines_arbiter s _

@[simp] theorem uplinkChoose_arbiter (r : Bool) : (uplinkChoose r s).arbiter = s.arbiter := by rw [uplinkChoose_only]

@[simp] theorem modCtx_arbiter (f : HoleCtx → HoleCtx) : (s.modCtx x f).arbiter = s.arbiter := modBoom_arbiter s x _

@[simp] theorem handBoom_arbiter (e : BoomEvent) : (s.handBoom x e).arbiter = s.arbiter := modBoom_arbiter s x _

@[simp] theorem handBooms_arbiter (e : BoomEvent) : (s.handBooms e).arbiter = s.arbiter := by simp [State.handBooms]

@[simp] theorem takeEvent_arbiter (e : BoomEvent) : (s.takeEvent x e).arbiter = s.arbiter := modBoom_arbiter s x _

@[simp] theorem dropEvents_arbiter (k : Nat) : (s.dropEvents x k).arbiter = s.arbiter := modBoom_arbiter s x _

@[simp] theorem askFlow_arbiter (m : Motion) (d : Nat) : (askFlow x m d s).arbiter = s.arbiter := by
  unfold askFlow
  split <;> simp

@[simp] theorem dropFlow_arbiter : (dropFlow x s).arbiter = s.arbiter := modBoom_arbiter s x _

/-! ### Pattern table -/

@[simp] theorem completionCheck_arbiter : (completionCheck s).arbiter = s.arbiter := by rw [completionCheck_only]

@[simp] theorem noteReseek_arbiter : (noteReseek x s).arbiter = s.arbiter := modBoom_arbiter s x _

@[simp] theorem enterIdle_arbiter : (enterIdle x s).arbiter = s.arbiter := modBoom_arbiter s x _

@[simp] theorem seek_arbiter : (seek x s).arbiter = s.arbiter := by
  rcases seek_cases x s with ⟨q, _, hk⟩ | hk | hk <;> rw [hk]
  · simp [claimCell]
  · simp
  · simp

@[simp] theorem reseek_arbiter : (reseek x s).arbiter = s.arbiter := by
  unfold reseek
  split <;> simp

@[simp] theorem reseekBoth_arbiter : (reseekBoth s).arbiter = s.arbiter := by simp [reseekBoth]

@[simp] theorem seekAmong_arbiter : (seekAmong x s).arbiter = s.arbiter := by
  rcases seekAmong_cases x s with ⟨n, hk | ⟨_, hk⟩⟩ <;> rw [hk] <;> simp

@[simp] theorem endContext_arbiter : (endContext x s).arbiter = s.arbiter := by simp [endContext]

@[simp] theorem releaseClaim_arbiter : (releaseClaim x s).arbiter = s.arbiter := by
  unfold releaseClaim
  split <;> simp

@[simp] theorem takeOutcome_arbiter (d : HoleData) (o : HoleOutcome) : (takeOutcome d o s).arbiter = s.arbiter := by
  simp [takeOutcome]

/-! ### Hole ends and retractions -/

@[simp] theorem placeRecord_arbiter (d : HoleData) : (placeRecord x d s).arbiter = s.arbiter := by
  unfold placeRecord
  split <;> simp

@[simp] theorem handHole_arbiter (c : HoleCtx) (o : HoleOutcome) : (handHole x c o s).arbiter = s.arbiter := by simp [handHole]

@[simp] theorem enterStopped_arbiter : (enterStopped x s).arbiter = s.arbiter := modBoom_arbiter s x _

@[simp] theorem stopHole_arbiter (o : HoleOutcome) : (stopHole x o s).arbiter = s.arbiter := by
  unfold stopHole
  split <;> simp

@[simp] theorem secondFailure_arbiter (f : FaultCode) : (secondFailure x f s).arbiter = s.arbiter := by simp [secondFailure]

@[simp] theorem releaseDone_arbiter : (releaseDone x s).arbiter = s.arbiter := by
  unfold releaseDone
  split
  · rfl
  · dsimp only
    split <;> simp

@[simp] theorem enterHalted_arbiter (p : Option Pos) (r : Nat) : (enterHalted x p r s).arbiter = s.arbiter := by
  unfold enterHalted
  dsimp only
  split <;> simp

@[simp] theorem abortDone_arbiter : (abortDone x s).arbiter = s.arbiter := by
  unfold abortDone
  split <;> simp

@[simp] theorem waitFor_arbiter (r : WaitReason) : (waitFor x r s).arbiter = s.arbiter := by simp [waitFor]

@[simp] theorem retractDone_arbiter : (retractDone x s).arbiter = s.arbiter := by
  unfold retractDone
  split <;> simp

@[simp] theorem retractBegins_arbiter : (retractBegins x s).arbiter = s.arbiter := by
  unfold retractBegins
  split <;> simp

@[simp] theorem askRetract_arbiter : (askRetract x s).arbiter = s.arbiter := by
  unfold askRetract
  dsimp only
  split <;> simp

@[simp] theorem enterReleasing_arbiter : (enterReleasing x s).arbiter = s.arbiter := by simp [enterReleasing]

@[simp] theorem enterAborting_arbiter (o : HoleOutcome) (f : Option FaultCode) : (enterAborting x o f s).arbiter = s.arbiter := by
  unfold enterAborting
  dsimp only
  split <;> simp

/-! ### Lateness, suspension, entries -/

@[simp] theorem takeLate_arbiter : (takeLate x s).arbiter = s.arbiter := by simp [takeLate]

@[simp] theorem lateCheck_arbiter : (lateCheck x s).arbiter = s.arbiter := by
  unfold lateCheck
  split <;> simp

@[simp] theorem suspend_arbiter : (suspend x s).arbiter = s.arbiter := by simp [suspend]

theorem heldEntry_arbiter (ph : Phase) {go : State → State} (hgo : ∀ u, (go u).arbiter = u.arbiter) :
    (heldEntry x ph go s).arbiter = s.arbiter := by
  unfold heldEntry
  dsimp only
  split
  · simp
  · simp [hgo]

@[simp] theorem addHold_arbiter (f : Holds → Holds) : (addHold x f s).arbiter = s.arbiter := by
  unfold addHold
  split
  · dsimp only
    split <;> simp
  · rfl

@[simp] theorem removeHold_arbiter (f : Holds → Holds) : (removeHold x f s).arbiter = s.arbiter := modBoom_arbiter s x _

/-! ### Drilling -/

@[simp] theorem takeBaseFeed_arbiter : (takeBaseFeed x s).arbiter = s.arbiter := modBoom_arbiter s x _

@[simp] theorem enterDrilling_arbiter : (enterDrilling x s).arbiter = s.arbiter := by
  refine (heldEntry_arbiter _ x _ fun u => ?_).trans (modBoom_arbiter s x _)
  dsimp only
  split <;> simp

@[simp] theorem enterSteelChange_arbiter : (enterSteelChange x s).arbiter = s.arbiter :=
  (heldEntry_arbiter _ x _ fun u => askRetract_arbiter u x).trans (by simp)

@[simp] theorem enterRetracting_arbiter : (enterRetracting x s).arbiter = s.arbiter :=
  (heldEntry_arbiter _ x _ fun u => askRetract_arbiter u x).trans (by simp)

@[simp] theorem enterDecisionWait_arbiter : (enterDecisionWait x s).arbiter = s.arbiter := by simp [enterDecisionWait]

@[simp] theorem moveOn_arbiter (r : HoleCtx × NextMove) : (moveOn x r s).arbiter = s.arbiter := by
  unfold moveOn
  dsimp only
  split <;> simp

@[simp] theorem assessBoom_arbiter : (assessBoom x s).arbiter = s.arbiter := by
  unfold assessBoom
  split <;> simp

@[simp] theorem afterRise_arbiter : (afterRise x s).arbiter = s.arbiter := by
  unfold afterRise
  split
  · rfl
  · split
    · split <;> simp
    · split
      · simp
      · split <;> simp
    · rfl

@[simp] theorem raiseDepth_arbiter (d : Nat) : (raiseDepth x d s).arbiter = s.arbiter := modBoom_arbiter s x _

/-- A rise of the depth, a reach short of it, or neither. -/
theorem judgeReach_arbiter (c : HoleCtx) (r : Int) : (if c.depth < r then afterRise x (raiseDepth x r.toNat s)
    else if r < c.depth then s.modBoom x fun b => { b with stallTime := 0 } else s).arbiter = s.arbiter := by
  split
  · simp
  · split <;> simp

@[simp] theorem judgeFeed_arbiter (mm : Nat) : (judgeFeed x mm s).arbiter = s.arbiter := by
  unfold judgeFeed
  dsimp only
  split
  · exact judgeReach_arbiter s x _ _
  · exact judgeReach_arbiter s x _ _
  · rfl

@[simp] theorem feedBegins_arbiter : (feedBegins x s).arbiter = s.arbiter := by simp [feedBegins]

@[simp] theorem goOn_arbiter (r : HoleCtx × NextMove) : (goOn x r s).arbiter = s.arbiter := by
  unfold goOn
  dsimp only
  split <;> simp

@[simp] theorem startHole_arbiter : (startHole x s).arbiter = s.arbiter := by
  unfold startHole
  split
  · rfl
  · dsimp only
    split <;> simp

@[simp] theorem takeStall_arbiter : (takeStall x s).arbiter = s.arbiter := by
  unfold takeStall
  dsimp only
  split
  · simp
  · split <;> simp

@[simp] theorem endBackOff_arbiter : (endBackOff x s).arbiter = s.arbiter := modBoom_arbiter s x _

@[simp] theorem addSteel_arbiter : (addSteel x s).arbiter = s.arbiter := by
  unfold addSteel
  split
  · rfl
  · dsimp only
    split <;> simp

/-! ### Insertion, spin and torque -/

@[simp] theorem enterBoltWait_arbiter : (enterBoltWait x s).arbiter = s.arbiter := by simp [enterBoltWait]

@[simp] theorem selectCartridge_arbiter : (selectCartridge x s).arbiter = s.arbiter := by
  unfold selectCartridge
  split
  · rfl
  · split
    · simp
    · split
      · simp
      · split <;> simp

@[simp] theorem enterInserting_arbiter : (enterInserting x s).arbiter = s.arbiter :=
  (heldEntry_arbiter _ x _ fun u => selectCartridge_arbiter u x).trans (modBoom_arbiter s x _)

@[simp] theorem completePush_arbiter : (completePush x s).arbiter = s.arbiter := by
  unfold completePush
  split
  · split <;> simp
  · rfl

@[simp] theorem takeJam_arbiter : (takeJam x s).arbiter = s.arbiter := by
  unfold takeJam
  dsimp only
  split
  · simp
  · split <;> simp

@[simp] theorem resumeInserting_arbiter : (resumeInserting x s).arbiter = s.arbiter := by
  unfold resumeInserting
  split
  · rfl
  · split
    · simp
    · split <;> simp

@[simp] theorem startSpin_arbiter : (startSpin x s).arbiter = s.arbiter := modCtx_arbiter s x _

@[simp] theorem askSpin_arbiter : (askSpin x s).arbiter = s.arbiter := by
  unfold askSpin
  dsimp only
  split <;> simp

@[simp] theorem enterSpinning_arbiter : (enterSpinning x s).arbiter = s.arbiter :=
  (heldEntry_arbiter _ x _ fun u => askSpin_arbiter u x).trans (modBoom_arbiter s x _)

@[simp] theorem endSpin_arbiter : (endSpin x s).arbiter = s.arbiter := by simp [endSpin]

@[simp] theorem computeTorque_arbiter (bar : Nat) : (computeTorque x bar s).arbiter = s.arbiter := by
  unfold computeTorque
  split
  · dsimp only
    split
    · simp
    · split <;> simp
  · rfl

@[simp] theorem torqueBegins_arbiter : (torqueBegins x s).arbiter = s.arbiter := by simp [torqueBegins]

@[simp] theorem askTorque_arbiter : (askTorque x s).arbiter = s.arbiter := by
  unfold askTorque
  split
  · simp
  · dsimp only
    split <;> simp

@[simp] theorem enterTorquing_arbiter : (enterTorquing x s).arbiter = s.arbiter := by
  unfold enterTorquing
  dsimp only
  split
  · simp
  · exact (heldEntry_arbiter _ x _ fun u => askTorque_arbiter u x).trans (modBoom_arbiter s x _)

@[simp] theorem takePulse_arbiter : (takePulse x s).arbiter = s.arbiter := by
  unfold takePulse
  split
  · dsimp only
    split
    · simp
    · split <;> simp
  · rfl

/-! ### Hand-overs taken, and events at a boom -/

@[simp] theorem motionBegins_arbiter : (motionBegins x s).arbiter = s.arbiter := by
  unfold motionBegins
  split <;> simp

@[simp] theorem takeGrant_arbiter (t : Nat) : (takeGrant x t s).arbiter = s.arbiter := by
  unfold takeGrant
  split
  · split <;> simp
  · rfl

@[simp] theorem takeTakeBack_arbiter (t : Nat) : (takeTakeBack x t s).arbiter = s.arbiter := by
  unfold takeTakeBack
  split <;> simp

@[simp] theorem takeRefusal_arbiter (t : Nat) : (takeRefusal x t s).arbiter = s.arbiter := by
  unfold takeRefusal
  split
  · dsimp only
    split <;> simp
  · rfl

@[simp] theorem confirmAtHole_arbiter : (confirmAtHole x s).arbiter = s.arbiter := by
  unfold confirmAtHole
  split <;> simp

@[simp] theorem resumeBoom_arbiter : (resumeBoom x s).arbiter = s.arbiter := by
  unfold resumeBoom
  split
  · rfl
  · dsimp only
    split
    · split <;> simp
    · split <;> simp
    all_goals simp

@[simp] theorem pressDeadman_arbiter : (pressDeadman x s).arbiter = s.arbiter := by
  unfold pressDeadman
  dsimp only
  split
  · split <;> simp
  · split <;> simp
  · simp

@[simp] theorem boomStops_arbiter : (boomStops x s).arbiter = s.arbiter := by
  unfold boomStops
  dsimp only
  split <;> simp

@[simp] theorem takePressureChange_arbiter (bar : Nat) : (takePressureChange x bar s).arbiter = s.arbiter := by
  unfold takePressureChange
  dsimp only
  split <;> simp

@[simp] theorem takeFeedHome_arbiter : (takeFeedHome x s).arbiter = s.arbiter := by
  unfold takeFeedHome
  split <;> simp

@[simp] theorem takeBoltPresent_arbiter : (takeBoltPresent x s).arbiter = s.arbiter := by
  unfold takeBoltPresent
  split <;> simp

/-! ### The canopy -/

@[simp] theorem dropCanopyFlow_arbiter : (dropCanopyFlow s).arbiter = s.arbiter := rfl

@[simp] theorem canopyTo_arbiter (st : CanopyState) : (canopyTo st s).arbiter = s.arbiter := by
  unfold canopyTo
  dsimp only
  split
  · simp
  · split <;> simp

@[simp] theorem canopyEntersSet_arbiter : (canopyEntersSet s).arbiter = s.arbiter := by simp [canopyEntersSet]

@[simp] theorem raiseFails_arbiter (f : CanopyFailure) : (raiseFails f s).arbiter = s.arbiter := by simp [raiseFails]

@[simp] theorem takePressure_arbiter (high : Bool) : (takePressure high s).arbiter = s.arbiter := by
  unfold takePressure
  split <;> simp

@[simp] theorem adopt_arbiter : (adopt s).arbiter = s.arbiter := by
  unfold adopt
  split <;> simp

@[simp] theorem pressureUnbound_arbiter : (pressureUnbound s).arbiter = s.arbiter := by
  unfold pressureUnbound
  split <;> simp

@[simp] theorem canopyIsLost_arbiter : (canopyIsLost s).arbiter = s.arbiter := by simp [canopyIsLost]

@[simp] theorem canopyStops_arbiter : (canopyStops s).arbiter = s.arbiter := by
  unfold canopyStops
  split <;> simp

@[simp] theorem canopyGrant_arbiter (t : Nat) : (canopyGrant t s).arbiter = s.arbiter := by
  unfold canopyGrant
  split <;> simp

@[simp] theorem canopyTakenBack_arbiter (t : Nat) : (canopyTakenBack t s).arbiter = s.arbiter := by
  unfold canopyTakenBack
  split <;> simp

@[simp] theorem canopyRefused_arbiter (t : Nat) : (canopyRefused t s).arbiter = s.arbiter := by
  unfold canopyRefused
  split <;> simp

@[simp] theorem takeCanopyEvent_arbiter (e : CanopyEvent) : (takeCanopyEvent e s).arbiter = s.arbiter := rfl

end Sys2Proof.Machine
end

section
/-! SUPPORT. The field lines and the requests: which of them leave the arbiter's book, and what the others make of it. -/

namespace Sys2Proof.Machine

/-! ### Lines -/

section
variable (s : State)

@[simp] theorem handCanopy_arbiter (e : CanopyEvent) : (s.handCanopy e).arbiter = s.arbiter := rfl

@[simp] theorem openStopLoop_arbiter : (openStopLoop s).arbiter = s.arbiter := by simp [openStopLoop]

@[simp] theorem takeOpening_arbiter : (takeOpening s).arbiter = s.arbiter := by simp [takeOpening]

@[simp] theorem handValue_arbiter (b : Binding) (n : Nat) : (handValue b n s).arbiter = s.arbiter := by
  unfold handValue
  split <;> simp

@[simp] theorem presentCount_arbiter (i : Fin 32) (n : Nat) : (presentCount i n s).arbiter = s.arbiter := by
  unfold presentCount
  dsimp only
  split
  · split <;> simp
  · simp

/-- An edge of the pump OK line waits in the arbiter's list of events; another edge does not come to the arbiter. -/
theorem handEdge_book (fn : Fn) (high : Bool) : (handEdge fn high s).book = s.book := by
  have honRise (x : Side) (e : BoomEvent) : (if high = true then s.handBoom x e else s).book = s.book := by
    split
    · exact book_congr (handBoom_arbiter s x e)
    · rfl
  unfold handEdge
  split
  · exact book_congr (handBoom_arbiter ..)
  · exact honRise _ _
  · exact honRise _ _
  · exact honRise _ _
  · exact honRise _ _
  · exact honRise _ _
  · rfl
  · exact (book_congr (handBooms_arbiter ..)).trans rfl
  · split
    · rfl
    · exact book_congr (openStopLoop_arbiter s)
  · rfl

theorem takeTerminal_book (i : Fin 32) (l : LineRec) : (takeTerminal i l s).book = s.book := by
  have hline (k : LineRec) : (setLine i k s).book = s.book := book_congr (setLine_arbiter s i k)
  unfold takeTerminal
  dsimp only
  split
  · exact hline _
  · split
    · exact (handEdge_book _ _ _).trans (hline _)
    · exact hline _

theorem presentLevel_book (i : Fin 32) (level isOpen : Bool) : (presentLevel i level isOpen s).book = s.book := by
  unfold presentLevel
  dsimp only
  split
  · exact takeTerminal_book s _ _
  · exact book_congr (setLine_arbiter ..)

theorem dropOnWay_book (fn : Fn) : (dropOnWay fn s).book = s.book := by
  unfold dropOnWay
  split
  · split
    · exact book_congr (dropEvents_arbiter ..)
    · rfl
  · rfl
  · exact (book_congr ((dropEvents_arbiter ..).trans (dropEvents_arbiter ..))).trans rfl
  · rfl

theorem popRefusal_book (k : Consumer) (t : Nat) : (popRefusal k t s).book = s.book :=
  (show _ = (popFlow k s).book from rfl).trans (book_congr (popFlow_arbiter s k))

end

/-! ### Requests that leave the arbiter's record -/

section
variable (s : State)

theorem clearFlags_arbiter (flags : List Flag) (p : Flag → Bool) :
    (flags.foldl (fun u f => if p f then clearFlag f u else u) s).arbiter = s.arbiter := by
  induction flags generalizing s with
  | nil => rfl
  | cons f flags ih =>
    rw [List.foldl_cons, ih]
    split <;> rfl

theorem reqClear_arbiter (hi lo : Byte) : (reqClear hi lo s).1.arbiter = s.arbiter := by
  unfold reqClear
  dsimp only
  split
  · rfl
  · dsimp only [accept]
    split <;> simp [clearFlags_arbiter s allFlags fun f => (fromTwo hi lo).testBit f.code]

theorem reqNoticeSet_arbiter (f e l : Byte) : (reqNoticeSet f e l s).1.arbiter = s.arbiter := by
  unfold reqNoticeSet
  split
  · split
    · rfl
    · split <;> rfl
  · rfl

theorem reqLineRead_arbiter : (reqLineRead s).1.arbiter = s.arbiter := setLines_arbiter s _

theorem reqLineWrite_arbiter (l v : Byte) : (reqLineWrite l v s).1.arbiter = s.arbiter := by
  unfold reqLineWrite
  split
  · rfl
  · dsimp only
    repeat' split
    all_goals rfl

theorem reqClassWrite_arbiter (i : Byte) (r : List Byte) : (reqClassWrite i r s).1.arbiter = s.arbiter := by
  unfold reqClassWrite
  split
  · split <;> rfl
  · rfl

theorem reqClassRead_arbiter (i : Byte) : (reqClassRead i s).1.arbiter = s.arbiter := by
  unfold reqClassRead
  split <;> rfl

theorem reqStrataWrite_arbiter (f : Byte) (r : List Byte) : (reqStrataWrite f r s).1.arbiter = s.arbiter := by
  unfold reqStrataWrite
  split
  · split <;> rfl
  · split <;> rfl
  · rfl

theorem reqStrataRead_arbiter (b : Byte) : (reqStrataRead b s).1.arbiter = s.arbiter := by
  unfold reqStrataRead
  split <;> rfl

theorem reqTempWrite_arbiter (b : List Byte) : (reqTempWrite b s).1.arbiter = s.arbiter := by
  unfold reqTempWrite
  dsimp only
  split
  · split <;> rfl
  · rfl

theorem reqPatternDefine_arbiter (xs xe ys ye oA mxA myA oB mxB myB clr : Byte) :
    (reqPatternDefine xs xe ys ye oA mxA myA oB mxB myB clr s).1.arbiter = s.arbiter := by
  unfold reqPatternDefine
  split
  · split
    · rfl
    · split <;> rfl
  · rfl

theorem reqCellMark_arbiter (x1 x2 y1 y2 cls : Byte) : (reqCellMark x1 x2 y1 y2 cls s).1.arbiter = s.arbiter := by
  unfold reqCellMark
  split
  · rfl
  · split
    · dsimp only
      iterate 5
        split
        · rfl
      have hmarked (k : Nat) (cells : List Pos) : (markCells k cells s).arbiter = s.arbiter := by rw [markCells_only]
      refine (completionCheck_arbiter _).trans ((reseekBoth_arbiter _).trans ?_)
      split
      · exact hmarked _ _
      · exact hmarked _ _
    · rfl

theorem reqCellRead_arbiter (a b : Byte) : (reqCellRead a b s).1.arbiter = s.arbiter := by
  unfold reqCellRead
  split <;> rfl

theorem reqSkip_arbiter (boom a b : Byte) : (reqSkip boom a b s).1.arbiter = s.arbiter := by
  unfold reqSkip
  split
  · split
    · rfl
    · split
      · rfl
      · split
        · simp [accept]
        · split
          · simp [accept, skipOwnClaim]
          · rfl
        · rfl
  · rfl

theorem reqBoomStart_arbiter (boom : Byte) : (reqBoomStart boom s).1.arbiter = s.arbiter := by
  unfold reqBoomStart
  split
  · rfl
  · iterate 4
      split
      · rfl
    simp [accept]

theorem reqBoomStop_arbiter (boom : Byte) : (reqBoomStop boom s).1.arbiter = s.arbiter := by
  unfold reqBoomStop
  split
  · rfl
  · split <;> simp [accept]

theorem reqBoomRead_arbiter (boom : Byte) : (reqBoomRead boom s).1.arbiter = s.arbiter := by
  unfold reqBoomRead
  split <;> rfl

theorem reqAtHole_arbiter (boom : Byte) : (reqAtHole boom s).1.arbiter = s.arbiter := by
  unfold reqAtHole
  split
  · rfl
  · split <;> simp [accept, refuse]

theorem proceedFrom_arbiter {x : Side} {s t : State} (h : proceedFrom x s = some t) : t.arbiter = s.arbiter := by
  unfold proceedFrom at h
  dsimp only at h
  split at h
  · split at h <;> cases h
    exact addSteel_arbiter s x
  · cases h
    exact enterInserting_arbiter s x
  · split at h <;> cases h
    exact (selectCartridge_arbiter _ x).trans (modBoom_arbiter s x _)
  · cases h
    exact enterSpinning_arbiter s x
  · cases h
    exact seek_arbiter s x
  · cases h

theorem reqProceed_arbiter (boom : Byte) : (reqProceed boom s).1.arbiter = s.arbiter := by
  unfold reqProceed
  split
  · rfl
  · split
    · next h => exact proceedFrom_arbiter h
    · rfl

theorem reqDecide_arbiter (boom choice hi lo cls : Byte) : (reqDecide boom choice hi lo cls s).1.arbiter = s.arbiter := by
  unfold reqDecide
  split
  · dsimp only
    split
    · rfl
    · split
      · split
        · simp [accept]
        · simp [accept]
        · split <;> simp [accept, refuse]
        · split
          · rfl
          · split <;> simp [accept, refuse]
      · rfl
  · rfl

theorem reqHold_arbiter (boom : Byte) : (reqHold boom s).1.arbiter = s.arbiter := by
  unfold reqHold
  split
  · rfl
  · split <;> simp [accept, refuse]

theorem reqResume_arbiter (boom : Byte) : (reqResume boom s).1.arbiter = s.arbiter := by
  unfold reqResume
  split
  · rfl
  · split <;> simp [accept, refuse]

theorem reqAbort_arbiter (boom : Byte) : (reqAbort boom s).1.arbiter = s.arbiter := by
  unfold reqAbort
  split
  · rfl
  · split <;> simp [accept, refuse]

theorem reqMagazineLoad_arbiter (boom purge count : Byte) (kinds : List Byte) :
    (reqMagazineLoad boom purge count kinds s).1.arbiter = s.arbiter := by
  unfold reqMagazineLoad
  split
  · dsimp only
    split
    · repeat' split
      all_goals simp [accept, refuse]
    · rfl
  · rfl

theorem reqCanopyRaise_arbiter (d : Byte) : (reqCanopyRaise d s).1.arbiter = s.arbiter := by
  unfold reqCanopyRaise
  dsimp only
  iterate 4
    split
    · rfl
  exact canopyTo_arbiter _ _

theorem reqCanopyLower_arbiter : (reqCanopyLower s).1.arbiter = s.arbiter := by
  have hlower : (if s.anyWorking || s.loopOpen then refuse .refusedState s
      else accept [byteOf CanopyState.lowering.code]
        (canopyTo .lowering ((dropCanopyFlow s).modCanopy fun k => { k with lowerTime := 0 }))).1.arbiter = s.arbiter := by
    split <;> simp [accept, refuse]
  unfold reqCanopyLower
  split
  · rfl
  · split
    case h_1 | h_2 | h_3 => rfl
    case h_4 | h_5 | h_6 => exact hlower

theorem reqRecordFetch_arbiter (b : Byte) : (reqRecordFetch b s).1.arbiter = s.arbiter := by
  unfold reqRecordFetch
  split
  · rfl
  · split <;> simp [accept, refuse]

theorem reqRecordRelease_arbiter (b c r : Byte) : (reqRecordRelease b c r s).1.arbiter = s.arbiter := by
  unfold reqRecordRelease
  split
  · split
    · rfl
    · split <;> simp [accept, refuse]
  · rfl

end

/-! ### Requests that act on the arbiter -/

section
variable (s : State)

theorem reqLineConfig_book (l m p n k : Byte) : (reqLineConfig l m p n k s).1.book = s.book := by
  unfold reqLineConfig
  split
  · dsimp only
    split
    · rfl
    · dsimp only [accept]
      split
      · exact takeTerminal_book s _ _
      · exact book_congr (setLine_arbiter ..)
  · rfl

/-- A pump that reads OK at its binding brings a grant check (R122, R145). -/
theorem bindEffect_rebooked (fn : Fn) : Rebooked s (bindEffect fn s) := by
  unfold bindEffect
  split
  · exact .same (book_congr (adopt_arbiter s))
  · split
    · exact .checked { s with arbiter := { s.arbiter with view := .ok } } rfl rfl
    · exact .same rfl
  · split
    · exact .same rfl
    · exact .same (book_congr (openStopLoop_arbiter s))
  · exact .same rfl

theorem viewFalls_rebooked : Rebooked s (viewFalls s) := by
  have htold : (viewFalls s).arbiter = { s.arbiter with view := .low, grants := [], queue := [] } :=
    (raiseFlag_arbiter ..).trans (handAll_arbiter _ (fun e => .takeBack e.ticket) _)
  exact .emptied (by rw [State.book, htold])

theorem unbindEffect_rebooked (fn : Fn) : Rebooked s (unbindEffect fn s) := by
  unfold unbindEffect
  split
  · exact .same (book_congr (pressureUnbound_arbiter s))
  · split
    · exact viewFalls_rebooked s
    · exact .same rfl
  · exact .same rfl
  · exact .same rfl

theorem unbindLine_rebooked (i : Fin 32) : Rebooked s (unbindLine i s).1 := by
  unfold unbindLine
  dsimp only
  split
  · exact .same rfl
  · split
    · exact .same rfl
    · exact (unbindEffect_rebooked _ _).before ((dropOnWay_book _ _).trans rfl)

theorem bindLine_rebooked (i : Fin 32) (fn : Fn) (sc : Scaling) : Rebooked s (bindLine i fn sc s).1 := by
  unfold bindLine
  dsimp only
  iterate 5
    split
    · exact .same rfl
  exact (bindEffect_rebooked _ fn).before rfl

theorem reqLineBind_rebooked (l f hi lo o p : Byte) : Rebooked s (reqLineBind l f hi lo o p s).1 := by
  unfold reqLineBind
  split
  · exact .same rfl
  · split
    · exact unbindLine_rebooked s _
    · split
      · exact .same rfl
      · split
        · exact .same rfl
        · exact bindLine_rebooked s _ _ _

theorem reqPumpSet_rebooked (b : Byte) : Rebooked s (reqPumpSet b s).1 := by
  unfold reqPumpSet
  dsimp only
  split
  · exact .same rfl
  · next hn =>
    split
    · exact .same rfl
    · next hle =>
      dsimp only [accept]
      split
      · exact .same rfl
      · exact .budgeted s rfl b.toNat (Nat.le_of_not_lt hle) (Nat.le_of_not_lt hn) rfl

/-- The answer to a request of a named kind with a body length of its own. -/
theorem ownerAnswer_rebooked {kind : Nat} {body : List Byte} {ls : List Nat} (hk : bodyLengths kind = some ls)
    (hb : body.length ∈ ls) : Rebooked s (ownerAnswer kind body s).1 := by
  unfold bodyLengths at hk
  split at hk
  all_goals cases hk
  · match body, List.mem_singleton.mp hb with
    | [], _ => exact .same rfl
  · match body, List.mem_singleton.mp hb with
    | [_, _], _ => exact .same (book_congr (reqClear_arbiter ..))
  · match body, List.mem_singleton.mp hb with
    | [_, _, _], _ => exact .same (book_congr (reqNoticeSet_arbiter ..))
  · match body, List.mem_singleton.mp hb with
    | [], _ => exact .same rfl
  · match body, List.mem_singleton.mp hb with
    | [_, _, _, _, _], _ => exact .same (reqLineConfig_book ..)
  · match body, List.mem_singleton.mp hb with
    | [_, _, _, _, _, _], _ => exact reqLineBind_rebooked ..
  · match body, List.mem_singleton.mp hb with
    | [], _ => exact .same (book_congr (reqLineRead_arbiter ..))
  · match body, List.mem_singleton.mp hb with
    | [_, _], _ => exact .same (book_congr (reqLineWrite_arbiter ..))
  · match body, hb with
    | a0 :: rest, _ => exact .same (book_congr (reqClassWrite_arbiter ..))
  · match body, List.mem_singleton.mp hb with
    | [_], _ => exact .same (book_congr (reqClassRead_arbiter ..))
  · match body, hb with
    | a0 :: rest, _ => exact .same (book_congr (reqStrataWrite_arbiter ..))
  · match body, List.mem_singleton.mp hb with
    | [_], _ => exact .same (book_congr (reqStrataRead_arbiter ..))
  · exact .same (book_congr (reqTempWrite_arbiter ..))
  · match body, List.mem_singleton.mp hb with
    | [_, _, _, _, _, _, _, _, _, _, _], _ => exact .same (book_congr (reqPatternDefine_arbiter ..))
  · match body, List.mem_singleton.mp hb with
    | [_, _, _, _, _], _ => exact .same (book_congr (reqCellMark_arbiter ..))
  · match body, List.mem_singleton.mp hb with
    | [_, _], _ => exact .same (book_congr (reqCellRead_arbiter ..))
  · match body, List.mem_singleton.mp hb with
    | [], _ => exact .same rfl
  · match body, List.mem_singleton.mp hb with
    | [_], _ => exact .same (book_congr (reqBoomStart_arbiter ..))
  · match body, List.mem_singleton.mp hb with
    | [_], _ => exact .same (book_congr (reqBoomStop_arbiter ..))
  · match body, List.mem_singleton.mp hb with
    | [_], _ => exact .same (book_congr (reqBoomRead_arbiter ..))
  · match body, List.mem_singleton.mp hb with
    | [_], _ => exact .same (book_congr (reqAtHole_arbiter ..))
  · match body, List.mem_singleton.mp hb with
    | [_], _ => exact .same (book_congr (reqProceed_arbiter ..))
  · match body, List.mem_singleton.mp hb with
    | [_, _, _, _, _], _ => exact .same (book_congr (reqDecide_arbiter ..))
  · match body, List.mem_singleton.mp hb with
    | [_], _ => exact .same (book_congr (reqHold_arbiter ..))
  · match body, List.mem_singleton.mp hb with
    | [_], _ => exact .same (book_congr (reqResume_arbiter ..))
  · match body, List.mem_singleton.mp hb with
    | [_], _ => exact .same (book_congr (reqAbort_arbiter ..))
  · match body, List.mem_singleton.mp hb with
    | [_, _, _], _ => exact .same (book_congr (reqSkip_arbiter ..))
  · match body, hb with
    | a0 :: a1 :: a2 :: rest, _ => exact .same (book_congr (reqMagazineLoad_arbiter ..))
  · match body, List.mem_singleton.mp hb with
    | [_], _ => exact reqPumpSet_rebooked ..
  · match body, List.mem_singleton.mp hb with
    | [], _ => exact .same rfl
  · match body, List.mem_singleton.mp hb with
    | [_], _ => exact .same (book_congr (reqCanopyRaise_arbiter ..))
  · match body, List.mem_singleton.mp hb with
    | [], _ => exact .same (book_congr (reqCanopyLower_arbiter ..))
  · match body, List.mem_singleton.mp hb with
    | [_], _ => exact .same (book_congr (reqRecordFetch_arbiter ..))
  · match body, List.mem_singleton.mp hb with
    | [_, _, _], _ => exact .same (book_congr (reqRecordRelease_arbiter ..))

theorem answer_rebooked (kind : Byte) (body : List Byte) : Rebooked s (answer kind body s).1 := by
  unfold answer
  split
  · exact .same rfl
  · split
    · exact .same rfl
    · next hl =>
      simp only [lengthAllowed, Bool.not_eq_true', Bool.not_eq_false] at hl
      split at hl
      · cases hl
      · next ls hk =>
        simp only [Bool.and_eq_true, List.contains_iff_mem] at hl
        exact ownerAnswer_rebooked s hk hl.1

end

/-! ### Frames, RESTART and power-on -/

section
variable (s : State)

/-- What the link keeps is none of the arbiter's. -/
theorem Rebooked.ofLink {s t : State} {l : Link} (h : Rebooked { s with link := l } t) : Rebooked s t := h.before rfl

theorem Rebooked.setLink {s t : State} (h : Rebooked s t) (l : Link) : Rebooked s { t with link := l } := h.after rfl

theorem takeFrame_rebooked : Rebooked s (takeFrame s) := by
  unfold takeFrame
  split
  · exact Rebooked.setLink ((answer_rebooked ..).ofLink) _
  · exact .same rfl

theorem linkError_book (cause : LinkCause) : (linkError cause s).book = s.book := (book_congr (raiseFlag_arbiter ..)).trans rfl

theorem discard_book (cause : LinkCause) : (discard cause s).book = s.book := linkError_book _ cause

theorem frameArrives_rebooked (f : Frame) : Rebooked s (frameArrives f s) := by
  unfold frameArrives
  split
  · exact (takeFrame_rebooked _).ofLink
  · exact .same (linkError_book s _)

theorem settle_book : (settle s).book = s.book := book_congr (settle_arbiter s)

theorem hostSends_rebooked (kind tag : Byte) (body : List Byte) : Rebooked s (hostSends kind tag body s) :=
  (frameArrives_rebooked s _).after (settle_book _)

theorem takeByte_rebooked (bytes : List Byte) : Rebooked s (takeByte bytes s) := by
  unfold takeByte
  split
  · exact .same rfl
  · split
    · exact .same (discard_book s _)
    · split
      · exact .same rfl
      · split
        · split
          · exact (frameArrives_rebooked _ _).ofLink
          · exact .same (discard_book s _)
        · exact .same (discard_book s _)

theorem receive_rebooked (data : Byte) (parity stop : Bool) : Rebooked s (receive data parity stop s) := by
  unfold receive
  split
  · split
    · exact .same rfl
    · exact .same rfl
  · split
    · exact .same (discard_book s _)
    · split
      · exact .same (discard_book s _)
      · exact takeByte_rebooked s _

theorem restartPart_rebooked : Rebooked s (restartPart s) := by
  have hrestarted : (restartPart s).arbiter = restartedArbiter s :=
    (setLines_arbiter _ _).trans ((raiseFlag_arbiter ..).trans (adopt_arbiter _))
  exact .anew (by rw [State.book, hrestarted]; rfl)

theorem sendingEnds_rebooked : Rebooked s (sendingEnds s) := by
  unfold sendingEnds
  split
  · exact .same rfl
  · exact .same (book_congr (uplinkChoose_arbiter ..))
  · split
    · exact restartPart_rebooked s
    · exact (takeFrame_rebooked _).ofLink.after (book_congr ((uplinkChoose_arbiter ..).trans (settleLines_arbiter _)))

end

end Sys2Proof.Machine
end

section
/-! SUPPORT. What a command and a step can do to the arbiter's book. -/

namespace Sys2Proof.Machine

variable {s t : State}

theorem onEvent_arbiter {x : Side} {e : BoomEvent} {f : State → State} (hf : ∀ u, (f u).arbiter = u.arbiter) (s : State) :
    (onEvent x e f s).arbiter = s.arbiter := by
  unfold onEvent
  split
  · rw [settle_arbiter, hf, takeEvent_arbiter]
  · rfl

theorem Rebooked.settle (h : Rebooked s t) : Rebooked s (Machine.settle t) := h.after (settle_book t)

/-- An event taken where its condition holds. -/
theorem Rebooked.onCondition {c : Prop} [Decidable c] (h : Rebooked s t) : Rebooked s (if c then Machine.settle t else s) := by
  split
  · exact h.settle
  · exact .same rfl

/-- A limit event, or a hand-over, of a block that leaves the arbiter's record. -/
theorem rebooked_onCondition {c : Prop} [Decidable c] (h : t.arbiter = s.arbiter) :
    Rebooked s (if c then Machine.settle t else s) := Rebooked.onCondition (.same (book_congr h))

theorem requestArrives_rebooked (k : Consumer) (s : State) : Rebooked s (requestArrives k s) := by
  unfold requestArrives
  dsimp only
  split
  · exact .requested _ (book_congr (setPort_arbiter ..)) _ _ _ _ rfl
  · exact .same rfl

theorem releaseArrives_rebooked (k : Consumer) (s : State) : Rebooked s (releaseArrives k s) := by
  unfold releaseArrives
  dsimp only
  split
  · exact .released _ (book_congr (setPort_arbiter ..)) _ rfl
  · exact .same rfl

/-- A command leaves the arbiter's book, or does to it one of the things `Rebooked` names. -/
theorem exec_rebooked {c : Instr} (h : exec c s = .next t) : Rebooked s t := by
  cases c
  case powerOn => cases h; exact .anew rfl
  case characterReceived => cases h; exact (receive_rebooked ..).settle
  case gap => cases h; exact Rebooked.onCondition (.same (discard_book s _))
  case unknownKind | badLength =>
    simp only [exec, execUnknownKind, execBadLength] at h
    split at h <;> cases h
    exact hostSends_rebooked ..
  case frameSent => cases h; exact (sendingEnds_rebooked s).settle
  case partRestart => cases h; exact Rebooked.onCondition (restartPart_rebooked s)
  case digitalEdge => cases h; exact Rebooked.settle (.same (presentLevel_book ..))
  case analogChange => cases h; exact Rebooked.settle (.same (book_congr (presentCount_arbiter ..)))
  case stopLoopOpen => cases h; exact rebooked_onCondition (takeOpening_arbiter s)
  case flowRequestArrival => cases h; exact (requestArrives_rebooked ..).settle
  case flowRelease => cases h; exact (releaseArrives_rebooked ..).settle
  case pumpFall => cases h; exact Rebooked.onCondition ((viewFalls_rebooked (popPump s)).before rfl)
  case pumpRise =>
    cases h
    exact Rebooked.onCondition
      (.checked { popPump s with arbiter := { (popPump s).arbiter with view := .ok } } rfl rfl)
  case boomStopLoopOpen => cases h; exact .same (book_congr (onEvent_arbiter (fun u => boomStops_arbiter u _) s))
  case deadmanPress => cases h; exact .same (book_congr (onEvent_arbiter (fun u => pressDeadman_arbiter u _) s))
  case deadmanRelease | boomPumpFall | canopyLossAtBoom =>
    cases h
    exact .same (book_congr (onEvent_arbiter (fun u => addHold_arbiter u _ _) s))
  case boomPumpRise | canopyRegainAtBoom =>
    cases h
    exact .same (book_congr (onEvent_arbiter (fun u => removeHold_arbiter u _ _) s))
  case atHoleRise => cases h; exact .same (book_congr (onEvent_arbiter (fun u => confirmAtHole_arbiter u _) s))
  case feedHomeRise => cases h; exact .same (book_congr (onEvent_arbiter (fun u => takeFeedHome_arbiter u _) s))
  case cartridgePass => cases h; exact .same (book_congr (onEvent_arbiter (fun u => completePush_arbiter u _) s))
  case boltPresentRise => cases h; exact .same (book_congr (onEvent_arbiter (fun u => takeBoltPresent_arbiter u _) s))
  case rotationPulse => cases h; exact .same (book_congr (onEvent_arbiter (fun u => takePulse_arbiter u _) s))
  case feedPositionChange =>
    cases h
    split
    · exact .same (book_congr (onEvent_arbiter (fun u => judgeFeed_arbiter u _ _) s))
    · exact .same rfl
  case rotationPressureChange =>
    cases h
    split
    · exact .same (book_congr (onEvent_arbiter (fun u => takePressureChange_arbiter u _ _) s))
    · exact .same rfl
  case pressureStall | progressStall => cases h; exact rebooked_onCondition (takeStall_arbiter s _)
  case backOffEnd => cases h; exact rebooked_onCondition (endBackOff_arbiter s _)
  case retractTimeout => cases h; exact rebooked_onCondition (enterAborting_arbiter s _ _ _)
  case secondFailureTimeout => cases h; exact rebooked_onCondition (secondFailure_arbiter s _ _)
  case jam => cases h; exact rebooked_onCondition (takeJam_arbiter s _)
  case spinEnd => cases h; exact rebooked_onCondition (endSpin_arbiter s _)
  case holdEnd => cases h; exact rebooked_onCondition (enterTorquing_arbiter s _)
  case tensionLate => cases h; exact rebooked_onCondition (takeLate_arbiter s _)
  case reSeek => cases h; exact rebooked_onCondition (seek_arbiter s _)
  case boomGrantTaken =>
    cases h
    split
    · exact Rebooked.settle (.same (book_congr ((takeGrant_arbiter ..).trans (popFlow_arbiter ..))))
    · exact .same rfl
  case boomTakeBack =>
    cases h
    split
    · exact Rebooked.settle (.same (book_congr ((takeTakeBack_arbiter ..).trans (popFlow_arbiter ..))))
    · exact .same rfl
  case boomFlowRefusal =>
    cases h
    split
    · exact Rebooked.onCondition (.same ((book_congr (takeRefusal_arbiter ..)).trans (popRefusal_book ..)))
    · exact .same rfl
  case canopyGrantTaken =>
    cases h
    split
    · exact Rebooked.settle (.same (book_congr ((canopyGrant_arbiter ..).trans (popFlow_arbiter ..))))
    · exact .same rfl
  case canopyTakeBack =>
    cases h
    split
    · exact Rebooked.settle (.same (book_congr ((canopyTakenBack_arbiter ..).trans (popFlow_arbiter ..))))
    · exact .same rfl
  case canopyFlowRefusal =>
    cases h
    split
    · exact Rebooked.onCondition (.same ((book_congr (canopyRefused_arbiter ..)).trans (popRefusal_book ..)))
    · exact .same rfl
  case canopyStopLoopOpen => cases h; exact rebooked_onCondition (canopyStops_arbiter _)
  case canopyPressureChange =>
    cases h
    split
    · exact Rebooked.settle (.same (book_congr (takePressure_arbiter ..)))
    · exact .same rfl
  case canopyAdoptSet | canopySet => cases h; exact rebooked_onCondition (canopyEntersSet_arbiter s)
  case raiseTimeout => cases h; exact rebooked_onCondition (raiseFails_arbiter s _)
  case canopyLost => cases h; exact rebooked_onCondition (canopyIsLost_arbiter s)
  case canopyLowered => cases h; exact rebooked_onCondition (canopyTo_arbiter s _)
  all_goals
    cases h
    exact hostSends_rebooked ..

theorem step_rebooked (h : step s = .next t) : Rebooked s t := by
  rcases step_cases s t h with ⟨c, rest, _, hc⟩ | ⟨_, c, _, hc⟩ | ⟨_, rfl⟩
  · exact (exec_rebooked hc).before rfl
  · exact exec_rebooked hc
  · exact .same rfl

/-- Settles O10: whatever a step makes of the arbiter's book keeps both rules of R113. -/
theorem stepKeepsGrantsWithinBudget : Obligations.StepKeepsGrantsWithinBudget :=
  ⟨fun _ _ hs h => (step_rebooked h).budgetKept hs, fun _ _ hs h => (step_rebooked h).consumersOnce hs⟩

end Sys2Proof.Machine
end

section
/-! SUPPORT. The arbiter's queue, grant check, pump view and budget as its commands use them (R114 to R122). -/

namespace Sys2Proof.Machine

/-! ### The queue and its heads (R115, R116) -/

/-- An entry stands behind its tier and those ahead, before those behind. -/
theorem joinQueue_between {e : FlowEntry} {front back : List FlowEntry} (hfront : ∀ y ∈ front, y.motion.tier ≤ e.motion.tier)
    (hback : ∀ y ∈ back, e.motion.tier < y.motion.tier) : joinQueue e (front ++ back) = front ++ e :: back := by
  have htake : back.takeWhile (fun y => y.motion.tier ≤ e.motion.tier) = [] := by
    cases back with
    | nil => rfl
    | cons y back => simpa using hback y (by simp)
  have hdrop : back.dropWhile (fun y => y.motion.tier ≤ e.motion.tier) = back := by
    cases back with
    | nil => rfl
    | cons y back => simpa using hback y (by simp)
  have hall : ∀ y ∈ front, decide (y.motion.tier ≤ e.motion.tier) = true := by simpa using hfront
  rw [joinQueue, List.takeWhile_append_of_pos hall, List.dropWhile_append_of_pos hall, htake, hdrop, List.append_nil]

section
variable {s : State} {e : FlowEntry} {q : List FlowEntry}

theorem grantCheck_empty (h : s.arbiter.queue = []) : grantCheck s = s := by
  cases hv : s.arbiter.view with
  | low => exact grantCheck_low hv
  | ok =>
    simp only [grantCheck_ok hv, h, grantHeads, List.append_nil, List.foldl_nil]
    rw [← h]

/-- A head that does not fit waits, and those behind it with it. -/
theorem grantCheck_over (hq : s.arbiter.queue = e :: q) (hover : s.arbiter.budget < grantTotal s.arbiter.grants + e.demand) :
    grantCheck s = s := by
  cases hv : s.arbiter.view with
  | low => exact grantCheck_low hv
  | ok =>
    simp only [grantCheck_ok hv, hq, grantHeads, if_neg (Nat.not_le_of_lt hover), List.append_nil, List.foldl_nil]
    rw [← hq]

/-- A head that fits is granted and handed over, and the check goes on behind it. -/
theorem grantCheck_fits (hv : s.arbiter.view = .ok) (hq : s.arbiter.queue = e :: q)
    (hfit : grantTotal s.arbiter.grants + e.demand ≤ s.arbiter.budget) :
    grantCheck s = grantCheck (handFlow e.consumer (.grant e.ticket)
      { s with arbiter := { s.arbiter with grants := s.arbiter.grants ++ [e], queue := q } }) := by
  have hsum : grantTotal (s.arbiter.grants ++ [e]) = grantTotal s.arbiter.grants + e.demand := by simp [grantTotal]
  have hnext : (handFlow e.consumer (.grant e.ticket)
      { s with arbiter := { s.arbiter with grants := s.arbiter.grants ++ [e], queue := q } }).arbiter =
        { s.arbiter with grants := s.arbiter.grants ++ [e], queue := q } := handFlow_arbiter _ _ _
  rw [grantCheck_ok hv, grantCheck_ok (by rw [hnext]; exact hv), hnext]
  simp only [hq, hsum, grantHeads, if_pos hfit, List.foldl_cons, handFlow_setArbiter, List.append_assoc, List.singleton_append]

/-! ### Arrivals -/

theorem calm_viewFalls (s : State) : Calm [.pump] s (viewFalls s) :=
  ((calm_arbiter s _).trans (calm_handAll _ (fun e => .takeBack e.ticket) _)).trans (calm_raiseFlag _ _ (by simp) _ _ _)

/-- The oldest request on its way is taken past the releases before it (log 6). -/
theorem requestArrives_past {k : Consumer} {early late : List ArbMsg} {d tk : Nat} {m : Motion}
    (ho : (s.port k).outbox = early ++ .request d m tk :: late) (hearly : ∀ y ∈ early, ∃ r, y = .release r) :
    requestArrives k s = takeRequest k d m tk (s.setPort k { s.port k with outbox := early ++ late }) := by
  have hskip : ∀ y ∈ early, ¬ y.isRequest = true := fun y hy => by
    obtain ⟨r, rfl⟩ := hearly y hy
    exact Bool.false_ne_true
  have hfind : (early ++ .request d m tk :: late).find? (·.isRequest) = some (.request d m tk) :=
    List.find?_eq_some_iff_append.mpr ⟨rfl, early, late, rfl, by simpa using hskip⟩
  have herase : (early ++ .request d m tk :: late).erase (.request d m tk) = early ++ late := by
    rw [List.erase_append_right _ fun hmem => hskip _ hmem rfl, List.erase_cons_head]
  unfold requestArrives
  dsimp only
  rw [ho, hfind]
  dsimp only
  rw [herase]

theorem releaseArrives_head {k : Consumer} {tk : Nat} {rest : List ArbMsg} (ho : (s.port k).outbox = .release tk :: rest) :
    releaseArrives k s = takeRelease (fun e => e.consumer == k && e.ticket == tk)
      (s.setPort k { s.port k with outbox := rest }) := by
  unfold releaseArrives
  dsimp only
  rw [ho]

/-! ### How the arbiter's events end -/

section
variable (hs : s.settled)
include hs

theorem flowRequestArrival_ends {k : Consumer} {early late : List ArbMsg} {d tk : Nat} {m : Motion}
    (ho : (s.port k).outbox = early ++ .request d m tk :: late) (hearly : ∀ y ∈ early, ∃ r, y = .release r) :
    ∃ t, exec (.flowRequestArrival k) s = .next t ∧
      ends [] s (takeRequest k d m tk (s.setPort k { s.port k with outbox := early ++ late })) t := by
  refine ⟨_, rfl, ?_⟩
  rw [requestArrives_past ho hearly]
  exact ends_settle hs (by simp) ((calm_setPort _ s k _).trans (calm_takeRequest _ k d m tk))

theorem flowRelease_ends {k : Consumer} {tk : Nat} {rest : List ArbMsg} (ho : (s.port k).outbox = .release tk :: rest) :
    ∃ t, exec (.flowRelease k) s = .next t ∧ ends [] s (takeRelease (fun e => e.consumer == k && e.ticket == tk)
      (s.setPort k { s.port k with outbox := rest })) t := by
  refine ⟨_, rfl, ?_⟩
  rw [releaseArrives_head ho]
  exact ends_settle hs (by simp) ((calm_setPort _ s k _).trans (calm_takeRelease _ _))

variable {rest : List Bool}

theorem pumpFall_ends (he : s.arbiter.events = false :: rest) : ∃ t, exec .pumpFall s = .next t ∧
    ends [.pump] s (viewFalls { s with arbiter := { s.arbiter with events := rest } }) t := by
  have hpop : popPump s = { s with arbiter := { s.arbiter with events := rest } } := by rw [popPump, he]; rfl
  refine ⟨_, congrArg Host.Outcome.next (if_pos (by rw [he]; rfl)), ?_⟩
  rw [hpop]
  exact ends_settle hs (by simp) ((calm_arbiter s _).trans (calm_viewFalls _))

theorem pumpRise_ends (he : s.arbiter.events = true :: rest) : ∃ t, exec .pumpRise s = .next t ∧
    ends [] s (grantCheck { s with arbiter := { s.arbiter with view := .ok, events := rest } }) t := by
  have hpop : popPump s = { s with arbiter := { s.arbiter with events := rest } } := by rw [popPump, he]; rfl
  refine ⟨_, congrArg Host.Outcome.next (if_pos (by rw [he]; rfl)), ?_⟩
  rw [hpop]
  exact ends_settle hs (by simp) ((calm_arbiter s _).trans (calm_grantCheck _))

end

/-! ### PUMP_SET (R119, R120) -/

/-- The state a PUMP_SET within the limits leaves. -/
def pumpSet (n : Nat) (s : State) : State := if n = s.arbiter.budget then s else grantCheck (refuseOver n s)

theorem pumpSet_budget (n : Nat) (s : State) : (pumpSet n s).arbiter.budget = n := by
  unfold pumpSet
  split
  · next h => exact h.symm
  · rw [grantCheck_budget, refuseOver_arbiter]

theorem calm_pumpSet (n : Nat) (s : State) : Calm [] s (pumpSet n s) :=
  .ite (.refl _ s) ((calm_refuseOver s n).trans (calm_grantCheck _))

/-- The refusals are handed over in queue order, and wait for one another as one list if there are any. -/
theorem refuseOver_eq (n : Nat) (s : State) : refuseOver n s = (s.arbiter.queue.filter fun e => n < e.demand).foldl
    (fun u e => handFlow e.consumer (.refusal e.ticket) u)
    { s with arbiter := { s.arbiter with
      budget := n, queue := s.arbiter.queue.filter fun e => e.demand ≤ n
      refusing := match (s.arbiter.queue.filter fun e => n < e.demand).map fun e => (e.consumer, e.ticket) with
        | [] => s.arbiter.refusing
        | l => s.arbiter.refusing ++ [l] } } := by
  have hkept : (s.arbiter.queue.filter fun e => !decide (n < e.demand)) = s.arbiter.queue.filter fun e => e.demand ≤ n := by
    simp only [← decide_not, Nat.not_lt]
  unfold refuseOver
  dsimp only
  rw [hkept]
  cases s.arbiter.queue.filter fun e => n < e.demand <;> rfl

variable {tag b : Byte}

theorem pumpSet_refused (hr : s.ready) {st : Status} (h : reqPumpSet b s = refuse st s) :
    exec (.pumpSet tag b) s = .next (s.withReply 0xB0 tag [st.code]) :=
  congrArg Host.Outcome.next (hostSends_same hr ((answer_pumpSet b s).trans h))

theorem reqPumpSet_accepts (h200 : b.toNat ≤ 200) (hle : grantTotal s.arbiter.grants ≤ b.toNat) : reqPumpSet b s =
    accept [b, byteOf (grantTotal (pumpSet b.toNat s).arbiter.grants), byteOf (pumpSet b.toNat s).arbiter.queue.length]
      (pumpSet b.toNat s) := by
  refine (if_neg (Nat.not_lt.mpr h200)).trans ((if_neg (Nat.not_lt.mpr hle)).trans ?_)
  have hbudget : byteOf (pumpSet b.toNat s).arbiter.budget = b := by rw [pumpSet_budget, byteOf_toNat]
  exact congrArg (fun c => accept (c :: _) (pumpSet b.toNat s)) hbudget

theorem pumpSet_ends (hr : s.ready) (h200 : b.toNat ≤ 200) (hle : grantTotal s.arbiter.grants ≤ b.toNat) :
    let v := pumpSet b.toNat s
    ∃ t, exec (.pumpSet tag b) s = .next t ∧
      endsAnswered [] 0xB0 tag [0, b, byteOf (grantTotal v.arbiter.grants), byteOf v.arbiter.queue.length] s v t :=
  ⟨_, rfl, hostSends_ends hr ((answer_pumpSet b s).trans (reqPumpSet_accepts h200 hle)) (by simp) (calm_pumpSet _ s)⟩

end

/-- Settles O57: the queue by `joinQueue_between`, the grant check head by head, each event by what it leaves behind. -/
theorem arbiterGrantsInOrderWithinTheBudget : Obligations.ArbiterGrantsInOrderWithinTheBudget := by
  refine ⟨fun e front back => ?_, fun s => ⟨?_, fun e q hv hq => ⟨?_, ?_⟩, fun k m => rfl, fun gone => ?_, rfl,
    fun hs => ⟨?_, ?_, ?_, ?_⟩, fun hr tag b => ⟨?_, ?_, ?_⟩⟩⟩
  · intro tier hfront hback
    have htier : tier = Motion.tier := funext fun m => by cases m <;> rfl
    rw [htier] at hfront hback
    exact joinQueue_between hfront hback
  · rintro (hlow | hempty)
    · exact grantCheck_low hlow
    · exact grantCheck_empty hempty
  · exact grantCheck_over hq
  · exact grantCheck_fits hv hq
  · split
    · next hfound => exact takeRelease_found hfound
    · next habsent => exact takeRelease_absent habsent
  · exact fun k early late d m tk ho hearly => flowRequestArrival_ends hs ho hearly
  · exact fun k tk rest ho => flowRelease_ends hs ho
  · exact fun rest he => pumpFall_ends hs he
  · exact fun rest he => pumpRise_ends hs he
  · exact fun h => pumpSet_refused hr (if_pos h)
  · exact fun h200 h => pumpSet_refused hr ((if_neg (Nat.not_lt.mpr h200)).trans (if_pos h))
  · intro h200 hle
    have hends := pumpSet_ends (tag := tag) hr h200 hle
    unfold pumpSet at hends
    rwa [refuseOver_eq] at hends

end Sys2Proof.Machine
end

section
/-! SUPPORT. The canopy: its states and the hand-overs between them, its requests, its limits, its pressure line and the
arbiter's hand-overs (R126 to R135; logs 7, 33). -/

namespace Sys2Proof.Machine

/-! ### The canopy's states (R134) -/

section
variable {s : State} {st : CanopyState}

/-- Leaving SET hands a loss to both booms. -/
theorem canopyTo_unset (h : st ≠ .set) : canopyTo st s =
    (let u : State := { s with canopy := { s.canopy with state := st } }
     if s.canopy.state = .set then u.handBooms (.canopy false) else u) := by
  unfold canopyTo
  simp only [h, ne_eq, not_false_eq_true, and_true, and_false, if_false]
  rfl

/-- Entering SET hands a regain to both booms. -/
theorem canopyTo_set : canopyTo .set s =
    (let u : State := { s with canopy := { s.canopy with state := .set } }
     if s.canopy.state = .set then u else u.handBooms (.canopy true)) := by
  unfold canopyTo
  by_cases hset : s.canopy.state = .set <;> simp [hset, State.modCanopy]

/-- Between two other states nothing is handed over. -/
theorem canopyTo_outside (hs : s.canopy.state ≠ .set) (h : st ≠ .set) :
    canopyTo st s = { s with canopy := { s.canopy with state := st } } :=
  (canopyTo_unset h).trans (if_neg hs)

/-- A failed raise: LOWERED, with its cause and what is left of its flow, and CANOPY (R129, R135). -/
def State.raiseFailed (s : State) (f : CanopyFailure) (p : FlowPort) : State :=
  raiseFlag .canopy none none 0 { s with canopy := { s.canopy with state := .lowered, lastFailure := f, port := p } }

theorem raiseFails_raising {f : CanopyFailure} (hs : s.canopy.state = .raising) :
    raiseFails f s = s.raiseFailed f s.canopy.port.drop := by
  unfold raiseFails
  rw [canopyTo_outside (by simp [dropCanopyFlow, hs]) (by decide)]
  rfl

end

/-! ### What the canopy's events leave alone -/

section
variable (s : State)

theorem calm_canopy {n : List Flag} (k : Canopy) : Calm n s { s with canopy := k } := .of_eq rfl rfl rfl rfl

theorem calm_dropCanopyFlow (n : List Flag) : Calm n s (dropCanopyFlow s) := calm_modCanopy n s _

theorem calm_canopyEntersSet (n : List Flag) : Calm n s (canopyEntersSet s) :=
  ((calm_dropCanopyFlow s n).trans (calm_modCanopy n _ _)).trans (calm_canopyTo _ _)

theorem calm_raiseFails (f : CanopyFailure) : Calm [.canopy] s (raiseFails f s) :=
  (((calm_dropCanopyFlow s _).trans (calm_modCanopy _ _ _)).trans (calm_canopyTo _ _)).trans
    (calm_raiseFlag _ _ (by simp) _ _ _)

theorem calm_takePressure (n : List Flag) (high : Bool) : Calm n s (takePressure high s) := by
  unfold takePressure
  split
  · exact (calm_modCanopy n s _).trans (calm_canopyTo _ _)
  · exact calm_modCanopy n s _
  · exact calm_modCanopy n s _
  · exact calm_modCanopy n s _
  · exact .refl n s

theorem calm_canopyIsLost : Calm [.canopy] s (canopyIsLost s) :=
  ((calm_modCanopy _ s _).trans (calm_canopyTo _ _)).trans (calm_raiseFlag _ _ (by simp) _ _ _)

theorem calm_canopyStops (n : List Flag) : Calm n s (canopyStops s) := by
  unfold canopyStops
  split
  · exact (calm_dropCanopyFlow s n).trans (calm_canopyTo _ _)
  · exact calm_canopyTo s _
  · exact .refl n s

theorem calm_canopyGrant (n : List Flag) (tk : Nat) : Calm n s (canopyGrant tk s) :=
  .ite (calm_modCanopy n s _) (.refl n s)

theorem calm_canopyTakenBack (tk : Nat) : Calm [.canopy] s (canopyTakenBack tk s) :=
  .ite ((calm_modCanopy _ s _).trans (calm_raiseFails _ _)) (.refl _ s)

theorem calm_canopyRefused (tk : Nat) : Calm [.canopy] s (canopyRefused tk s) :=
  .ite ((calm_modCanopy _ s _).trans (calm_raiseFails _ _)) (.refl _ s)

end

/-! ### CANOPY_RAISE (R127) -/

section
variable {s : State} {demand : Byte}

theorem canopyRaise_refused {tag : Byte} (hr : s.ready) {st : Status} (h : reqCanopyRaise demand s = refuse st s) :
    exec (.canopyRaise tag demand) s = .next (s.withReply 0xB4 tag [st.code]) :=
  congrArg Host.Outcome.next (hostSends_same hr ((answer_canopyRaise demand s).trans h))

theorem loopOpen_iff : s.loopOpen = true ↔ s.bound .stopLoop = true ∧ s.reads1 .stopLoop = false := by
  simp [State.loopOpen]

/-- The functions a raise needs are bound. -/
def State.raiseBound (s : State) : Prop :=
  s.bound .canopyUp = true ∧ s.bound .canopyPressure = true ∧ s.bound .stopLoop = true ∧ s.bound .pumpOk = true

theorem reqCanopyRaise_range (h : ¬ (1 ≤ demand.toNat ∧ demand.toNat ≤ 200)) :
    reqCanopyRaise demand s = refuse .refusedRange s := by
  have hout : inRange 1 200 demand.toNat = false := eq_false_of_ne_true (mt (inRange_iff 1 200 _).mp h)
  exact if_pos (by simp [hout])

theorem raiseBound_iff : s.raiseBound ↔
    (s.bound .canopyUp && s.bound .canopyPressure && s.bound .stopLoop && s.bound .pumpOk) = true := by
  simp only [State.raiseBound, Bool.and_eq_true, and_assoc]

theorem raiseBound_passes (hb : s.raiseBound) :
    ¬ (!(s.bound .canopyUp && s.bound .canopyPressure && s.bound .stopLoop && s.bound .pumpOk)) = true := by
  simp [raiseBound_iff.mp hb]

variable (hd : 1 ≤ demand.toNat ∧ demand.toNat ≤ 200)
include hd

theorem demand_passes : ¬ (!inRange 1 200 demand.toNat) = true := by
  simp [(inRange_iff 1 200 _).mpr hd]

theorem reqCanopyRaise_unbound (h : ¬ s.raiseBound) : reqCanopyRaise demand s = refuse .refusedUnbound s :=
  (if_neg (demand_passes hd)).trans (if_pos (by rwa [Bool.not_eq_true', ← Bool.not_eq_true, ← raiseBound_iff]))

variable (hb : s.raiseBound)
include hb

theorem reqCanopyRaise_state (h : ¬ (s.canopy.state = .lowered ∨ s.canopy.state = .lost) ∨ s.reads1 .stopLoop = false) :
    reqCanopyRaise demand s = refuse .refusedState s := by
  have ⟨_, _, hloop, _⟩ := hb
  unfold reqCanopyRaise
  rw [if_neg (demand_passes hd), if_neg (raiseBound_passes hb)]
  by_cases hk : s.canopy.state = .lowered ∨ s.canopy.state = .lost
  · have hopen : s.loopOpen = true := loopOpen_iff.mpr ⟨hloop, h.resolve_left (not_not.mpr hk)⟩
    rw [if_neg (by tauto), if_pos hopen]
  · exact if_pos (not_or.mp hk)

theorem reqCanopyRaise_accepts (hk : s.canopy.state = .lowered ∨ s.canopy.state = .lost) (hl : s.reads1 .stopLoop = true) :
    reqCanopyRaise demand s = accept [3] { s with
      canopy := { s.canopy with
        state := .raising, raiseDemand := some demand.toNat, settleTime := 0, raiseTime := 0
        port := s.canopy.port.ask demand.toNat .raise s.ticket }
      ticket := s.ticket + 1 } := by
  have hclosed : ¬ s.loopOpen = true := by simp [State.loopOpen, hl]
  have hset : s.canopy.state ≠ .set := by rcases hk with h | h <;> simp [h]
  unfold reqCanopyRaise
  rw [if_neg (demand_passes hd), if_neg (raiseBound_passes hb), if_neg (by tauto), if_neg hclosed]
  exact congrArg (accept [3]) (canopyTo_outside hset (by decide))

end

/-! ### CANOPY_LOWER (R131) -/

theorem Pos.exists_idx (i : Fin 96) : ∃ q : Pos, q.idx = i :=
  ⟨⟨⟨i.val % 8, by omega⟩, ⟨i.val / 8, by omega⟩⟩, Fin.ext (by simp only [Pos.idx]; omega)⟩

section
variable {s : State}

theorem anyWorking_iff : s.anyWorking = true ↔ ∃ q, (s.cell q).state = .working := by
  unfold State.anyWorking
  rw [List.any_eq_true]
  constructor
  · rintro ⟨c, hc, hw⟩
    obtain ⟨i, hi, rfl⟩ := List.mem_iff_getElem.mp hc
    obtain ⟨q, hq⟩ := Pos.exists_idx ⟨i, by simpa using hi⟩
    have hcell : s.cell q = s.cells.toList[i] := by simp [State.cell, hq]
    exact ⟨q, by rw [hcell, beq_iff_eq.mp hw]⟩
  · rintro ⟨q, hq⟩
    exact ⟨s.cell q, by simp [State.cell], by simp [hq]⟩

/-- A canopy may be lowered from RAISING, SET or LOST, with no hole worked and the stop loop not open. -/
def State.mayLower (s : State) : Prop :=
  (s.canopy.state = .raising ∨ s.canopy.state = .set ∨ s.canopy.state = .lost) ∧ (∀ q, (s.cell q).state ≠ .working) ∧
    ¬ (s.bound .stopLoop = true ∧ s.reads1 .stopLoop = false)

theorem canopyLower_refused {tag : Byte} (hr : s.ready) {st : Status} (h : reqCanopyLower s = refuse st s) :
    exec (.canopyLower tag) s = .next (s.withReply 0xB5 tag [st.code]) :=
  congrArg Host.Outcome.next (hostSends_same hr ((answer_canopyLower s).trans h))

theorem reqCanopyLower_unbound (h : ¬ (s.bound .canopyDown = true ∧ s.bound .canopyPressure = true)) :
    reqCanopyLower s = refuse .refusedUnbound s :=
  if_pos (by simpa only [Bool.not_eq_true', Bool.eq_false_iff, ne_eq, Bool.and_eq_true] using h)

variable (hb : s.bound .canopyDown = true ∧ s.bound .canopyPressure = true)
include hb

theorem reqCanopyLower_state (h : ¬ s.mayLower) : reqCanopyLower s = refuse .refusedState s := by
  have hblocked (hfrom : s.canopy.state = .raising ∨ s.canopy.state = .set ∨ s.canopy.state = .lost) :
      (s.anyWorking || s.loopOpen) = true := by
    rw [Bool.or_eq_true, anyWorking_iff, loopOpen_iff]
    by_contra hfree
    obtain ⟨hidle, hclosed⟩ := not_or.mp hfree
    exact h ⟨hfrom, not_exists.mp hidle, hclosed⟩
  refine (if_neg (by simp [hb])).trans ?_
  split
  case h_1 | h_2 | h_3 => rfl
  case h_4 hk | h_5 hk | h_6 hk => exact if_pos (hblocked (by simp [hk]))

theorem reqCanopyLower_accepts (h : s.mayLower) : reqCanopyLower s = accept [6]
    (let u : State := { s with canopy := { s.canopy with state := .lowering, lowerTime := 0, port := s.canopy.port.drop } }
     if s.canopy.state = .set then u.handBooms (.canopy false) else u) := by
  obtain ⟨hfrom, hidle, hclosed⟩ := h
  have hfree : ¬ (s.anyWorking || s.loopOpen) = true := by
    rw [Bool.or_eq_true, anyWorking_iff, loopOpen_iff]
    exact not_or.mpr ⟨not_exists.mpr hidle, hclosed⟩
  have haccept : reqCanopyLower s =
      accept [6] (canopyTo .lowering ((dropCanopyFlow s).modCanopy fun k => { k with lowerTime := 0 })) := by
    refine (if_neg (by simp [hb])).trans ?_
    rcases hfrom with hk | hk | hk <;> rw [hk] <;> exact if_neg hfree
  rw [haccept, canopyTo_unset (by decide)]
  rfl

end

/-! ### Limits (log 33) -/

section
variable (s : State)

theorem adoptSetDue_iff : adoptSetDue s = true ↔
    s.canopy.state = .unknown ∧ s.bound .canopyPressure = true ∧ 10 ≤ s.canopy.settleTime := by
  simp only [adoptSetDue, Bool.and_eq_true, beq_iff_eq, decide_eq_true_eq, and_assoc]
  exact Iff.rfl

theorem canopySetDue_iff : canopySetDue s = true ↔ s.canopy.state = .raising ∧ 10 ≤ s.canopy.settleTime := by
  simp only [canopySetDue, Bool.and_eq_true, beq_iff_eq, decide_eq_true_eq]
  exact Iff.rfl

theorem raiseTimeoutDue_iff : raiseTimeoutDue s = true ↔ s.canopy.state = .raising ∧ 150 ≤ s.canopy.raiseTime := by
  simp only [raiseTimeoutDue, Bool.and_eq_true, beq_iff_eq, decide_eq_true_eq]
  exact Iff.rfl

theorem canopyLostDue_iff : canopyLostDue s = true ↔ s.canopy.state = .set ∧ 5 ≤ s.canopy.lossTime := by
  simp only [canopyLostDue, Bool.and_eq_true, beq_iff_eq, decide_eq_true_eq]
  exact Iff.rfl

theorem canopyLoweredDue_iff : canopyLoweredDue s = true ↔ s.canopy.state = .lowering ∧ 30 ≤ s.canopy.lowerTime := by
  simp only [canopyLoweredDue, Bool.and_eq_true, beq_iff_eq, decide_eq_true_eq]
  exact Iff.rfl

end

/-! ### What the canopy's events leave -/

section
variable {s : State}

/-- A pressure level taken: each state's timer restarts at the level that stops it, and an UNKNOWN canopy is LOWERED at 0. -/
theorem takePressure_taken (high : Bool) : takePressure high (takeCanopyEvent (.pressure high) s) =
    (let e := s.canopy.events.erase (.pressure high)
     { s with canopy := match s.canopy.state, high with
        | .unknown, false => { s.canopy with state := .lowered, settleTime := 0, events := e }
        | .raising, false => { s.canopy with settleTime := 0, events := e }
        | .set, true => { s.canopy with lossTime := 0, events := e }
        | .lowering, true => { s.canopy with lowerTime := 0, events := e }
        | _, _ => { s.canopy with events := e } }) := by
  unfold takePressure takeCanopyEvent
  rcases hk : s.canopy.state <;> cases high <;> simp only [State.modCanopy, hk]
  case unknown.false => exact canopyTo_outside (by simp) (by decide)

/-- The stop loop's opening taken: RAISING and LOWERING become LOWERED, RAISING with its flow dropped (R133). -/
theorem canopyStops_taken : canopyStops (takeCanopyEvent .stopLoop s) =
    (let e := s.canopy.events.erase .stopLoop
     { s with canopy := match s.canopy.state with
        | .raising => { s.canopy with state := .lowered, port := s.canopy.port.drop, events := e }
        | .lowering => { s.canopy with state := .lowered, events := e }
        | _ => { s.canopy with events := e } }) := by
  unfold canopyStops takeCanopyEvent
  rcases hk : s.canopy.state <;> simp only [State.modCanopy, hk]
  case raising => exact canopyTo_outside (by simp [dropCanopyFlow]) (by decide)
  case lowering => exact canopyTo_outside (by simp) (by decide)

/-- The canopy's first hand-over was taken, with `rest` behind it. -/
def State.canopyHanded (s : State) (rest : List FlowMsg) : State :=
  { s with canopy := { s.canopy with port := ⟨s.canopy.port.view, s.canopy.port.outbox, rest⟩ } }

theorem popFlow_canopy {m : FlowMsg} {rest : List FlowMsg} (h : s.canopy.port.inbox = m :: rest) :
    popFlow .canopy s = s.canopyHanded rest := by
  change ({ s with canopy := { s.canopy with port := { s.canopy.port with inbox := s.canopy.port.inbox.tail } } } : State) = _
  rw [h]
  rfl

/-- The arbiter's lists of refusals once the canopy's is taken (R120). -/
def canopyRefusalTold (tk : Nat) (s : State) : State :=
  { s with arbiter := { s.arbiter with
    refusing := (s.arbiter.refusing.map fun l => l.erase (.canopy, tk)).filter fun l => l ≠ [] } }

/-- The lists of refusals and the failed raise are apart. -/
theorem raiseFailed_canopyRefusalTold (f : CanopyFailure) (p : FlowPort) (tk : Nat) :
    (canopyRefusalTold tk s).raiseFailed f p = canopyRefusalTold tk (s.raiseFailed f p) := by
  unfold State.raiseFailed raiseFlag canopyRefusalTold
  dsimp only [State.flag]
  split <;> rfl

variable {tk : Nat} {rest : List FlowMsg}

theorem canopyGrant_handed : canopyGrant tk (s.canopyHanded rest) = { s with canopy := { s.canopy with
    port := ⟨if s.canopy.state = .raising ∧ s.canopy.port.view = .waiting tk then .held tk else s.canopy.port.view,
      s.canopy.port.outbox, rest⟩ } } := by
  by_cases h : s.canopy.state = .raising ∧ s.canopy.port.view = .waiting tk
  · rw [if_pos h]
    exact if_pos h
  · rw [if_neg h]
    exact if_neg h

theorem canopyTakenBack_mine (hk : s.canopy.state = .raising)
    (hv : s.canopy.port.view = .held tk ∨ s.canopy.port.view = .waiting tk) :
    canopyTakenBack tk (s.canopyHanded rest) = s.raiseFailed .pumpLost ⟨.none, s.canopy.port.outbox, rest⟩ :=
  (if_pos ⟨hk, hv⟩).trans (raiseFails_raising hk)

/-- A take-back of an earlier raise is discarded (log 7). -/
theorem canopyTakenBack_discarded
    (h : s.canopy.state ≠ .raising ∨ ¬ (s.canopy.port.view = .held tk ∨ s.canopy.port.view = .waiting tk)) :
    canopyTakenBack tk (s.canopyHanded rest) = s.canopyHanded rest :=
  if_neg (not_and_or.mpr h)

theorem canopyRefused_waiting (hk : s.canopy.state = .raising) (hv : s.canopy.port.view = .waiting tk) :
    canopyRefused tk s = s.raiseFailed .flowRefused { s.canopy.port with view := .none } :=
  (if_pos ⟨hk, hv⟩).trans
    (raiseFails_raising (s := s.modCanopy fun k => { k with port := { k.port with view := .none } }) hk)

theorem canopyRefused_mine (hk : s.canopy.state = .raising) (hv : s.canopy.port.view = .waiting tk) :
    canopyRefused tk (canopyRefusalTold tk (s.canopyHanded rest)) =
      canopyRefusalTold tk (s.raiseFailed .flowRefused ⟨.none, s.canopy.port.outbox, rest⟩) :=
  (canopyRefused_waiting (s := canopyRefusalTold tk (s.canopyHanded rest)) hk hv).trans
    (raiseFailed_canopyRefusalTold (s := s.canopyHanded rest) ..)

/-- A refusal of an earlier raise is discarded (log 7). -/
theorem canopyRefused_discarded (h : s.canopy.state ≠ .raising ∨ s.canopy.port.view ≠ .waiting tk) :
    canopyRefused tk (canopyRefusalTold tk (s.canopyHanded rest)) = canopyRefusalTold tk (s.canopyHanded rest) :=
  if_neg (not_and_or.mpr h)

end

/-! ### How the canopy's events end -/

section
variable {s v : State} (hs : s.settled)
include hs

theorem canopyLimit_ends {c : Instr} {due : Prop} [Decidable due] {u : State}
    (hc : exec c s = .next (if due then settle u else s)) (hdue : due) (hcalm : Calm [.canopy] s u) (hv : u = v) :
    ∃ t, exec c s = .next t ∧ ends [.canopy] s v t :=
  ⟨_, hc.trans (congrArg Host.Outcome.next (if_pos hdue)), hv ▸ ends_settle hs (by simp) hcalm⟩

theorem pressureChange_ends {high : Bool} (h : nextPressure s = some high)
    (hv : takePressure high (takeCanopyEvent (.pressure high) s) = v) :
    ∃ t, exec .canopyPressureChange s = .next t ∧ ends [.canopy] s v t := by
  refine ⟨settle v, ?_, ends_settle hs (by simp) (hv ▸ (calm_modCanopy _ s _).trans (calm_takePressure _ _ high))⟩
  change execCanopyPressureChange s = _
  unfold execCanopyPressureChange
  rw [h, ← hv]

theorem canopyStopLoopOpen_ends (h : .stopLoop ∈ s.canopy.events) (hv : canopyStops (takeCanopyEvent .stopLoop s) = v) :
    ∃ t, exec .canopyStopLoopOpen s = .next t ∧ ends [.canopy] s v t :=
  canopyLimit_ends hs rfl (by simpa using h) ((calm_modCanopy _ s _).trans (calm_canopyStops _ _)) hv

variable {tk : Nat} {rest : List FlowMsg}

theorem canopyGrantTaken_ends (h : s.canopy.port.inbox = .grant tk :: rest)
    (hv : canopyGrant tk (s.canopyHanded rest) = v) :
    ∃ t, exec .canopyGrantTaken s = .next t ∧ ends [.canopy] s v t := by
  rw [← popFlow_canopy h] at hv
  refine ⟨settle v, ?_, ends_settle hs (by simp) (hv ▸ (calm_popFlow _ s _).trans (calm_canopyGrant _ _ tk))⟩
  change execCanopyGrantTaken s = _
  unfold execCanopyGrantTaken
  rw [h, ← hv]

theorem canopyTakeBack_ends (h : s.canopy.port.inbox = .takeBack tk :: rest)
    (hv : canopyTakenBack tk (s.canopyHanded rest) = v) :
    ∃ t, exec .canopyTakeBack s = .next t ∧ ends [.canopy] s v t := by
  rw [← popFlow_canopy h] at hv
  refine ⟨settle v, ?_, ends_settle hs (by simp) (hv ▸ (calm_popFlow _ s _).trans (calm_canopyTakenBack _ tk))⟩
  change execCanopyTakeBack s = _
  unfold execCanopyTakeBack
  rw [h, ← hv]

/-- A refusal is taken once those ahead of it are (R120). -/
theorem canopyFlowRefusal_ends (h : s.canopy.port.inbox = .refusal tk :: rest)
    (hturn : ∀ l ∈ s.arbiter.refusing, (.canopy, tk) ∈ l → l.head? = some (.canopy, tk))
    (hv : canopyRefused tk (canopyRefusalTold tk (s.canopyHanded rest)) = v) :
    ∃ t, exec .canopyFlowRefusal s = .next t ∧ ends [.canopy] s v t := by
  rw [← popFlow_canopy h, show canopyRefusalTold tk (popFlow .canopy s) = popRefusal .canopy tk s from rfl] at hv
  refine ⟨settle v, ?_, ends_settle hs (by simp) (hv ▸ (calm_popRefusal s _ tk).trans (calm_canopyRefused _ tk))⟩
  change execCanopyFlowRefusal s = _
  unfold execCanopyFlowRefusal
  rw [h, ← hv]
  exact congrArg Host.Outcome.next (if_pos ((mayRefuse_iff ..).mpr hturn))

end

/-- Settles O58: the requests by their checks, the limits by what makes them due, each event by what it leaves. -/
theorem canopyFollowsItsTransitions : Obligations.CanopyFollowsItsTransitions := by
  intro s
  refine ⟨fun tag demand hr => ⟨?_, ?_, ?_, ?_⟩, fun tag hr => ⟨?_, ?_, ?_⟩, ?_, fun st => rfl,
    nextPressure_eq_some_iff s, fun hs => ⟨?_, ?_, ?_, ?_, ?_, ?_, ?_, ?_, ?_, ?_⟩⟩
  · exact fun hd => canopyRaise_refused hr (reqCanopyRaise_range hd)
  · exact fun hd hb => canopyRaise_refused hr (reqCanopyRaise_unbound hd hb)
  · exact fun hd hb h => canopyRaise_refused hr (reqCanopyRaise_state hd hb h)
  · exact fun hd hb hk hl => ⟨_, rfl, hostSends_ends hr
      ((answer_canopyRaise demand s).trans (reqCanopyRaise_accepts hd hb hk hl)) (by simp)
      (.of_eq rfl rfl rfl rfl)⟩
  · exact fun hb => canopyLower_refused hr (reqCanopyLower_unbound hb)
  · exact fun hb h => canopyLower_refused hr (reqCanopyLower_state hb h)
  · exact fun hb h => ⟨_, rfl, hostSends_ends hr ((answer_canopyLower s).trans (reqCanopyLower_accepts hb h)) (by simp)
      (.ite ((calm_canopy s _).trans (calm_handBooms _ _ _)) (calm_canopy s _))⟩
  · exact ⟨limit_only rfl rfl (adoptSetDue_iff s), limit_only rfl rfl (canopySetDue_iff s),
      limit_only rfl rfl (raiseTimeoutDue_iff s), limit_only rfl rfl (canopyLostDue_iff s),
      limit_only rfl rfl (canopyLoweredDue_iff s)⟩
  · exact fun high h => pressureChange_ends hs h (takePressure_taken high)
  · exact fun hk hb ht => canopyLimit_ends hs rfl ((adoptSetDue_iff s).mpr ⟨hk, hb, ht⟩) (calm_canopyEntersSet s _)
      canopyTo_set
  · exact fun hk ht => canopyLimit_ends hs rfl ((canopySetDue_iff s).mpr ⟨hk, ht⟩) (calm_canopyEntersSet s _)
      canopyTo_set
  · exact fun hk ht => canopyLimit_ends hs rfl ((raiseTimeoutDue_iff s).mpr ⟨hk, ht⟩) (calm_raiseFails s _)
      (raiseFails_raising hk)
  · exact fun hk ht => canopyLimit_ends hs rfl ((canopyLostDue_iff s).mpr ⟨hk, ht⟩) (calm_canopyIsLost s)
      (congrArg (raiseFlag .canopy none none 0) (canopyTo_unset (by decide)))
  · exact fun hk ht => canopyLimit_ends hs rfl ((canopyLoweredDue_iff s).mpr ⟨hk, ht⟩) (calm_canopyTo s _)
      (canopyTo_outside (by simp [hk]) (by decide))
  · exact fun h => canopyStopLoopOpen_ends hs h canopyStops_taken
  · exact fun tk rest h => canopyGrantTaken_ends hs h canopyGrant_handed
  · exact fun tk rest h => ⟨fun hk hv => canopyTakeBack_ends hs h (canopyTakenBack_mine hk hv),
      fun hd => canopyTakeBack_ends hs h (canopyTakenBack_discarded hd)⟩
  · exact fun tk rest h hturn => ⟨fun hk hv => canopyFlowRefusal_ends hs h hturn (canopyRefused_mine hk hv),
      fun hd => canopyFlowRefusal_ends hs h hturn (canopyRefused_discarded hd)⟩

end Sys2Proof.Machine
end

section
/-! SUPPORT. LINE_BIND: its operands, its refusals in their order, and what a binding or an unbinding brings about beside the
line (R126, R140, R143 to R146, R149; logs 14, 22, 37). -/

namespace Sys2Proof.Machine

/-! ### Operands (section 10.6, R146) -/

theorem lineIdx_of {b : Byte} {i : Fin 32} (h : b.toNat = i.val + 1) : lineIdx b = some i := by
  unfold lineIdx
  rw [dif_pos (by omega)]
  exact congrArg some (Fin.ext (by dsimp only; omega))

theorem lineIdx_none {b : Byte} (h : b.toNat = 0 ∨ 32 < b.toNat) : lineIdx b = none := dif_neg (by omega)

theorem mem_allFns (f : Fn) : f ∈ allFns := by
  rcases f with ⟨x, f⟩ | _ | _ | _ | _ | _ | _
  case boom => cases x <;> cases f <;> decide
  all_goals decide

/-- No two functions have one code. -/
theorem fnOf_of {b : Byte} {f : Fn} (h : b.toNat = f.code) : fnOf b = some f := by
  have hfound : ∀ f ∈ allFns, (allFns.find? fun g => g.code == f.code) = some f := by decide
  unfold fnOf
  rw [h]
  exact hfound f (mem_allFns f)

theorem fnOf_none {b : Byte} (h : 30 < b.toNat) : fnOf b = none := by
  have hcodes : ∀ f ∈ allFns, f.code ≤ 30 := by decide
  refine List.find?_eq_none.mpr fun f hf => ?_
  have hcode := hcodes f hf
  rw [beq_iff_eq]
  omega

theorem Fn.code_ne_zero (f : Fn) : f.code ≠ 0 := by
  have hcodes : ∀ f ∈ allFns, f.code ≠ 0 := by decide
  exact hcodes f (mem_allFns f)

theorem scalingOf_eq (f : Fn) (full : Word) (off span : Byte) :
    scalingOf f (fromTwo (byteOf (full.toNat / 256)) (byteOf (full.toNat % 256))) off.toNat span.toNat =
      scalingGiven f full off span := by
  rw [fromTwo_byteOf]
  unfold scalingOf scalingGiven
  split <;> simp [inRange_iff]

/-! ### Lines and the functions bound to them (R143 to R145) -/

section
variable {s : State} {f : Fn}

theorem boundTo_iff {l : LineRec} : l.boundTo f = true ↔ ∃ b, l.binding = some b ∧ b.fn = f := by
  simp [LineRec.boundTo]

theorem boundTo_of_other {l : LineRec} {b : Binding} (h : l.binding = some b) (hf : b.fn ≠ f) : l.boundTo f = false := by
  simp [LineRec.boundTo, h, hf]

theorem boundTo_of_unbound {l : LineRec} (h : l.binding = none) : l.boundTo f = false := by
  simp [LineRec.boundTo, h]

/-- A function that is not bound is bound to no line. -/
theorem boundTo_of_bound_false (h : s.bound f = false) (i : Fin 32) : s.lines[i].boundTo f = false := by
  have hnone : s.lineOf f = none := by simpa [State.bound] using h
  have hall := List.find?_eq_none.mp hnone s.lines[i] (by simp)
  simpa using hall

/-- The one line a function is bound to is the function's line. -/
theorem lineOf_of_unique {i : Fin 32} (h : s.lines[i].boundTo f = true) (hu : ∀ j, s.lines[j].boundTo f = true → j = i) :
    s.lineOf f = some s.lines[i] := by
  have hsome : (s.lineOf f).isSome := List.find?_isSome.mpr ⟨s.lines[i], by simp, h⟩
  obtain ⟨l, hl⟩ := Option.isSome_iff_exists.mp hsome
  obtain ⟨j, hj, hget⟩ := List.mem_iff_getElem.mp (List.mem_of_find?_eq_some hl)
  have hto : l.boundTo f = true := List.find?_some (p := (LineRec.boundTo · f)) hl
  have hline : s.lines[(⟨j, by simpa using hj⟩ : Fin 32)] = l := by simpa using hget
  have hji := hu ⟨j, by simpa using hj⟩ (by rwa [hline])
  rw [hl, ← hline, hji]

/-- A line bound anew or unbound: its output value is 0 (R145). -/
def State.withBinding (s : State) (i : Fin 32) (o : Option Binding) : State :=
  { s with lines := s.lines.set i { s.lines[i] with binding := o, outValue := 0 } }

variable {i : Fin 32} {o : Option Binding} {sc : Scaling}

theorem withBinding_line : (s.withBinding i o).lines[i] = { s.lines[i] with binding := o, outValue := 0 } := by
  simp [State.withBinding]

theorem withBinding_line_ne {j : Fin 32} (h : j ≠ i) : (s.withBinding i o).lines[j] = s.lines[j] := by
  have hval : i.val ≠ j.val := fun e => h (Fin.ext e.symm)
  simp [State.withBinding, Vector.getElem_set_ne _ _ hval]

/-- Binding and unbinding leave every line's mask and latch. -/
theorem withBinding_flagged (j : Fin 32) :
    (s.withBinding i o).lines[j].mask = s.lines[j].mask ∧ (s.withBinding i o).lines[j].latch = s.lines[j].latch := by
  by_cases h : j = i
  · rw [h, withBinding_line]
    exact ⟨rfl, rfl⟩
  · rw [withBinding_line_ne h]
    exact ⟨rfl, rfl⟩

/-- A function bound nowhere else has its new line. -/
theorem withBinding_lineOf (h : s.bound f = false) : (s.withBinding i (some ⟨f, sc⟩)).lineOf f =
    some { s.lines[i] with binding := some ⟨f, sc⟩, outValue := 0 } := by
  rw [← withBinding_line]
  refine lineOf_of_unique (boundTo_iff.mpr ⟨⟨f, sc⟩, by rw [withBinding_line], rfl⟩) fun j hj => ?_
  by_contra hne
  rw [withBinding_line_ne hne, boundTo_of_bound_false h] at hj
  exact Bool.false_ne_true hj

end

/-! ### What is on its way (log 22) -/

/-- A boom's list without the events named. -/
def State.withoutEvents (s : State) (x : Side) (gone : BoomEvent → Bool) : State :=
  s.setBoom x { s.boom x with events := (s.boom x).events.filter fun e => !gone e }

theorem dropEvents_eq {s : State} {x : Side} {k : Nat} {gone : BoomEvent → Bool} (h : ∀ e, (e.cls != k) = !gone e) :
    s.dropEvents x k = s.withoutEvents x gone := by
  simp only [State.dropEvents, State.withoutEvents, modBoom_eq, h]

/-- A boom's input function unbound: its events, and no others, are dropped. -/
theorem dropOnWay_boom {s : State} {x : Side} {f : BoomFn} {k : Nat} {gone : BoomEvent → Bool} (hf : f.eventClass = some k)
    (h : ∀ e, (e.cls != k) = !gone e) : dropOnWay (.boom x f) s = s.withoutEvents x gone := by
  rw [← dropEvents_eq h]
  unfold dropOnWay
  simp only [hf]

theorem dropOnWay_pumpOk {s : State} {gone : BoomEvent → Bool} (h : ∀ e, (e.cls != (BoomEvent.pump true).cls) = !gone e) :
    dropOnWay .pumpOk s =
      (({ s with arbiter := { s.arbiter with events := [] } } : State).withoutEvents .a gone).withoutEvents .b gone := by
  rw [← dropEvents_eq h, ← dropEvents_eq h]
  rfl

/-! ### What the effects of LINE_BIND leave alone -/

section
variable (s : State)

theorem calm_dropEvents (n : List Flag) (x : Side) (k : Nat) : Calm n s (s.dropEvents x k) := calm_modBoom n s x _

theorem calm_dropOnWay (n : List Flag) (f : Fn) : Calm n s (dropOnWay f s) := by
  unfold dropOnWay
  split
  · split
    · exact calm_dropEvents s n _ _
    · exact .refl n s
  · exact calm_modCanopy n s _
  · exact ((calm_arbiter s _).trans (calm_dropEvents _ n _ _)).trans (calm_dropEvents _ n _ _)
  · exact .refl n s

theorem calm_openStopLoop (n : List Flag) : Calm n s (openStopLoop s) :=
  Calm.trans (u := { s with stopOpenings := s.stopOpenings + 1 }.handCanopy .stopLoop) (.of_eq rfl rfl rfl rfl)
    (calm_handBooms n _ _)

theorem calm_bindEffect (n : List Flag) (f : Fn) : Calm n s (bindEffect f s) := by
  unfold bindEffect
  split
  · exact .ite (calm_takePressure s n _) (.refl n s)
  · exact .ite ((calm_arbiter s _).trans (calm_grantCheck _)) (.refl n s)
  · exact .ite (.refl n s) (calm_openStopLoop s n)
  · exact .refl n s

theorem calm_pressureUnbound (n : List Flag) : Calm n s (pressureUnbound s) := by
  unfold pressureUnbound
  split
  case h_1 | h_2 | h_3 => exact (calm_modCanopy n s _).trans (calm_canopyTo _ _)
  · exact calm_modCanopy n s _
  · exact .refl n s

/-- Unbinding the stop loop ends the holding; else an unbinding leaves it (R149). -/
theorem calm_unbindEffect (f : Fn) : ∃ h, Calm [.pump] { s with holding := h } (unbindEffect f s) := by
  unfold unbindEffect
  split
  · exact ⟨s.holding, calm_pressureUnbound s _⟩
  · exact ⟨s.holding, .ite (calm_viewFalls s) (.refl _ s)⟩
  · exact ⟨false, .refl _ _⟩
  · exact ⟨s.holding, .refl _ s⟩

end

/-! ### What the effects of LINE_BIND bring about (R126, R145, R149) -/

section
variable {s : State} {l : LineRec}

/-- Unbound canopy pressure: UNKNOWN from SET, LOST or LOWERED; in UNKNOWN the adoption starts anew (log 37). -/
theorem pressureUnbound_eq (s : State) : pressureUnbound s =
    if s.canopy.state = .set ∨ s.canopy.state = .lost ∨ s.canopy.state = .lowered then
      canopyTo .unknown { s with canopy := { s.canopy with settleTime := 0 } }
    else if s.canopy.state = .unknown then { s with canopy := { s.canopy with settleTime := 0 } } else s := by
  unfold pressureUnbound
  rcases hk : s.canopy.state <;> simp [State.modCanopy, hk]

theorem bound_of_lineOf {f : Fn} (h : s.lineOf f = some l) : s.bound f = true := by
  rw [State.bound, h]
  rfl

theorem reads1_of_lineOf {f : Fn} (h : s.lineOf f = some l) : s.reads1 f = l.digital := by
  rw [State.reads1, h]
  rfl

/-- Canopy pressure bound to a line that reads 0 lowers an UNKNOWN canopy at once (R126). -/
theorem bindEffect_canopyPressure (h : s.lineOf .canopyPressure = some l) : bindEffect .canopyPressure s =
    if s.canopy.state = .unknown ∧ l.digital = false then
      { s with canopy := { s.canopy with state := .lowered, settleTime := 0 } }
    else s := by
  change adopt s = _
  unfold adopt
  rw [bound_of_lineOf h, reads1_of_lineOf h]
  simp only [true_and, Bool.not_eq_true']
  split
  · next hk =>
    obtain ⟨hstate, -⟩ := hk
    unfold takePressure
    rw [hstate]
    exact canopyTo_outside (by simp [hstate]) (by decide)
  · rfl

theorem bindEffect_pumpOk (h : s.lineOf .pumpOk = some l) :
    bindEffect .pumpOk s = if l.digital then viewRises s else s := by
  rw [← reads1_of_lineOf h]
  rfl

theorem bindEffect_stopLoop (h : s.lineOf .stopLoop = some l) :
    bindEffect .stopLoop s = if l.digital then s else openStopLoop s := by
  rw [← reads1_of_lineOf h]
  rfl

end

/-! ### How a LINE_BIND ends -/

/-- The end of a request that gave lines new records: beside the lines, the reply and the flags named. -/
theorem answered_beside_lines {named : List Flag} {kind tag : Byte} {body : List Byte} {s u : State} (hs : s.settled)
    (hk : u.link = { s.link with reply := some ⟨kind, tag, body⟩ }) (hf : ∀ g, g ∉ named → u.flag g = s.flag g) :
    answered named kind tag body { s with lines := (settle u).lines } (settle u) := by
  refine ⟨fun i => ⟨⟨_, _, _, rfl⟩, fun _ => rfl⟩, fun g hg hl => ?_, ?_, settle_tx_reply u (by rw [hk]; simp), fun h => ?_⟩
  · refine (settle_flag u g hl fun hi => ?_).trans (hf g hg)
    rw [hf g hg]
    exact offered_of_settled_idle hs (by simpa [hk] using hi) g
  · change (settle u).link = { s.link with reply := some ⟨kind, tag, body⟩, tx := (settle u).link.tx }
    rw [settle_only, hk]
  · rw [settle_tx_busy u (by rw [hk]; exact h), hk]

/-- LINES at the end of an event whose lines have masks and latches as at its start. -/
theorem linesRaised_settle {s u : State}
    (hl : ∀ i : Fin 32, u.lines[i].mask = s.lines[i].mask ∧ u.lines[i].latch = s.lines[i].latch)
    (hf : u.flag .lines = s.flag .lines) : linesRaised s (settle u) := by
  have hmask (i : Fin 32) := (hl i).1
  have hlatch (i : Fin 32) := (hl i).2
  obtain ⟨hraised, -⟩ := settle_linesKept (s := u) (v := u) rfl rfl
  unfold linesRaised at *
  simp only [hraised, hf, hmask, hlatch]

/-- What the field line unit answers to a LINE_BIND. -/
abbrev lineBindAnswer (line fn : Byte) (full : Word) (off span : Byte) (s : State) : Answer :=
  reqLineBind line fn (byteOf (full.toNat / 256)) (byteOf (full.toNat % 256)) off span s

/-- A request that gave the lines new bindings and left `v` ends in `t`: the lines refreshed, LINES by the latches. -/
def rebindEnds (named : List Flag) (tag : Byte) (ls : Vector LineRec 32) (s v t : State) : Prop :=
  t.lines = ls.map (refreshLine t) ∧ answered named 0x89 tag [0] { s with lines := t.lines } t ∧ linesRaised s t ∧
    settlesAnswered 0x89 tag [0] v t

section
variable {s v : State} {named : List Flag} {tag line fn off span : Byte} {full : Word} (hr : s.ready)
include hr

theorem lineBind_refused {st : Status} (h : lineBindAnswer line fn full off span s = refuse st s) :
    exec (.lineBind tag line fn full off span) s = .next (s.withReply 0x89 tag [st.code]) :=
  congrArg Host.Outcome.next (hostSends_same hr ((answer_lineBind line fn full off span s).trans h))

theorem lineBind_ends {i : Fin 32} {o : Option Binding} {h : Bool}
    (ha : lineBindAnswer line fn full off span s = accept [] v)
    (hc : Calm named { s.withBinding i o with holding := h } v) (hn : .lines ∉ named) :
    ∃ t, exec (.lineBind tag line fn full off span) s = .next t ∧ rebindEnds named tag (s.withBinding i o).lines s v t := by
  obtain ⟨hlines, -, hlink, hflag⟩ := hc
  have hexec : hostSends 0x09 tag ([line, fn] ++ wordBytes full ++ [off, span]) s =
      settle { v with link := { v.link with reply := some ⟨0x89, tag, [0]⟩ } } := by
    rw [hostSends_ready hr, (answer_lineBind line fn full off span s).trans ha]
    rfl
  refine ⟨_, congrArg Host.Outcome.next hexec, ?_, answered_beside_lines hr.1 ?_ hflag,
    linesRaised_settle (fun j => ?_) (hflag _ hn), settle_settlesTo _⟩
  · rw [settle_lines, refreshLine_congr (settle_boomA _) (settle_boomB _) (settle_canopy _) (settle_holding _)]
    exact congrArg (fun l : Vector LineRec 32 => l.map _) hlines
  · exact congrArg (fun k : Link => { k with reply := some ⟨0x89, tag, [0]⟩ }) hlink
  · exact (congrArg (fun l : Vector LineRec 32 => l[j].mask = s.lines[j].mask ∧ l[j].latch = s.lines[j].latch)
      hlines).mpr (withBinding_flagged j)

end

/-! ### The requests (R144) -/

section
variable {s : State} {i : Fin 32} {b : Binding}

theorem unbindLine_unbound (h : s.lines[i].binding = none) : unbindLine i s = accept [] s := by
  unfold unbindLine
  dsimp only
  rw [h]

theorem unbindLine_refused (h : s.lines[i].binding = some b) (ha : unbindAllowed s b.fn = false) :
    unbindLine i s = refuse .refusedState s := by
  unfold unbindLine
  dsimp only
  rw [h]
  exact if_pos (by simp [ha])

theorem unbindLine_accepts (h : s.lines[i].binding = some b) (ha : unbindAllowed s b.fn = true) :
    unbindLine i s = accept [] (unbindEffect b.fn (dropOnWay b.fn (s.withBinding i none))) := by
  unfold unbindLine
  dsimp only
  rw [h]
  exact if_neg (by simp [ha])

variable {f : Fn} {sc : Scaling}

theorem bindLine_mode (h : f.requiredMode ≠ s.lines[i].mode) : bindLine i f sc s = refuse .refusedRange s := if_pos h

variable (hm : f.requiredMode = s.lines[i].mode)
include hm

theorem bindLine_owned (h : ∃ b, s.lines[i].binding = some b ∧ b.fn ≠ f) : bindLine i f sc s = refuse .refusedOwned s := by
  obtain ⟨b, hb, hf⟩ := h
  exact (if_neg (not_not.mpr hm)).trans (if_pos (by rw [boundTo_of_other hb hf, hb]; exact ⟨rfl, rfl⟩))

theorem bindLine_elsewhere (h : s.lines[i].binding = none) (hb : s.bound f = true) :
    bindLine i f sc s = refuse .refusedState s :=
  (if_neg (not_not.mpr hm)).trans ((if_neg (by rw [h]; simp)).trans
    (if_pos (by rw [boundTo_of_unbound h]; exact ⟨hb, rfl⟩)))

/-- Past the checks of mode, owner and place, a binding turns on the state condition. -/
theorem bindLine_placed
    (h : (s.lines[i].binding = none ∧ s.bound f = false) ∨ ∃ b, s.lines[i].binding = some b ∧ b.fn = f) :
    bindLine i f sc s =
      if bindAllowed s f = false then refuse .refusedState s
      else if s.lines[i].boundTo f then
        accept [] { s with lines := s.lines.set i { s.lines[i] with binding := some ⟨f, sc⟩ } }
      else accept [] (bindEffect f (s.withBinding i (some ⟨f, sc⟩))) := by
  have howned : ¬ (s.lines[i].binding.isSome = true ∧ (!s.lines[i].boundTo f) = true) := by
    rcases h with ⟨hnone, -⟩ | hown
    · rw [hnone]
      simp
    · rw [boundTo_iff.mpr hown]
      simp
  have helsewhere : ¬ (s.bound f = true ∧ (!s.lines[i].boundTo f) = true) := by
    rcases h with ⟨-, hfree⟩ | hown
    · rw [hfree]
      simp
    · rw [boundTo_iff.mpr hown]
      simp
  unfold bindLine
  dsimp only
  rw [if_neg (not_not.mpr hm), if_neg howned, if_neg helsewhere]
  simp only [Bool.not_eq_true']
  rfl

end

section
variable {s : State} {line fn fullHi fullLo off span : Byte}

theorem reqLineBind_range (h : line.toNat = 0 ∨ 32 < line.toNat ∨ 30 < fn.toNat) :
    reqLineBind line fn fullHi fullLo off span s = refuse .refusedRange s := by
  unfold reqLineBind
  split
  · rfl
  · next i hline =>
    have hfn : 30 < fn.toNat := by
      by_contra hle
      rw [lineIdx_none (by tauto)] at hline
      cases hline
    rw [if_neg (by omega), fnOf_none hfn]

variable {i : Fin 32} (hi : line.toNat = i.val + 1)
include hi

theorem reqLineBind_none (hf : fn.toNat = 0) : reqLineBind line fn fullHi fullLo off span s = unbindLine i s := by
  unfold reqLineBind
  rw [lineIdx_of hi]
  exact if_pos hf

variable {f : Fn} (hf : fn.toNat = f.code) {full : Word}
include hf

theorem lineBindAnswer_fn : lineBindAnswer line fn full off span s =
    ((scalingGiven f full off span).map fun sc => bindLine i f sc s).getD (refuse .refusedRange s) := by
  unfold lineBindAnswer reqLineBind
  rw [lineIdx_of hi, fnOf_of hf]
  dsimp only
  rw [if_neg (by rw [hf]; exact f.code_ne_zero), scalingOf_eq]
  cases scalingGiven f full off span <;> rfl

theorem lineBindAnswer_unfit (h : scalingGiven f full off span = none ∨ f.requiredMode ≠ s.lines[i].mode) :
    lineBindAnswer line fn full off span s = refuse .refusedRange s := by
  rw [lineBindAnswer_fn hi hf]
  rcases hsc : scalingGiven f full off span with _ | sc
  · rfl
  · exact bindLine_mode (h.resolve_left (by simp [hsc]))

theorem lineBindAnswer_scaled {sc : Scaling} (hsc : scalingGiven f full off span = some sc) :
    lineBindAnswer line fn full off span s = bindLine i f sc s := by
  rw [lineBindAnswer_fn hi hf, hsc]
  rfl

end

/-! ### A new scaling -/

/-- A line's refreshing does not depend on its scaling. -/
theorem refreshLine_rescaled (s : State) {l : LineRec} {b c : Binding} (hb : l.binding = some b) (hf : c.fn = b.fn) :
    refreshLine s { l with binding := some c } = { refreshLine s l with binding := some c } := by
  by_cases ho : l.mode.isOut = true
  · rw [refreshLine_out s (l := { l with binding := some c }) ho, refreshLine_out s ho]
    simp only [hb, hf, ne_eq, reduceCtorEq, not_false_eq_true, and_true]
    rfl
  · have hin := eq_false_of_ne_true ho
    rw [refreshLine_input s { l with binding := some c } hin, refreshLine_input s l hin]

/-- A bound line with another binding of the same function. -/
def State.rescaled (s : State) (i : Fin 32) (c : Binding) : State :=
  { s with lines := s.lines.set i { s.lines[i] with binding := some c } }

theorem settled_rescaled {s : State} (hs : s.settled) {i : Fin 32} {b c : Binding} (hb : s.lines[i].binding = some b)
    (hf : c.fn = b.fn) : (s.rescaled i c).settled := by
  have hrefresh : refreshLine (s.rescaled i c) = refreshLine s := refreshLine_congr rfl rfl rfl rfl
  refine ⟨?_, hs.2⟩
  unfold State.linesSettled
  rw [hrefresh]
  unfold State.rescaled
  ext1 j hj
  rw [Vector.getElem_map, Vector.getElem_set]
  split
  · rw [refreshLine_rescaled s hb hf, refreshLine_settled hs.1 i]
  · exact refreshLine_settled hs.1 ⟨j, hj⟩

/-! ### The state conditions (R144) -/

theorem bothIdle_iff (s : State) : s.bothIdle = true ↔ (s.boom .a).phase = .idle ∧ (s.boom .b).phase = .idle := by
  simp [State.bothIdle, State.boom]

theorem bindAllowed_boom (s : State) (x : Side) (f : BoomFn) :
    bindAllowed s (.boom x f) = true ↔ (s.boom x).phase = .idle := beq_iff_eq

theorem bindAllowed_canopy (s : State) {f : Fn} (hf : f = .canopyUp ∨ f = .canopyDown ∨ f = .canopyPressure) :
    (bindAllowed s f = true ↔ s.canopy.state ≠ .raising ∧ s.canopy.state ≠ .lowering) ∧
      unbindAllowed s f = bindAllowed s f := by
  rcases hf with rfl | rfl | rfl <;> simp [bindAllowed, unbindAllowed]

/-! ### Bindings, unbindings and rescalings (R145) -/

section
variable {s : State} {tag line fn off span : Byte} {full : Word} {i : Fin 32} {f : Fn} {sc : Scaling} {b : Binding}
  (hr : s.ready) (hi : line.toNat = i.val + 1)
include hr hi

theorem lineBind_unbinds (hf : fn.toNat = 0) (hb : s.lines[i].binding = some b) (ha : unbindAllowed s b.fn = true) :
    ∃ t, exec (.lineBind tag line fn full off span) s = .next t ∧
      rebindEnds [.pump] tag (s.withBinding i none).lines s (unbindEffect b.fn (dropOnWay b.fn (s.withBinding i none))) t := by
  obtain ⟨h, heffect⟩ := calm_unbindEffect (dropOnWay b.fn (s.withBinding i none)) b.fn
  obtain ⟨hlines, -, hlink, hflag⟩ := calm_dropOnWay (s.withBinding i none) [.pump] b.fn
  have hdropped : Calm [.pump] { s.withBinding i none with holding := h }
      { dropOnWay b.fn (s.withBinding i none) with holding := h } := ⟨hlines, rfl, hlink, hflag⟩
  exact lineBind_ends hr ((reqLineBind_none hi hf).trans (unbindLine_accepts hb ha)) (hdropped.trans heffect) (by simp)

variable (hf : fn.toNat = f.code) (hsc : scalingGiven f full off span = some sc) (hm : f.requiredMode = s.lines[i].mode)
include hf hsc hm

theorem lineBind_binds (hnone : s.lines[i].binding = none) (hb : s.bound f = false) (ha : bindAllowed s f = true) :
    ∃ t, exec (.lineBind tag line fn full off span) s = .next t ∧
      rebindEnds [] tag (s.withBinding i (some ⟨f, sc⟩)).lines s (bindEffect f (s.withBinding i (some ⟨f, sc⟩))) t := by
  have hbinds : bindLine i f sc s = accept [] (bindEffect f (s.withBinding i (some ⟨f, sc⟩))) := by
    rw [bindLine_placed hm (.inl ⟨hnone, hb⟩), ha, boundTo_of_unbound hnone]
    rfl
  exact lineBind_ends (h := s.holding) hr ((lineBindAnswer_scaled hi hf hsc).trans hbinds) (calm_bindEffect _ [] f) (by simp)

/-- A line bound to the function already takes the new scaling, and nothing else changes. -/
theorem lineBind_rescales (h : ∃ b, s.lines[i].binding = some b ∧ b.fn = f) (ha : bindAllowed s f = true) :
    exec (.lineBind tag line fn full off span) s = .next ((s.rescaled i ⟨f, sc⟩).withReply 0x89 tag [0]) := by
  have hbinds : bindLine i f sc s = accept [] (s.rescaled i ⟨f, sc⟩) := by
    rw [bindLine_placed hm (.inr h), ha, boundTo_iff.mpr h]
    rfl
  obtain ⟨b, hb, hfn⟩ := h
  exact congrArg Host.Outcome.next (hostSends_exact hr ((answer_lineBind line fn full off span s).trans
    ((lineBindAnswer_scaled hi hf hsc).trans hbinds)) (settled_rescaled hr.1 hb hfn.symm))

end

/-- Settles O27: the refusals in the order of their checks, each binding and unbinding by what it brings about. -/
theorem lineBindBindsAndUnbinds : Obligations.LineBindBindsAndUnbinds := by
  refine ⟨fun x => ⟨rfl, rfl⟩, fun s => ⟨fun x f => ⟨bindAllowed_boom s x f, bindAllowed_boom s x f⟩, fun f hf => ?_, rfl,
    rfl, fun f hf => ?_⟩, fun s => ⟨fun x => ?_, ?_, rfl, fun f hf => ?_⟩,
    fun tag line fn full off span s hr => ⟨fun h => lineBind_refused hr (reqLineBind_range h),
      fun i hi hf => ⟨fun hnone => ?_, fun b hb => ⟨fun ha => ?_, fun ha => ?_⟩⟩, fun i f hi hf => ⟨fun h => ?_, ?_⟩⟩⟩
  · obtain ⟨hbind, hunbind⟩ := bindAllowed_canopy s hf
    exact ⟨hbind, hunbind ▸ hbind⟩
  · rcases hf with rfl | rfl <;> exact ⟨rfl, bothIdle_iff s⟩
  · refine ⟨?_, ?_, ?_, ?_, ?_, ?_, ?_, ?_⟩ <;> exact dropOnWay_boom rfl fun e => by cases e <;> rfl
  · exact dropOnWay_pumpOk fun e => by cases e <;> rfl
  · simp only [List.mem_cons, List.not_mem_nil, or_false] at hf
    rcases hf with (rfl | rfl | rfl | rfl) | ⟨x, rfl | rfl | rfl | rfl⟩ <;> rfl
  · exact congrArg Host.Outcome.next (hostSends_same hr ((answer_lineBind line fn full off span s).trans
      ((reqLineBind_none hi hf).trans (unbindLine_unbound hnone))))
  · exact lineBind_refused hr ((reqLineBind_none hi hf).trans (unbindLine_refused hb ha))
  · obtain ⟨t, hexec, hlines, hanswered, hraised, hsettles⟩ := lineBind_unbinds (tag := tag) hr hi hf hb ha
    refine ⟨t, hexec, hlines, hanswered, hraised, ?_⟩
    rcases b with ⟨f, sc⟩
    cases f with
    | canopyPressure => exact pressureUnbound_eq (dropOnWay .canopyPressure (s.withBinding i none)) ▸ hsettles
    | _ => exact hsettles
  · exact lineBind_refused hr (lineBindAnswer_unfit hi hf h)
  · intro sc hsc hm
    have hreq := lineBindAnswer_scaled (s := s) hi hf hsc
    refine ⟨fun h => ?_, fun hnone hb => ?_, fun hplaced ha => ?_, fun hown ha => ?_, fun hnone hb ha => ?_⟩
    · exact lineBind_refused hr (hreq.trans (bindLine_owned hm h))
    · exact lineBind_refused hr (hreq.trans (bindLine_elsewhere hm hnone hb))
    · exact lineBind_refused hr (hreq.trans ((bindLine_placed hm hplaced).trans (if_pos ha)))
    · exact lineBind_rescales hr hi hf hsc hm hown ha
    · obtain ⟨t, hexec, hlines, hanswered, hraised, hsettles⟩ := lineBind_binds (tag := tag) hr hi hf hsc hm hnone hb ha
      refine ⟨t, hexec, hlines, hanswered, hraised, ?_⟩
      have hline := withBinding_lineOf (i := i) (sc := sc) hb
      cases f with
      | canopyPressure => exact bindEffect_canopyPressure hline ▸ hsettles
      | pumpOk => exact bindEffect_pumpOk hline ▸ hsettles
      | stopLoop => exact bindEffect_stopLoop hline ▸ hsettles
      | _ => exact hsettles

end Sys2Proof.Machine
end

section
/-! SUPPORT. What an event does beside the field lines: it sets flags by their causes, and leaves lines and link (R167, R168).
Each operation has one lemma, which says it of an event that ends with the operation. -/

namespace Sys2Proof.Machine

/-- From `s` to `u` lines and link stay, and each flag stays or is set by a cause. -/
structure Raises (s u : State) : Prop where
  lines : u.lines = s.lines
  link : u.link = s.link
  flag : ∀ g, u.flag g = s.flag g ∨ ∃ b p r, u.flag g = (raiseFlag g b p r s).flag g

/-! ### Events by their parts -/

section
variable {s u v : State} {x : Side}

/-- A flag that is set stays as it is, whatever causes come (R167). -/
theorem raiseFlag_flag_set {f : Flag} {b : Option Side} {p : Option Pos} {r : Nat} (h : (s.flag f).set = true) :
    (raiseFlag f b p r s).flag f = s.flag f := by rw [raiseFlag_flag, if_pos h]

theorem raiseFlag_flag_congr {f : Flag} {b : Option Side} {p : Option Pos} {r : Nat} (h : u.flag f = s.flag f) :
    (raiseFlag f b p r u).flag f = (raiseFlag f b p r s).flag f := by rw [raiseFlag_flag, raiseFlag_flag, h]

theorem Raises.refl (s : State) : Raises s s := ⟨rfl, rfl, fun _ => .inl rfl⟩

theorem Raises.trans (h : Raises s u) (k : Raises u v) : Raises s v := by
  refine ⟨k.lines.trans h.lines, k.link.trans h.link, fun g => ?_⟩
  obtain hu | ⟨b, p, r, hu⟩ := h.flag g
  · obtain hv | ⟨b, p, r, hv⟩ := k.flag g
    · exact .inl (hv.trans hu)
    · exact .inr ⟨b, p, r, hv.trans (raiseFlag_flag_congr hu)⟩
  · have hset : (u.flag g).set = true := hu ▸ raiseFlag_set g b p r s
    obtain hv | ⟨_, _, _, hv⟩ := k.flag g
    · exact .inr ⟨b, p, r, hv.trans hu⟩
    · exact .inr ⟨b, p, r, (hv.trans (raiseFlag_flag_set hset)).trans hu⟩

theorem Raises.raiseFlag (h : Raises s u) {f : Flag} {b : Option Side} {p : Option Pos} {r : Nat} :
    Raises s (Machine.raiseFlag f b p r u) := by
  refine h.trans ⟨by rw [raiseFlag_only], by rw [raiseFlag_only], fun g => ?_⟩
  by_cases hg : g = f
  · exact .inr ⟨b, p, r, hg ▸ rfl⟩
  · exact .inl (raiseFlag_flag_ne f g b p r u hg)

/-- What sets no flag. -/
theorem Raises.calm (h : Raises s u) (k : Calm [] u v) : Raises s v :=
  h.trans ⟨k.lines, k.link, fun g => .inl (k.flag g (by simp))⟩

theorem Raises.ite {c : Prop} [Decidable c] (h : Raises s u) (k : Raises s v) : Raises s (if c then u else v) := by
  split
  · exact h
  · exact k

/-! ### Plain updates -/

variable (h : Raises s u)
include h

theorem Raises.modBoom {f : Boom → Boom} : Raises s (u.modBoom x f) := h.calm (calm_modBoom [] u x f)

theorem Raises.modCtx {f : HoleCtx → HoleCtx} : Raises s (u.modCtx x f) := h.calm (calm_modCtx [] u x f)

theorem Raises.setCell {q : Pos} {c : Cell} : Raises s (u.setCell q c) := h.calm (calm_setCell [] u q c)

theorem Raises.setSlot {o : Option Slot} : Raises s (u.setSlot x o) := h.calm (calm_setSlot [] u x o)

theorem Raises.askFlow {m : Motion} {d : Nat} : Raises s (Machine.askFlow x m d u) := h.calm (calm_askFlow [] u x m d)

theorem Raises.dropFlow : Raises s (Machine.dropFlow x u) := h.calm (calm_dropFlow [] u x)

/-! ### Pattern table -/

theorem Raises.completionCheck : Raises s (Machine.completionCheck u) :=
  .ite (h.calm (.of_eq (u := { u with complete := true }) rfl rfl rfl rfl)).raiseFlag h

theorem Raises.enterIdle : Raises s (Machine.enterIdle x u) := h.modBoom

theorem Raises.noteReseek : Raises s (Machine.noteReseek x u) := h.modBoom

theorem Raises.seek : Raises s (Machine.seek x u) := by
  rcases seek_cases x u with ⟨q, -, hk⟩ | hk | hk <;> rw [hk]
  · exact h.calm (calm_claimCell u x q)
  · exact h.enterIdle.completionCheck
  · exact h.calm (calm_setBoom [] u x _)

theorem Raises.reseek : Raises s (Machine.reseek x u) := .ite h.seek h

theorem Raises.reseekBoth : Raises s (Machine.reseekBoth u) := h.reseek.reseek

theorem Raises.seekAmong : Raises s (Machine.seekAmong x u) := by
  have hcounted (n : Nat) : Raises s { u with freeCount := n } := h.calm (calm_freeCount u n)
  obtain ⟨n, hk | hk⟩ := seekAmong_eq x u <;> rw [hk]
  · exact (hcounted n).seek
  · exact (hcounted n).reseek.seek

theorem Raises.endContext : Raises s (Machine.endContext x u) := h.calm (calm_endContext u x)

theorem Raises.releaseClaim : Raises s (Machine.releaseClaim x u) := h.calm (calm_releaseClaim u x)

theorem Raises.takeOutcome {d : HoleData} {o : HoleOutcome} : Raises s (Machine.takeOutcome d o u) := by
  unfold Machine.takeOutcome
  refine Raises.completionCheck (h.calm ?_)
  exact .of_eq rfl rfl rfl rfl

/-! ### The end of a hole -/

theorem Raises.placeRecord {d : HoleData} : Raises s (Machine.placeRecord x d u) := by
  unfold Machine.placeRecord
  split
  · exact h.setSlot.raiseFlag
  · exact h.setCell.setSlot.raiseFlag

theorem Raises.handHole {c : HoleCtx} {o : HoleOutcome} : Raises s (Machine.handHole x c o u) :=
  h.takeOutcome.placeRecord.endContext.noteReseek

theorem Raises.enterStopped : Raises s (Machine.enterStopped x u) := h.modBoom

theorem Raises.stopHole {o : HoleOutcome} : Raises s (Machine.stopHole x o u) := by
  unfold Machine.stopHole
  split
  · exact h
  · exact h.handHole.enterStopped.raiseFlag

theorem Raises.secondFailure {f : FaultCode} : Raises s (Machine.secondFailure x f u) := h.modCtx.stopHole

theorem Raises.releaseDone : Raises s (Machine.releaseDone x u) := by
  unfold Machine.releaseDone
  split
  · exact h
  · exact .ite h.handHole.enterIdle h.handHole.seekAmong

theorem Raises.enterHalted {p : Option Pos} {r : Nat} : Raises s (Machine.enterHalted x p r u) :=
  .ite h.modBoom.raiseFlag.enterIdle h.modBoom.raiseFlag

theorem Raises.abortDone : Raises s (Machine.abortDone x u) := by
  unfold Machine.abortDone
  split
  · exact h
  · exact h.handHole.enterHalted

theorem Raises.waitFor {r : WaitReason} : Raises s (Machine.waitFor x r u) := h.modBoom.raiseFlag

theorem Raises.retractDone : Raises s (Machine.retractDone x u) := by
  unfold Machine.retractDone
  split
  · exact h.dropFlow.waitFor
  · exact h.dropFlow.modBoom.waitFor
  · exact h.releaseDone
  · exact h.abortDone
  · exact h

theorem Raises.retractBegins : Raises s (Machine.retractBegins x u) := .ite h.retractDone h

theorem Raises.askRetract : Raises s (Machine.askRetract x u) := .ite h.askFlow.retractBegins h.askFlow

theorem Raises.enterReleasing : Raises s (Machine.enterReleasing x u) := h.dropFlow.modBoom.askRetract

theorem Raises.enterAborting {o : HoleOutcome} {f : Option FaultCode} : Raises s (Machine.enterAborting x o f u) :=
  .ite h.modCtx.dropFlow.modBoom.abortDone h.modCtx.dropFlow.modBoom.askRetract

/-! ### Lateness, suspension, entries -/

theorem Raises.takeLate : Raises s (Machine.takeLate x u) := h.modCtx.enterReleasing

theorem Raises.lateCheck : Raises s (Machine.lateCheck x u) := .ite h.takeLate h

theorem Raises.suspend : Raises s (Machine.suspend x u) := h.dropFlow.modBoom.lateCheck

theorem Raises.heldEntry {ph : Phase} {go : State → State} (hgo : ∀ {v}, Raises s v → Raises s (go v)) :
    Raises s (Machine.heldEntry x ph go u) := .ite h.modBoom.suspend (hgo h.modBoom)

theorem Raises.addHold {f : Holds → Holds} : Raises s (Machine.addHold x f u) :=
  .ite (.ite h.modBoom.suspend h.modBoom) h

theorem Raises.removeHold {f : Holds → Holds} : Raises s (Machine.removeHold x f u) := h.modBoom

/-! ### Drilling -/

theorem Raises.takeBaseFeed : Raises s (Machine.takeBaseFeed x u) := h.modBoom

theorem Raises.enterDrilling : Raises s (Machine.enterDrilling x u) :=
  h.modBoom.heldEntry fun k => .ite k.askFlow.takeBaseFeed k.askFlow

theorem Raises.enterSteelChange : Raises s (Machine.enterSteelChange x u) :=
  h.dropFlow.modBoom.heldEntry fun k => k.askRetract

theorem Raises.enterRetracting : Raises s (Machine.enterRetracting x u) :=
  h.dropFlow.modBoom.heldEntry fun k => k.askRetract

theorem Raises.enterDecisionWait : Raises s (Machine.enterDecisionWait x u) := h.dropFlow.modBoom.waitFor

theorem Raises.moveOn {r : HoleCtx × NextMove} : Raises s (Machine.moveOn x r u) := by
  have hmoved : Raises s ((Machine.dropFlow x u).modBoom x fun b => { b with ctx := some r.1, backOff := false }) :=
    h.dropFlow.modBoom
  unfold Machine.moveOn
  dsimp only
  split
  · exact hmoved.enterDrilling
  · exact hmoved.enterSteelChange
  · exact hmoved.enterRetracting
  · exact hmoved.enterDecisionWait

theorem Raises.assessBoom : Raises s (Machine.assessBoom x u) := by
  unfold Machine.assessBoom
  split
  · exact h
  · exact h.moveOn

theorem Raises.afterRise : Raises s (Machine.afterRise x u) := by
  unfold Machine.afterRise
  split
  · exact h
  · split
    · exact .ite h.dropFlow.enterDrilling h
    · exact .ite h.assessBoom (.ite h.enterSteelChange h)
    · exact h

theorem Raises.raiseDepth {d : Nat} : Raises s (Machine.raiseDepth x d u) := h.modBoom

theorem Raises.judgeFeed {mm : Nat} : Raises s (Machine.judgeFeed x mm u) := by
  have hjudged (r : Int) (c : HoleCtx) : Raises s
      (if c.depth < r then Machine.afterRise x (Machine.raiseDepth x r.toNat u)
       else if r < c.depth then u.modBoom x fun b => { b with stallTime := 0 } else u) :=
    .ite h.raiseDepth.afterRise (.ite h.modBoom h)
  unfold Machine.judgeFeed
  dsimp only
  split
  · exact hjudged _ _
  · exact hjudged _ _
  · exact h

theorem Raises.feedBegins : Raises s (Machine.feedBegins x u) := h.takeBaseFeed.judgeFeed

theorem Raises.goOn {r : HoleCtx × NextMove} : Raises s (Machine.goOn x r u) := .ite h.moveOn.judgeFeed h.moveOn

theorem Raises.startHole : Raises s (Machine.startHole x u) := h.calm (calm_startHole u x)

theorem Raises.takeStall : Raises s (Machine.takeStall x u) := by
  unfold Machine.takeStall
  dsimp only
  split
  · exact h.modBoom
  · exact .ite h.modBoom.enterAborting h.modBoom.modBoom

theorem Raises.addSteel : Raises s (Machine.addSteel x u) := by
  unfold Machine.addSteel
  split
  · exact h
  · exact Raises.goOn (.ite h.modBoom h.modBoom.modBoom)

/-! ### Insertion -/

theorem Raises.selectCartridge : Raises s (Machine.selectCartridge x u) := by
  unfold Machine.selectCartridge
  split
  · exact h
  · split
    · exact h.modBoom.waitFor
    · split
      · exact h.waitFor
      · exact .ite h.modBoom h.waitFor

theorem Raises.enterInserting : Raises s (Machine.enterInserting x u) := h.modBoom.heldEntry fun k => k.selectCartridge

theorem Raises.completePush : Raises s (Machine.completePush x u) := by
  unfold Machine.completePush
  split
  · split
    · exact h.modCtx.selectCartridge
    · exact h
  · exact h

theorem Raises.takeJam : Raises s (Machine.takeJam x u) := by
  unfold Machine.takeJam
  dsimp only
  split
  · exact h.modCtx
  · exact .ite h.modCtx.enterAborting h.modCtx.waitFor

theorem Raises.resumeInserting : Raises s (Machine.resumeInserting x u) := by
  unfold Machine.resumeInserting
  split
  · exact h
  · exact .ite h.modBoom (.ite h h.selectCartridge)

/-! ### Spin and torque -/

theorem Raises.askSpin : Raises s (Machine.askSpin x u) := h.calm (calm_askSpin u x)

theorem Raises.enterSpinning : Raises s (Machine.enterSpinning x u) := h.modBoom.heldEntry fun k => k.askSpin

theorem Raises.computeTorque {bar : Nat} : Raises s (Machine.computeTorque x bar u) := by
  unfold Machine.computeTorque
  dsimp only
  refine .ite ?_ h
  split
  · exact h.modCtx
  · exact .ite h.modCtx.modCtx.enterReleasing h.modCtx

theorem Raises.torqueBegins : Raises s (Machine.torqueBegins x u) := h.modCtx.computeTorque

theorem Raises.askTorque : Raises s (Machine.askTorque x u) := .ite h.takeLate (.ite h.askFlow.torqueBegins h.askFlow)

theorem Raises.enterTorquing : Raises s (Machine.enterTorquing x u) :=
  .ite h.modBoom.takeLate (h.modBoom.heldEntry fun k => k.askTorque)

theorem Raises.takePulse : Raises s (Machine.takePulse x u) := by
  unfold Machine.takePulse
  dsimp only
  refine .ite ?_ h
  split
  · exact h.modCtx
  · exact .ite h.modCtx.modCtx.enterReleasing h.modCtx

theorem Raises.takePressureChange {bar : Nat} : Raises s (Machine.takePressureChange x bar u) :=
  Raises.computeTorque (.ite h.modBoom h)

/-! ### Hand-overs of the arbiter -/

theorem Raises.motionBegins : Raises s (Machine.motionBegins x u) := by
  unfold Machine.motionBegins
  split
  · exact h.feedBegins
  · exact h.feedBegins
  · exact h.retractBegins
  · exact h.retractBegins
  · exact h.retractBegins
  · exact h.retractBegins
  · exact h.modCtx
  · exact h.torqueBegins
  · exact h

theorem Raises.takeGrant {t : Nat} : Raises s (Machine.takeGrant x t u) := .ite (.ite h.takeLate h.modBoom.motionBegins) h

theorem Raises.takeTakeBack {t : Nat} : Raises s (Machine.takeTakeBack x t u) := .ite h.modBoom.askFlow.lateCheck h

theorem Raises.takeRefusal {t : Nat} : Raises s (Machine.takeRefusal x t u) := by
  unfold Machine.takeRefusal
  dsimp only
  refine .ite ?_ h
  split
  · exact h.modBoom.enterAborting
  · exact h.modBoom.enterAborting
  · exact h.modBoom.secondFailure
  · exact h.modBoom.secondFailure
  · exact h.modBoom.enterAborting

/-! ### Events at a boom -/

theorem Raises.confirmAtHole : Raises s (Machine.confirmAtHole x u) := .ite h.modCtx h

theorem Raises.resumeBoom : Raises s (Machine.resumeBoom x u) := by
  unfold Machine.resumeBoom
  split
  · exact h
  · dsimp only
    split
    · exact .ite h.modBoom.askFlow.feedBegins h.modBoom.askFlow
    · exact .ite h.modBoom.askFlow.feedBegins h.modBoom.askFlow
    · exact h.modBoom.askRetract
    · exact h.modBoom.askRetract
    · exact h.modBoom.resumeInserting
    · exact h.modBoom.askSpin
    · exact h.modBoom.askTorque
    · exact h.modBoom

theorem Raises.pressDeadman : Raises s (Machine.pressDeadman x u) := by
  unfold Machine.pressDeadman
  dsimp only
  split
  · exact .ite h.startHole h.removeHold
  · exact .ite h.removeHold.resumeBoom h.removeHold
  · exact h.removeHold

theorem Raises.boomStops : Raises s (Machine.boomStops x u) := by
  unfold Machine.boomStops
  dsimp only
  split
  case h_1 | h_2 => exact h
  case h_3 | h_4 => exact h.enterStopped.raiseFlag
  case h_5 => exact h.releaseClaim.enterStopped.raiseFlag
  all_goals exact h.stopHole

theorem Raises.takeFeedHome : Raises s (Machine.takeFeedHome x u) := .ite h.retractDone h

theorem Raises.takeBoltPresent : Raises s (Machine.takeBoltPresent x u) := .ite h.enterSpinning h

/-! ### Flow and canopy -/

theorem Raises.grantCheck : Raises s (Machine.grantCheck u) := h.calm (calm_grantCheck u)

theorem Raises.viewFalls : Raises s (Machine.viewFalls u) :=
  Raises.raiseFlag ((h.calm (calm_arbiter u _)).calm (calm_handAll _ (fun e => .takeBack e.ticket) _))

theorem Raises.canopyTo {st : CanopyState} : Raises s (Machine.canopyTo st u) := h.calm (calm_canopyTo u st)

theorem Raises.raiseFails {f : CanopyFailure} : Raises s (Machine.raiseFails f u) :=
  ((h.calm (calm_dropCanopyFlow u [])).calm (calm_modCanopy [] _ _)).canopyTo.raiseFlag

theorem Raises.canopyIsLost : Raises s (Machine.canopyIsLost u) := (h.calm (calm_modCanopy [] u _)).canopyTo.raiseFlag

theorem Raises.canopyTakenBack {t : Nat} : Raises s (Machine.canopyTakenBack t u) :=
  .ite (h.calm (calm_modCanopy [] u _)).raiseFails h

theorem Raises.canopyRefused {t : Nat} : Raises s (Machine.canopyRefused t u) :=
  .ite (h.calm (calm_modCanopy [] u _)).raiseFails h

end

end Sys2Proof.Machine
end

section
/-! SUPPORT. Field lines, bindings, flags and LINES kept sound (R136 to R138, R140, R141, R143, R144, R167, R170, R171): by what
sets flags, by new line records, and by the choice of the uplink arbiter. -/

namespace Sys2Proof.Machine

/-- From `s` to `t` the rules of lines, bindings, flags and LINES are kept. -/
structure Keeps (s t : State) : Prop where
  sampled : s.linesSampled → t.linesSampled
  bindings : s.bindingsSound → t.bindingsSound
  flags : s.flagsSound → t.flagsSound
  linesFlag : s.linesFlagKept → t.linesFlagKept

/-- An event before its end: the link stays and the rules are kept. -/
structure Acts (s u : State) : Prop where
  link : u.link = s.link
  keeps : Keeps s u

/-! ### Flags -/

/-- A flag's settings and pending mark agree, and the pending notice is the flag's own. -/
def FlagRec.agrees (f : Flag) (r : FlagRec) : Prop :=
  r.level ≤ 3 ∧ ∀ n, r.pending = some n → n.flag = f ∧ r.set = true ∧ r.enable = true ∧ 1 ≤ r.level

theorem FlagRec.agrees_of_pending_none {f : Flag} {r : FlagRec} (hl : r.level ≤ 3) (hp : r.pending = none) : r.agrees f :=
  ⟨hl, fun n hn => absurd (hp.symm.trans hn) (by simp)⟩

section
variable {s t u v : State}

theorem raiseFlag_agrees {f : Flag} {b : Option Side} {p : Option Pos} {r : Nat} (h : (s.flag f).agrees f) :
    ((raiseFlag f b p r s).flag f).agrees f := by
  rw [raiseFlag_flag]
  split
  · exact h
  · refine ⟨h.1, fun n hn => ?_⟩
    dsimp only at hn
    split at hn
    · next hon =>
      cases hn
      simp only [Bool.and_eq_true, decide_eq_true_eq] at hon
      exact ⟨rfl, rfl, hon.1, hon.2⟩
    · cases hn

theorem flagsSound_congr (h : t.flags = s.flags) (hs : s.flagsSound) : t.flagsSound := by
  unfold State.flagsSound State.flag at *
  rwa [h]

/-- One flag takes another record that agrees. -/
theorem flagsSound_setFlagRec {f : Flag} {r : FlagRec} (hr : r.agrees f) (hs : s.flagsSound) :
    (s.setFlagRec f r).flagsSound := by
  intro g
  by_cases hg : g = f
  · subst hg
    rw [setFlagRec_flag]
    exact hr
  · rw [setFlagRec_flag_ne s r hg]
    exact hs g

/-! ### LINES -/

/-- LINES once set stays set, and no masked latch is set anew. -/
theorem linesFlagKept_mono (hset : (s.flag .lines).set = true → (t.flag .lines).set = true)
    (hl : ∀ i : Fin 32, t.lines[i].mask = true ∧ t.lines[i].latch = true → s.lines[i].mask = true ∧ s.lines[i].latch = true)
    (hs : s.linesFlagKept) : t.linesFlagKept := fun ⟨i, hi⟩ => hset (hs ⟨i, hl i hi⟩)

/-! ### Events in general -/

theorem Keeps.refl (s : State) : Keeps s s := ⟨id, id, id, id⟩

theorem Keeps.trans (h : Keeps s u) (k : Keeps u v) : Keeps s v :=
  ⟨k.sampled ∘ h.sampled, k.bindings ∘ h.bindings, k.flags ∘ h.flags, k.linesFlag ∘ h.linesFlag⟩

/-- Where the lines stay, the flags alone matter. -/
theorem Keeps.of_lines (hl : t.lines = s.lines) (hf : s.flagsSound → t.flagsSound)
    (hk : s.linesFlagKept → t.linesFlagKept) : Keeps s t := by
  refine ⟨fun h => ?_, fun h => ?_, hf, hk⟩
  · unfold State.linesSampled at *
    rwa [hl]
  · unfold State.bindingsSound at *
    rwa [hl]

/-- LINES once set stays set, and the lines stay. -/
theorem linesFlagKept_of_set (hl : t.lines = s.lines) (hset : (s.flag .lines).set = true → (t.flag .lines).set = true) :
    s.linesFlagKept → t.linesFlagKept := linesFlagKept_mono hset fun i hi => by rwa [hl] at hi

theorem Keeps.of_eq (hl : t.lines = s.lines) (hf : t.flags = s.flags) : Keeps s t :=
  .of_lines hl (flagsSound_congr hf) (linesFlagKept_of_set hl fun h => by unfold State.flag at *; rwa [hf])

theorem Acts.refl (s : State) : Acts s s := ⟨rfl, .refl s⟩

theorem Acts.trans (h : Acts s u) (k : Acts u v) : Acts s v := ⟨k.link.trans h.link, h.keeps.trans k.keeps⟩

theorem Acts.of_eq (hl : t.lines = s.lines) (hf : t.flags = s.flags) (hk : t.link = s.link) : Acts s t :=
  ⟨hk, .of_eq hl hf⟩

theorem Acts.ite {c : Prop} [Decidable c] (h : Acts s u) (k : Acts s v) : Acts s (if c then u else v) := by
  split
  · exact h
  · exact k

/-- Causes keep the flags sound (R167, R168), and LINES set. -/
theorem Raises.acts (h : Raises s u) : Acts s u := by
  refine ⟨h.link, .of_lines h.lines (fun hs g => ?_) (linesFlagKept_of_set h.lines fun hset => ?_)⟩
  · obtain hg | ⟨b, p, r, hg⟩ := h.flag g
    · rw [hg]
      exact hs g
    · rw [hg]
      exact raiseFlag_agrees (hs g)
  · obtain hg | ⟨b, p, r, hg⟩ := h.flag .lines
    · rwa [hg]
    · rw [hg]
      exact raiseFlag_set ..

theorem Calm.acts (h : Calm [] s u) : Acts s u := ((Raises.refl s).calm h).acts

/-! ### New line records -/

theorem withLines_flag_ne {ls : Vector LineRec 32} {g : Flag} (h : g ≠ .lines) : (s.withLines ls).flag g = s.flag g := by
  rw [← setLines_eq]
  exact setLines_flag_ne ls s g h

/-- New records take LINES with them where a masked latch has become set (R141). -/
theorem withLines_flag_lines (s : State) (ls : Vector LineRec 32) : (s.withLines ls).flag .lines =
    if ∃ i : Fin 32, (ls[i].mask = true ∧ ls[i].latch = true) ∧ ¬ (s.lines[i].mask = true ∧ s.lines[i].latch = true)
    then (raiseFlag .lines none none 0 s).flag .lines else s.flag .lines := by
  unfold State.withLines State.flag
  dsimp only
  split <;> rfl

/-- New line records are taken: each in its mode's values, the bindings sound; LINES follows by itself. -/
theorem acts_setLines {ls : Vector LineRec 32} (hl : s.linesSampled → ∀ i : Fin 32, ls[i].sampled)
    (hb : s.bindingsSound → ({ s with lines := ls } : State).bindingsSound) : Acts s (setLines ls s) := by
  refine ⟨by rw [setLines_only], fun hs => ?_, fun hs => ?_, fun hs g => ?_, ?_⟩
  · rw [setLines_only]
    exact hl hs
  · rw [setLines_only]
    exact hb hs
  · rw [setLines_eq]
    by_cases hg : g = .lines
    · rw [hg, withLines_flag_lines]
      split
      · exact raiseFlag_agrees (hs .lines)
      · exact hs .lines
    · rw [withLines_flag_ne hg]
      exact hs g
  · rw [setLines_eq]
    rintro hs ⟨i, hi⟩
    rw [withLines_flag_lines]
    split
    · exact raiseFlag_set ..
    · next hnone => exact hs ⟨i, by_contra fun hn => hnone ⟨i, hi, hn⟩⟩

/-- New records that keep each line's mode and binding keep the bindings sound. -/
theorem bindingsSound_congr {ls : Vector LineRec 32}
    (h : ∀ i : Fin 32, ls[i].mode = s.lines[i].mode ∧ ls[i].binding = s.lines[i].binding) (hs : s.bindingsSound) :
    ({ s with lines := ls } : State).bindingsSound := by
  have hmode (i : Fin 32) := (h i).1
  have hbinding (i : Fin 32) := (h i).2
  unfold State.bindingsSound at *
  simpa only [hmode, hbinding] using hs

/-- Every line is changed alike, in neither mode nor binding. -/
theorem acts_mapLines {f : LineRec → LineRec} (hf : ∀ l : LineRec, l.sampled → (f l).sampled)
    (hm : ∀ l, (f l).mode = l.mode ∧ (f l).binding = l.binding) : Acts s (setLines (s.lines.map f) s) :=
  acts_setLines (fun hs i => by simpa using hf _ (hs i)) (bindingsSound_congr fun i => by simpa using hm s.lines[i])

theorem getElem_set_self (ls : Vector LineRec 32) (i : Fin 32) (l : LineRec) : (ls.set i l)[i] = l := by simp

theorem getElem_set_ne (ls : Vector LineRec 32) {i j : Fin 32} (l : LineRec) (h : j ≠ i) : (ls.set i l)[j] = ls[j] := by
  have hval : i.val ≠ j.val := fun e => h (Fin.ext e.symm)
  simp [Vector.getElem_set_ne _ _ hval]

/-- One line takes another record. -/
theorem linesSampled_set {i : Fin 32} {l : LineRec} (hl : l.sampled) (hs : s.linesSampled) (j : Fin 32) :
    (s.lines.set i l)[j].sampled := by
  by_cases hj : j = i
  · rw [hj, getElem_set_self]
    exact hl
  · rw [getElem_set_ne _ _ hj]
    exact hs j

/-- One line takes another record: bound, it is in the mode its function needs, and no other line has the function. -/
theorem bindingsSound_set {i : Fin 32} {l : LineRec} (hs : s.bindingsSound)
    (hl : ∀ b, l.binding = some b → l.mode = b.fn.requiredMode ∧ ∀ j, j ≠ i → s.lines[j].boundTo b.fn = false) :
    ({ s with lines := s.lines.set i l } : State).bindingsSound := by
  have hself : ({ s with lines := s.lines.set i l } : State).lines[i] = l := getElem_set_self ..
  have hother {j : Fin 32} (hj : j ≠ i) : ({ s with lines := s.lines.set i l } : State).lines[j] = s.lines[j] :=
    getElem_set_ne _ _ hj
  have hfree {j : Fin 32} {b c : Binding} (hj : j ≠ i) (hb : l.binding = some b) (hc : s.lines[j].binding = some c)
      (hfn : b.fn = c.fn) : False := by
    have hto := (hl b hb).2 j hj
    rw [boundTo_iff.mpr ⟨c, hc, hfn.symm⟩] at hto
    cases hto
  refine ⟨fun j b hj => ?_, fun j k b c hj hk hfn => ?_⟩
  · by_cases hji : j = i
    · rw [hji, hself] at hj ⊢
      exact (hl b hj).1
    · rw [hother hji] at hj ⊢
      exact hs.1 j b hj
  · by_cases hji : j = i <;> by_cases hki : k = i
    · rw [hji, hki]
    · rw [hji, hself] at hj
      rw [hother hki] at hk
      exact (hfree hki hj hk hfn).elim
    · rw [hother hji] at hj
      rw [hki, hself] at hk
      exact (hfree hji hk hj hfn.symm).elim
    · rw [hother hji] at hj
      rw [hother hki] at hk
      exact hs.2 j k b c hj hk hfn

/-- Where the function a line is bound to stays, and a bound line's mode, the bindings stay sound. -/
theorem bindingsSound_set_same {i : Fin 32} {l : LineRec} (hs : s.bindingsSound)
    (hb : ∀ b, l.binding = some b → ∃ c, s.lines[i].binding = some c ∧ c.fn = b.fn ∧ l.mode = s.lines[i].mode) :
    ({ s with lines := s.lines.set i l } : State).bindingsSound := by
  refine bindingsSound_set hs fun b hl => ?_
  obtain ⟨c, hc, hfn, hm⟩ := hb b hl
  refine ⟨by rw [hm, ← hfn]; exact hs.1 i c hc, fun j hj => eq_false_of_ne_true fun hto => ?_⟩
  obtain ⟨d, hd, hdfn⟩ := boundTo_iff.mp hto
  exact hj (hs.2 j i d c hd hc (hdfn.trans hfn.symm))

theorem acts_setLine {i : Fin 32} {l : LineRec} (hl : s.linesSampled → l.sampled) (hb : l.binding = s.lines[i].binding)
    (hm : l.binding ≠ none → l.mode = s.lines[i].mode) : Acts s (setLine i l s) :=
  acts_setLines (fun hs => linesSampled_set (hl hs) hs) fun hs =>
    bindingsSound_set_same hs fun b hbound => ⟨b, hb ▸ hbound, rfl, hm (by simp [hbound])⟩

/-- A line takes another record with its mask and latch: LINES need not follow. -/
theorem acts_replaceLine {i : Fin 32} {l : LineRec} (hl : s.linesSampled → l.sampled)
    (hb : s.bindingsSound → ({ s with lines := s.lines.set i l } : State).bindingsSound)
    (hx : l.mask = s.lines[i].mask ∧ l.latch = s.lines[i].latch) : Acts s { s with lines := s.lines.set i l } := by
  refine ⟨rfl, fun hs => linesSampled_set (hl hs) hs, hb, flagsSound_congr rfl, linesFlagKept_mono id fun j hj => ?_⟩
  by_cases hji : j = i
  · subst hji
    rw [show ({ s with lines := s.lines.set j l } : State).lines[j] = l from getElem_set_self ..] at hj
    rwa [← hx.1, ← hx.2]
  · rwa [show ({ s with lines := s.lines.set i l } : State).lines[j] = s.lines[j] from getElem_set_ne _ _ hji] at hj

/-! ### Lines by their modes -/

theorem sampled_digitalIn {l : LineRec} (h : l.mode = .digitalIn) :
    l.sampled ↔ l.digital = l.terminalLevel ∧ l.analog = 0 ∧ l.outValue = 0 := by rw [LineRec.sampled, h]

theorem sampled_analogIn {l : LineRec} (h : l.mode = .analogIn) :
    l.sampled ↔ l.digital = false ∧ l.analog = l.term.count ∧ l.outValue = 0 ∧ l.latch = false := by
  rw [LineRec.sampled, h]

theorem sampled_out {l : LineRec} (h : l.mode.isOut = true) : l.sampled ↔ l.analog = 0 := by
  unfold LineRec.sampled
  rcases (isOut_iff _).mp h with hm | hm <;> rw [hm]

theorem refreshLine_sampled (l : LineRec) (h : l.sampled) : (refreshLine s l).sampled := by
  by_cases ho : l.mode.isOut = true
  · rw [sampled_out (by rwa [refreshLine_mode]), refreshLine_only]
    exact (sampled_out ho).mp h
  · rwa [refreshLine_input s l (eq_false_of_ne_true ho)]

theorem acts_settleLines (s : State) : Acts s (settleLines s) :=
  acts_mapLines refreshLine_sampled fun l => ⟨refreshLine_mode s l, refreshLine_binding s l⟩

/-! ### The uplink's choice -/

/-- A notice sent loses its pending mark, and nothing else of its flag changes. -/
theorem keeps_sendNotice (f : Flag) (s : State) : Keeps s (sendNotice f s) := by
  unfold sendNotice
  split
  · exact .refl s
  · refine .of_lines rfl (fun hs => ?_) (linesFlagKept_of_set rfl fun hset => ?_)
    · exact flagsSound_setFlagRec (FlagRec.agrees_of_pending_none (hs f).1 rfl) hs
    · by_cases hf : Flag.lines = f
      · subst hf
        exact (congrArg FlagRec.set (setFlagRec_flag ..)).trans hset
      · exact (congrArg FlagRec.set (setFlagRec_flag_ne s _ hf)).trans hset

theorem keeps_uplinkChoose (r : Bool) (s : State) : Keeps s (uplinkChoose r s) := by
  unfold uplinkChoose
  split
  · exact .of_eq rfl rfl
  · exact keeps_sendNotice _ s
  · exact .of_eq rfl rfl
  · split
    · exact .of_eq rfl rfl
    · exact keeps_sendNotice _ s

theorem keeps_settleUplink (s : State) : Keeps s (settleUplink s) := by
  unfold settleUplink
  split
  · split
    · exact (Keeps.of_eq (s := s) (t := { s with freeCount := s.freeCount + 1 }) rfl rfl).trans (keeps_uplinkChoose _ _)
    · exact keeps_uplinkChoose _ s
  · exact .refl s

theorem keeps_settle (s : State) : Keeps s (settle s) := (acts_settleLines s).keeps.trans (keeps_settleUplink _)

end

end Sys2Proof.Machine
end

section
/-! SUPPORT. What LINE_CONFIG makes of a line (R137, R139, R140; log 20). -/

namespace Sys2Proof.Machine

/-- A line that takes a new sense, with the latch that brings at once (R140). -/
def LineRec.withSense (l : LineRec) (sense : Sense) : LineRec :=
  { l with sense := sense, latch := l.latch || l.latchedBySense sense }

/-- A line that takes another mode: cleared, and its digital state taken anew without an edge (R139). -/
def LineRec.withMode (l : LineRec) (mode : LineMode) (pull : Pull) (mask : Bool) : LineRec :=
  let d : Bool := mode = .digitalIn ∧ ({ l with pull := pull } : LineRec).terminalLevel = true
  { l with
    mode := mode, pull := pull, mask := mask, outValue := 0, latch := false
    analog := if mode = LineMode.analogIn then l.term.count else 0, digital := d, snapshot := d }

/-- The condition of a new sense, as the statements say it (R140). -/
theorem latchedBySense_eq (l : LineRec) (sense : Sense) :
    l.latchedBySense sense = (sense != l.sense && ({ l with sense := sense } : LineRec).condition) := by
  unfold LineRec.latchedBySense LineRec.condition
  rcases l with ⟨mode, pull, old, mask, binding, value, digital, snapshot, latch, analog, term⟩
  cases mode <;> cases sense <;> rfl

/-- An ANALOG_IN line is not evaluated (R140). -/
theorem latchedBySense_analogIn {l : LineRec} (h : l.mode = .analogIn) (sense : Sense) : l.latchedBySense sense = false := by
  unfold LineRec.latchedBySense
  rw [h]
  exact Bool.and_false _

theorem withSense_eq (l : LineRec) (sense : Sense) : l.withSense sense =
    if sense = l.sense then { l with sense := sense }
    else { l with sense := sense, latch := l.latch || ({ l with sense := sense } : LineRec).condition } := by
  unfold LineRec.withSense
  rw [latchedBySense_eq]
  split
  · next h => rw [bne_eq_false_iff_eq.mpr h, Bool.false_and, Bool.or_false]
  · next h => rw [bne_iff_ne.mpr h, Bool.true_and]

/-- A line without an output value reads its terminal in DIGITAL_IN and 0 else (R137). -/
theorem levelNow_cleared {l : LineRec} (h : l.outValue = 0) (holding : Bool) :
    l.levelNow holding = decide (l.mode = .digitalIn ∧ l.terminalLevel = true) := by
  have hdriven : l.driven holding = 0 := by
    unfold LineRec.driven
    rw [h]
    exact ite_self 0
  unfold LineRec.levelNow
  rw [hdriven]
  cases l.mode <;> simp

section
variable {l : LineRec} {holding : Bool} {mode : LineMode} {pull : Pull} {sense : Sense} {mask : Bool}

theorem configLine_same (h : mode = l.mode) :
    configLine holding mode pull sense mask l = ({ l with pull := pull, mask := mask } : LineRec).withSense sense := by
  subst h
  rw [withSense_eq]
  unfold configLine
  simp only [if_true]

theorem configLine_newMode (h : mode ≠ l.mode) :
    configLine holding mode pull sense mask l = (l.withMode mode pull mask).withSense sense := by
  rw [withSense_eq]
  unfold configLine
  simp only [if_neg h, levelNow_cleared]
  rfl

theorem configLine_mode : (configLine holding mode pull sense mask l).mode = mode := by
  by_cases h : mode = l.mode
  · rw [configLine_same h, h]
    rfl
  · rw [configLine_newMode h]
    rfl

theorem configLine_binding : (configLine holding mode pull sense mask l).binding = l.binding := by
  by_cases h : mode = l.mode
  · rw [configLine_same h]
    rfl
  · rw [configLine_newMode h]
    rfl

/-- Outside DIGITAL_IN a configured line has its mode's values (R136 to R138, R140). -/
theorem configLine_sampled (hl : l.sampled) (hm : mode ≠ .digitalIn) :
    (configLine holding mode pull sense mask l).sampled := by
  by_cases h : mode = l.mode
  · rw [configLine_same h]
    by_cases ho : l.mode.isOut = true
    · exact (sampled_out (by exact ho)).mpr ((sampled_out ho).mp hl)
    · have ha : l.mode = .analogIn := ((isOut_eq_false_iff _).mp (eq_false_of_ne_true ho)).resolve_left (h ▸ hm)
      obtain ⟨hd, hc, hv, hx⟩ := (sampled_analogIn ha).mp hl
      refine (sampled_analogIn (by exact ha)).mpr ⟨hd, hc, hv, ?_⟩
      change (l.latch || _) = false
      rw [hx, latchedBySense_analogIn (by exact ha), Bool.or_false]
  · rw [configLine_newMode h]
    by_cases ho : mode.isOut = true
    · refine (sampled_out (by exact ho)).mpr (if_neg fun ha => ?_)
      rw [ha] at ho
      cases ho
    · have ha : mode = .analogIn := ((isOut_eq_false_iff _).mp (eq_false_of_ne_true ho)).resolve_left hm
      refine (sampled_analogIn (by exact ha)).mpr ⟨?_, if_pos ha, rfl, ?_⟩
      · exact decide_eq_false fun hd => hm hd.1
      · exact latchedBySense_analogIn (by exact ha) sense

/-- In DIGITAL_IN a configured line has neither output nor analog value (R136). -/
theorem configLine_cleared (hl : l.sampled) (hm : mode = .digitalIn) :
    (configLine holding mode pull sense mask l).analog = 0 ∧ (configLine holding mode pull sense mask l).outValue = 0 := by
  by_cases h : mode = l.mode
  · rw [configLine_same h]
    exact ((sampled_digitalIn (h ▸ hm)).mp hl).2
  · rw [configLine_newMode h]
    exact ⟨if_neg (by rw [hm]; decide), rfl⟩

end

end Sys2Proof.Machine
end

section
/-! SUPPORT. The events and the requests of the field lines keep lines, bindings, flags and LINES sound (R137 to R149). -/

namespace Sys2Proof.Machine

variable {s u v : State}

/-! ### Edges and values handed on -/

/-- What is handed on sets no flag and changes no line; a rise of the stop loop ends the holding (R149). -/
theorem calm_handEdge (n : List Flag) (fn : Fn) (high : Bool) (s : State) :
    ∃ h, Calm n { s with holding := h } (handEdge fn high s) := by
  have honRise (x : Side) (e : BoomEvent) : Calm n s (if high then s.handBoom x e else s) :=
    .ite (calm_handBoom n s x e) (.refl n s)
  unfold handEdge
  split
  · exact ⟨s.holding, calm_handBoom n s _ _⟩
  · exact ⟨s.holding, honRise _ _⟩
  · exact ⟨s.holding, honRise _ _⟩
  · exact ⟨s.holding, honRise _ _⟩
  · exact ⟨s.holding, honRise _ _⟩
  · exact ⟨s.holding, honRise _ _⟩
  · exact ⟨s.holding, calm_canopy s _⟩
  · exact ⟨s.holding, (calm_arbiter s _).trans (calm_handBooms n _ _)⟩
  · split
    · exact ⟨false, .refl n _⟩
    · exact ⟨s.holding, calm_openStopLoop s n⟩
  · exact ⟨s.holding, .refl n s⟩

theorem calm_handValue (n : List Flag) (b : Binding) (count : Nat) (s : State) : Calm n s (handValue b count s) := by
  unfold handValue
  split
  · exact calm_handBoom n s _ _
  · exact calm_handBoom n s _ _
  · exact .refl n s

/-- The holding is no part of the rules of lines and flags. -/
theorem acts_holding (h : Bool) (s : State) : Acts s { s with holding := h } := .of_eq rfl rfl rfl

theorem acts_handEdge (fn : Fn) (high : Bool) (s : State) : Acts s (handEdge fn high s) := by
  obtain ⟨h, hc⟩ := calm_handEdge [] fn high s
  exact (acts_holding h s).trans hc.acts

/-! ### Terminals (R137, R138) -/

theorem levelNow_digitalIn {l : LineRec} (h : l.mode = .digitalIn) (holding : Bool) :
    l.levelNow holding = l.terminalLevel := by rw [LineRec.levelNow, h]

theorem acts_takeTerminal {i : Fin 32} {l : LineRec} (hm : l.mode = .digitalIn)
    (hl : s.linesSampled → l.analog = 0 ∧ l.outValue = 0) (hb : l.binding = s.lines[i].binding)
    (hbm : l.binding ≠ none → l.mode = s.lines[i].mode) : Acts s (takeTerminal i l s) := by
  have hset : Acts s (setLine i (l.toLevel (l.levelNow s.holding)) s) := by
    rw [toLevel_eq]
    refine acts_setLine (fun hs => ?_) hb hbm
    exact (sampled_digitalIn (by exact hm)).mpr ⟨levelNow_digitalIn hm s.holding, hl hs⟩
  unfold takeTerminal
  dsimp only
  refine .ite hset ?_
  split
  · exact hset.trans (acts_handEdge _ _ _)
  · exact hset

theorem acts_presentLevel (i : Fin 32) (level isOpen : Bool) (s : State) : Acts s (presentLevel i level isOpen s) := by
  unfold presentLevel
  dsimp only
  split
  · next hm => exact acts_takeTerminal hm (fun hs => ((sampled_digitalIn hm).mp (hs i)).2) rfl fun _ => rfl
  · next hm =>
    refine acts_setLine (fun hs => ?_) rfl fun _ => rfl
    have hold := hs i
    by_cases ho : s.lines[i].mode.isOut = true
    · exact (sampled_out (by exact ho)).mpr ((sampled_out ho).mp hold)
    · have ha := ((isOut_eq_false_iff _).mp (eq_false_of_ne_true ho)).resolve_left hm
      exact (sampled_analogIn (by exact ha)).mpr ((sampled_analogIn ha).mp hold)

theorem acts_presentCount (i : Fin 32) (count : Nat) (s : State) : Acts s (presentCount i count s) := by
  unfold presentCount
  dsimp only
  split
  · next h =>
    obtain ⟨ha, -⟩ := h
    have hset : Acts s (setLine i { s.lines[i] with
        term := { s.lines[i].term with count := count }, analog := count } s) := by
      refine acts_setLine (fun hs => ?_) rfl fun _ => rfl
      obtain ⟨hd, -, hv, hx⟩ := (sampled_analogIn ha).mp (hs i)
      exact (sampled_analogIn (by exact ha)).mpr ⟨hd, rfl, hv, hx⟩
    split
    · exact hset.trans (calm_handValue [] _ _ _).acts
    · exact hset
  · next h =>
    refine acts_setLine (fun hs => ?_) rfl fun _ => rfl
    have hold := hs i
    by_cases ho : s.lines[i].mode.isOut = true
    · exact (sampled_out (by exact ho)).mpr ((sampled_out ho).mp hold)
    · rcases (isOut_eq_false_iff _).mp (eq_false_of_ne_true ho) with hm | ha
      · exact (sampled_digitalIn (by exact hm)).mpr ((sampled_digitalIn hm).mp hold)
      · obtain ⟨hd, -, hv, hx⟩ := (sampled_analogIn ha).mp hold
        exact (sampled_analogIn (by exact ha)).mpr ⟨hd, (by_contra fun hn => h ⟨ha, Ne.symm hn⟩), hv, hx⟩

theorem acts_takeOpening (s : State) : Acts s (takeOpening s) := by
  have htaken : Acts s { s with stopOpenings := s.stopOpenings - 1, holding := true } := .of_eq rfl rfl rfl
  exact ((htaken.trans (Raises.refl _).raiseFlag.acts).trans (acts_settleLines _)).trans (acts_holding _ _)

/-! ### Requests on lines -/

theorem acts_reqLineConfig (line mode pull sense mask : Byte) (s : State) :
    Acts s (reqLineConfig line mode pull sense mask s).1 := by
  unfold reqLineConfig
  split
  · dsimp only
    split
    · exact .refl s
    · next i mode pull sense mask _ _ _ _ _ howned =>
      have hbm (hb : (configLine s.holding mode pull sense mask s.lines[i]).binding ≠ none) :
          (configLine s.holding mode pull sense mask s.lines[i]).mode = s.lines[i].mode := by
        rw [configLine_binding] at hb
        rw [configLine_mode]
        exact by_contra fun hn => howned ⟨Option.isSome_iff_ne_none.mpr hb, hn⟩
      dsimp only [accept]
      split
      · next hm =>
        exact acts_takeTerminal (configLine_mode.trans hm) (fun hs => configLine_cleared (hs i) hm) configLine_binding hbm
      · next hm => exact acts_setLine (fun hs => configLine_sampled (hs i) hm) configLine_binding hbm
  · exact .refl s

/-- An output value of 0 suits every mode (R136). -/
theorem sampled_cleared {l : LineRec} (o : Option Binding) (h : l.sampled) :
    ({ l with binding := o, outValue := 0 } : LineRec).sampled := by
  by_cases ho : l.mode.isOut = true
  · exact (sampled_out (by exact ho)).mpr ((sampled_out ho).mp h)
  · rcases (isOut_eq_false_iff _).mp (eq_false_of_ne_true ho) with hm | ha
    · obtain ⟨hd, hc, -⟩ := (sampled_digitalIn hm).mp h
      exact (sampled_digitalIn (by exact hm)).mpr ⟨hd, hc, rfl⟩
    · obtain ⟨hd, hc, -, hx⟩ := (sampled_analogIn ha).mp h
      exact (sampled_analogIn (by exact ha)).mpr ⟨hd, hc, rfl, hx⟩

/-- A line's values do not speak of its binding. -/
theorem sampled_rebound {l : LineRec} (o : Option Binding) : ({ l with binding := o } : LineRec).sampled ↔ l.sampled := Iff.rfl

/-- A line bound anew or unbound: bound, it is in the mode its function needs, and no line has the function yet. -/
theorem acts_withBinding {i : Fin 32} {o : Option Binding}
    (ho : ∀ b, o = some b → s.lines[i].mode = b.fn.requiredMode ∧ s.bound b.fn = false) : Acts s (s.withBinding i o) := by
  refine acts_replaceLine (fun hs => sampled_cleared o (hs i)) (fun hs => bindingsSound_set hs fun b hb => ?_) ⟨rfl, rfl⟩
  obtain ⟨hm, hfree⟩ := ho b hb
  exact ⟨hm, fun j _ => boundTo_of_bound_false hfree j⟩

theorem acts_rescaled {i : Fin 32} {c : Binding} (h : s.lines[i].boundTo c.fn = true) : Acts s (s.rescaled i c) := by
  obtain ⟨d, hd, hfn⟩ := boundTo_iff.mp h
  refine acts_replaceLine (fun hs => (sampled_rebound _).mpr (hs i)) (fun hs => bindingsSound_set_same hs fun b hb => ?_)
    ⟨rfl, rfl⟩
  exact ⟨d, hd, Option.some.inj hb ▸ hfn, rfl⟩

theorem acts_unbindEffect (fn : Fn) (s : State) : Acts s (unbindEffect fn s) := by
  unfold unbindEffect
  split
  · exact (calm_pressureUnbound s []).acts
  · exact .ite (Raises.refl s).viewFalls.acts (.refl s)
  · exact acts_holding false s
  · exact .refl s

theorem acts_unbindLine (i : Fin 32) (s : State) : Acts s (unbindLine i s).1 := by
  unfold unbindLine
  dsimp only
  split
  · exact .refl s
  · split
    · exact .refl s
    · have hunbound : Acts s (s.withBinding i none) := acts_withBinding fun b hb => absurd hb (by simp)
      exact (hunbound.trans (calm_dropOnWay _ [] _).acts).trans (acts_unbindEffect _ _)

theorem acts_bindLine (i : Fin 32) (fn : Fn) (sc : Scaling) (s : State) : Acts s (bindLine i fn sc s).1 := by
  unfold bindLine
  dsimp only
  split
  · exact .refl s
  · next hm =>
    split
    · exact .refl s
    · split
      · exact .refl s
      · next hfree =>
        split
        · exact .refl s
        · split
          · next hto => exact acts_rescaled (c := ⟨fn, sc⟩) hto
          · next hto =>
            have hbound : Acts s (s.withBinding i (some ⟨fn, sc⟩)) := acts_withBinding fun b hb => by
              cases hb
              exact ⟨(not_not.mp hm).symm, eq_false_of_ne_true fun h => hfree ⟨h, by rw [eq_false_of_ne_true hto]; rfl⟩⟩
            exact hbound.trans (calm_bindEffect _ [] fn).acts

theorem acts_reqLineBind (l f hi lo o p : Byte) (s : State) : Acts s (reqLineBind l f hi lo o p s).1 := by
  unfold reqLineBind
  split
  · exact .refl s
  · split
    · exact acts_unbindLine _ s
    · split
      · exact .refl s
      · split
        · exact .refl s
        · exact acts_bindLine _ _ _ s

theorem condition_analogIn {l : LineRec} (h : l.mode = .analogIn) : l.condition = false := by
  unfold LineRec.condition
  rw [h]

/-- A new snapshot and a latch that is clear in ANALOG_IN suit a line's mode (R136, R140). -/
theorem sampled_relatched {l : LineRec} {d x : Bool} (hx : l.mode = .analogIn → x = false) (h : l.sampled) :
    ({ l with snapshot := d, latch := x } : LineRec).sampled := by
  by_cases ho : l.mode.isOut = true
  · exact (sampled_out (by exact ho)).mpr ((sampled_out ho).mp h)
  · rcases (isOut_eq_false_iff _).mp (eq_false_of_ne_true ho) with hm | ha
    · exact (sampled_digitalIn (by exact hm)).mpr ((sampled_digitalIn hm).mp h)
    · obtain ⟨hd, hc, hv, -⟩ := (sampled_analogIn ha).mp h
      exact (sampled_analogIn (by exact ha)).mpr ⟨hd, hc, hv, hx ha⟩

theorem acts_reqLineRead (s : State) : Acts s (reqLineRead s).1 :=
  acts_mapLines (fun _ hl => sampled_relatched (fun ha => condition_analogIn (by exact ha)) hl) fun _ => ⟨rfl, rfl⟩

theorem acts_reqLineWrite (line value : Byte) (s : State) : Acts s (reqLineWrite line value s).1 := by
  unfold reqLineWrite
  split
  · exact .refl s
  · dsimp only
    split
    · exact .refl s
    · next i _ hm =>
      have ho : s.lines[i].mode.isOut = true := by simpa using hm
      split
      · exact .refl s
      · generalize (if s.lines[i].mode = .switchedOut then 1 else 15) = most
        split
        · exact .refl s
        · refine acts_replaceLine (fun hs => ?_) (fun hs => bindingsSound_set_same hs fun b hb => ?_) ⟨rfl, rfl⟩
          · exact (sampled_out (by exact ho)).mpr ((sampled_out ho).mp (hs i))
          · exact ⟨b, hb, rfl, rfl⟩

end Sys2Proof.Machine
end

section
/-! SUPPORT. CLEAR and NOTICE_SET: what they make of each flag (R141, R170, R171). -/

namespace Sys2Proof.Machine

variable {s : State}

/-! ### Flags cleared (R170) -/

/-- A flag cleared, its notice withdrawn. -/
def FlagRec.cleared (r : FlagRec) : FlagRec := { r with set := false, pending := none }

/-- The flags named by a set are cleared one after another. -/
def clearFlags (p : Flag → Bool) (fs : List Flag) (s : State) : State :=
  fs.foldl (fun u f => if p f then clearFlag f u else u) s

theorem clearFlags_cons (p : Flag → Bool) (f : Flag) (fs : List Flag) (s : State) :
    clearFlags p (f :: fs) s = clearFlags p fs (if p f then clearFlag f s else s) := rfl

theorem clearFlags_only (p : Flag → Bool) (fs : List Flag) (s : State) :
    clearFlags p fs s = { s with flags := (clearFlags p fs s).flags } := by
  induction fs generalizing s with
  | nil => rfl
  | cons f fs ih =>
    rw [clearFlags_cons, ih]
    split <;> rfl

theorem clearFlags_flag (p : Flag → Bool) (fs : List Flag) (s : State) (g : Flag) :
    (clearFlags p fs s).flag g = if g ∈ fs ∧ p g = true then (s.flag g).cleared else s.flag g := by
  induction fs generalizing s with
  | nil => simp [clearFlags]
  | cons f fs ih =>
    have hhead : (if p f then clearFlag f s else s).flag g =
        if g = f ∧ p g = true then (s.flag g).cleared else s.flag g := by
      by_cases hg : g = f
      · subst hg
        by_cases hp : p g = true
        · simp [hp, clearFlag, FlagRec.cleared]
        · simp [hp]
      · rw [if_neg (fun h : g = f ∧ p g = true => hg h.1)]
        split
        · exact setFlagRec_flag_ne s _ hg
        · rfl
    rw [clearFlags_cons, ih, hhead]
    by_cases hg : g = f <;> by_cases hm : g ∈ fs <;> by_cases hp : p g = true <;> simp_all [FlagRec.cleared]

end Sys2Proof.Machine
end

section
/-! SUPPORT. Every request, and every arrival at the link, keeps lines, bindings, flags and LINES sound (R164 to R171). -/

namespace Sys2Proof.Machine

variable {s u v : State}

/-! ### CLEAR and NOTICE_SET -/

theorem clearFlag_agrees {f : Flag} {r : FlagRec} (h : r.agrees f) : r.cleared.agrees f :=
  FlagRec.agrees_of_pending_none h.1 rfl

/-- LINES is set again where a masked latch is set (R141). -/
def State.linesAgain (s : State) : State :=
  if s.lines.toList.any (·.flagged) then raiseFlag .lines none none 0 s else s

theorem any_flagged_iff (ls : Vector LineRec 32) :
    ls.toList.any (·.flagged) = true ↔ ∃ i : Fin 32, ls[i].mask = true ∧ ls[i].latch = true := by
  simp only [List.any_eq_true, LineRec.flagged, Bool.and_eq_true]
  constructor
  · rintro ⟨l, hl, hf⟩
    obtain ⟨i, hi, rfl⟩ := List.mem_iff_getElem.mp hl
    exact ⟨⟨i, by simpa using hi⟩, by simpa using hf⟩
  · rintro ⟨i, hf⟩
    exact ⟨ls[i], by simp, hf⟩

theorem raises_linesAgain (s : State) : Raises s s.linesAgain := .ite (Raises.refl s).raiseFlag (.refl s)

theorem linesAgain_kept (s : State) : s.linesAgain.linesFlagKept := by
  have hlines : s.linesAgain.lines = s.lines := (raises_linesAgain s).lines
  rintro hi
  rw [hlines] at hi
  unfold State.linesAgain
  rw [if_pos ((any_flagged_iff _).mpr hi)]
  exact raiseFlag_set ..

/-- What CLEAR leaves: the flags named cleared, and LINES set again where a masked latch is set (R141, R170). -/
def State.clearing (s : State) (named : Nat) : State := (clearFlags (fun f => named.testBit f.code) allFlags s).linesAgain

theorem reqClear_eq (hi lo : Byte) (s : State) : reqClear hi lo s =
    if fromTwo hi lo % 2 = 1 then refuse .refusedRange s
    else accept (twoBytes (flagSet (s.clearing (fromTwo hi lo)))) (s.clearing (fromTwo hi lo)) := rfl

theorem acts_clearing (named : Nat) (s : State) : Acts s (s.clearing named) := by
  have hraises := raises_linesAgain (clearFlags (fun f => named.testBit f.code) allFlags s)
  have honly := clearFlags_only (fun f => named.testBit f.code) allFlags s
  have hlines : (s.clearing named).lines = s.lines := hraises.lines.trans (by rw [honly])
  refine ⟨hraises.link.trans (by rw [honly]), .of_lines hlines (fun hs => ?_) fun _ => linesAgain_kept _⟩
  refine hraises.acts.keeps.flags fun g => ?_
  rw [clearFlags_flag]
  split
  · exact clearFlag_agrees (hs g)
  · exact hs g

theorem acts_reqClear (hi lo : Byte) (s : State) : Acts s (reqClear hi lo s).1 := by
  rw [reqClear_eq]
  split
  · exact .refl s
  · exact acts_clearing _ s

/-- A flag's enable and level replaced, none silenced while its notice is pending (R171). -/
theorem acts_noticeSet {f : Flag} {on : Bool} {level : Nat} (hl : level ≤ 3)
    (hp : on = false ∨ level = 0 → (s.flag f).pending = none) :
    Acts s (s.setFlagRec f { s.flag f with enable := on, level := level }) := by
  refine ⟨rfl, .of_lines rfl (fun hs => flagsSound_setFlagRec ⟨hl, fun n hn => ?_⟩ hs)
    (linesFlagKept_of_set rfl fun hset => ?_)⟩
  · obtain ⟨hown, hset, -⟩ := (hs f).2 n hn
    have hloud : ¬ (on = false ∨ level = 0) := fun h => by simp [hp h] at hn
    exact ⟨hown, hset, by simpa using fun h => hloud (.inl h), Nat.pos_of_ne_zero fun h => hloud (.inr h)⟩
  · by_cases hf : Flag.lines = f
    · subst hf
      rwa [setFlagRec_flag]
    · rwa [setFlagRec_flag_ne s _ hf]

theorem acts_reqNoticeSet (flag enable level : Byte) (s : State) : Acts s (reqNoticeSet flag enable level s).1 := by
  unfold reqNoticeSet
  split
  · split
    · exact .refl s
    · next hl =>
      split
      · exact .refl s
      · next hloud =>
        refine acts_noticeSet (Nat.le_of_not_lt hl) fun h => ?_
        simpa [h, or_comm] using hloud
  · exact .refl s

/-! ### Requests that set flags by their causes alone -/

theorem raises_accept {content : List Byte} (h : Raises s u) : Raises s (accept content u).1 := h

section
variable (s)

theorem raises_reqPatternDefine (xs xe ys ye oA mxA myA oB mxB myB clr : Byte) :
    Raises s (reqPatternDefine xs xe ys ye oA mxA myA oB mxB myB clr s).1 := by
  unfold reqPatternDefine
  split
  · split
    · exact .refl s
    · split
      · exact .refl s
      · exact (Raises.refl s).calm (.of_eq rfl rfl rfl rfl)
  · exact .refl s

theorem raises_reqCellMark (x1 x2 y1 y2 cls : Byte) : Raises s (reqCellMark x1 x2 y1 y2 cls s).1 := by
  unfold reqCellMark
  split
  · exact .refl s
  · split
    · next lo hi _ _ =>
      dsimp only
      iterate 5
        split
        · exact .refl s
      exact ((Raises.refl s).calm (calm_marked [] cls (rectangle lo hi) s)).reseekBoth.completionCheck
    · exact .refl s

theorem raises_reqSkip (boom a b : Byte) : Raises s (reqSkip boom a b s).1 := by
  unfold reqSkip
  split
  · split
    · exact .refl s
    · split
      · exact .refl s
      · split
        · exact ((Raises.refl s).calm (calm_skipCell [] s _ _)).reseekBoth.completionCheck
        · split
          · exact ((Raises.refl s).calm
              (calm_skipCell [] s _ _)).endContext.completionCheck.seekAmong.reseekBoth.completionCheck
          · exact .refl s
        · exact .refl s
  · exact .refl s

theorem raises_reqBoomStart (boom : Byte) : Raises s (reqBoomStart boom s).1 := by
  unfold reqBoomStart
  split
  · exact .refl s
  · iterate 4
      split
      · exact .refl s
    exact (Raises.refl s).modBoom.seek

theorem raises_reqBoomStop (boom : Byte) : Raises s (reqBoomStop boom s).1 := by
  unfold reqBoomStop
  split
  · exact .refl s
  · split
    case h_1 => exact .refl s
    case h_2 | h_3 | h_4 => exact raises_accept (Raises.refl s).enterIdle
    case h_5 => exact raises_accept (Raises.refl s).releaseClaim.enterIdle
    all_goals exact raises_accept (Raises.refl s).modBoom

theorem raises_reqAtHole (boom : Byte) : Raises s (reqAtHole boom s).1 := by
  unfold reqAtHole
  split
  · exact .refl s
  · split
    · exact raises_accept (Raises.refl s).confirmAtHole
    · exact .refl s

theorem raises_proceedFrom {x : Side} {s t : State} (h : proceedFrom x s = some t) : Raises s t := by
  unfold proceedFrom at h
  dsimp only at h
  split at h
  · split at h <;> cases h
    exact (Raises.refl s).addSteel
  · cases h
    exact (Raises.refl s).enterInserting
  · split at h <;> cases h
    exact (Raises.refl s).modBoom.selectCartridge
  · cases h
    exact (Raises.refl s).enterSpinning
  · cases h
    exact (Raises.refl s).seek
  · cases h

theorem raises_reqProceed (boom : Byte) : Raises s (reqProceed boom s).1 := by
  unfold reqProceed
  split
  · exact .refl s
  · split
    · next h => exact raises_proceedFrom h
    · exact .refl s

theorem raises_reqDecide (boom choice hi lo cls : Byte) : Raises s (reqDecide boom choice hi lo cls s).1 := by
  unfold reqDecide
  split
  · dsimp only
    split
    · exact .refl s
    · split
      · split
        · exact raises_accept (Raises.refl s).modBoom.moveOn
        · exact raises_accept (Raises.refl s).modBoom.enterAborting
        · split
          · exact .refl s
          · exact raises_accept (Raises.refl s).modBoom.goOn
        · split
          · exact .refl s
          · split
            · exact .refl s
            · exact raises_accept (Raises.refl s).modBoom.goOn
      · exact .refl s
  · exact .refl s

theorem raises_reqHold (boom : Byte) : Raises s (reqHold boom s).1 := by
  unfold reqHold
  split
  · exact .refl s
  · split
    · exact raises_accept (Raises.refl s).addHold
    · exact .refl s

theorem raises_reqResume (boom : Byte) : Raises s (reqResume boom s).1 := by
  unfold reqResume
  split
  · exact .refl s
  · split
    · exact raises_accept (Raises.refl s).removeHold
    · exact .refl s

theorem raises_reqAbort (boom : Byte) : Raises s (reqAbort boom s).1 := by
  unfold reqAbort
  split
  · exact .refl s
  · split
    case h_1 => exact raises_accept (Raises.refl s).releaseClaim.enterHalted
    case h_13 | h_14 => exact .refl s
    all_goals exact raises_accept (Raises.refl s).enterAborting

theorem raises_reqMagazineLoad (boom purge count : Byte) (kinds : List Byte) :
    Raises s (reqMagazineLoad boom purge count kinds s).1 := by
  unfold reqMagazineLoad
  split
  · dsimp only
    split
    · next x p _ _ _ ks _ =>
      generalize (if p then [] else (s.boom x).magazine) = left
      split
      · exact .refl s
      · exact raises_accept (Raises.refl s).modBoom
    · exact .refl s
  · exact .refl s

theorem raises_reqPumpSet (b : Byte) : Raises s (reqPumpSet b s).1 := by
  unfold reqPumpSet
  dsimp only
  split
  · exact .refl s
  · split
    · exact .refl s
    · exact (Raises.refl s).calm (calm_pumpSet b.toNat s)

theorem raises_reqCanopyRaise (d : Byte) : Raises s (reqCanopyRaise d s).1 := by
  unfold reqCanopyRaise
  dsimp only
  iterate 4
    split
    · exact .refl s
  refine raises_accept (Raises.canopyTo ((Raises.refl s).calm ?_))
  exact .of_eq rfl rfl rfl rfl

theorem raises_reqCanopyLower : Raises s (reqCanopyLower s).1 := by
  have hlower : Raises s (if s.anyWorking || s.loopOpen then refuse .refusedState s
      else accept [byteOf CanopyState.lowering.code]
        (canopyTo .lowering ((dropCanopyFlow s).modCanopy fun k => { k with lowerTime := 0 }))).1 := by
    split
    · exact .refl s
    · exact (((Raises.refl s).calm (calm_dropCanopyFlow s [])).calm (calm_modCanopy [] _ _)).canopyTo
  unfold reqCanopyLower
  split
  · exact .refl s
  · split
    case h_1 | h_2 | h_3 => exact .refl s
    case h_4 | h_5 | h_6 => exact hlower

theorem raises_reqRecordFetch (b : Byte) : Raises s (reqRecordFetch b s).1 := by
  unfold reqRecordFetch
  split
  · exact .refl s
  · split
    · exact .refl s
    · exact (Raises.refl s).setSlot

theorem raises_reqRecordRelease (b c r : Byte) : Raises s (reqRecordRelease b c r s).1 := by
  unfold reqRecordRelease
  split
  · split
    · exact .refl s
    · split
      · exact (Raises.refl s).setSlot
      · exact .refl s
  · exact .refl s

/-! ### The class store's requests -/

theorem acts_reqClassWrite (i : Byte) (r : List Byte) : Acts s (reqClassWrite i r s).1 := by
  unfold reqClassWrite
  split
  · split
    · exact .of_eq rfl rfl rfl
    · exact .refl s
  · exact .refl s

theorem acts_reqStrataWrite (f : Byte) (r : List Byte) : Acts s (reqStrataWrite f r s).1 := by
  unfold reqStrataWrite
  split
  · split
    · exact .of_eq rfl rfl rfl
    · exact .refl s
  · split
    · exact .of_eq rfl rfl rfl
    · exact .refl s
  · exact .refl s

theorem acts_reqTempWrite (b : List Byte) : Acts s (reqTempWrite b s).1 := by
  unfold reqTempWrite
  dsimp only
  split
  · split
    · exact .of_eq rfl rfl rfl
    · exact .refl s
  · exact .refl s

end

/-! ### Reads -/

theorem reqClassRead_same (i : Byte) (s : State) : (reqClassRead i s).1 = s := by
  unfold reqClassRead
  split <;> rfl

theorem reqStrataRead_same (b : Byte) (s : State) : (reqStrataRead b s).1 = s := by
  unfold reqStrataRead
  split <;> rfl

theorem reqCellRead_same (a b : Byte) (s : State) : (reqCellRead a b s).1 = s := by
  unfold reqCellRead
  split <;> rfl

theorem reqBoomRead_same (b : Byte) (s : State) : (reqBoomRead b s).1 = s := by
  unfold reqBoomRead
  split <;> rfl

theorem acts_of_same (h : u = s) : Acts s u := h ▸ .refl s

/-! ### Answers -/

/-- What a block makes of a request of a named kind with a body length of its own. -/
theorem acts_ownerAnswer {kind : Nat} {body : List Byte} {ls : List Nat} (hk : bodyLengths kind = some ls)
    (hb : body.length ∈ ls) (s : State) : Acts s (ownerAnswer kind body s).1 := by
  unfold bodyLengths at hk
  split at hk
  all_goals cases hk
  · match body, List.mem_singleton.mp hb with
    | [], _ => exact .refl s
  · match body, List.mem_singleton.mp hb with
    | [_, _], _ => exact acts_reqClear ..
  · match body, List.mem_singleton.mp hb with
    | [_, _, _], _ => exact acts_reqNoticeSet ..
  · match body, List.mem_singleton.mp hb with
    | [], _ => exact .refl s
  · match body, List.mem_singleton.mp hb with
    | [_, _, _, _, _], _ => exact acts_reqLineConfig ..
  · match body, List.mem_singleton.mp hb with
    | [_, _, _, _, _, _], _ => exact acts_reqLineBind ..
  · match body, List.mem_singleton.mp hb with
    | [], _ => exact acts_reqLineRead s
  · match body, List.mem_singleton.mp hb with
    | [_, _], _ => exact acts_reqLineWrite ..
  · match body, hb with
    | _ :: _, _ => exact acts_reqClassWrite ..
  · match body, List.mem_singleton.mp hb with
    | [_], _ => exact acts_of_same (reqClassRead_same ..)
  · match body, hb with
    | _ :: _, _ => exact acts_reqStrataWrite ..
  · match body, List.mem_singleton.mp hb with
    | [_], _ => exact acts_of_same (reqStrataRead_same ..)
  · exact acts_reqTempWrite ..
  · match body, List.mem_singleton.mp hb with
    | [_, _, _, _, _, _, _, _, _, _, _], _ => exact (raises_reqPatternDefine ..).acts
  · match body, List.mem_singleton.mp hb with
    | [_, _, _, _, _], _ => exact (raises_reqCellMark ..).acts
  · match body, List.mem_singleton.mp hb with
    | [_, _], _ => exact acts_of_same (reqCellRead_same ..)
  · match body, List.mem_singleton.mp hb with
    | [], _ => exact .refl s
  · match body, List.mem_singleton.mp hb with
    | [_], _ => exact (raises_reqBoomStart ..).acts
  · match body, List.mem_singleton.mp hb with
    | [_], _ => exact (raises_reqBoomStop ..).acts
  · match body, List.mem_singleton.mp hb with
    | [_], _ => exact acts_of_same (reqBoomRead_same ..)
  · match body, List.mem_singleton.mp hb with
    | [_], _ => exact (raises_reqAtHole ..).acts
  · match body, List.mem_singleton.mp hb with
    | [_], _ => exact (raises_reqProceed ..).acts
  · match body, List.mem_singleton.mp hb with
    | [_, _, _, _, _], _ => exact (raises_reqDecide ..).acts
  · match body, List.mem_singleton.mp hb with
    | [_], _ => exact (raises_reqHold ..).acts
  · match body, List.mem_singleton.mp hb with
    | [_], _ => exact (raises_reqResume ..).acts
  · match body, List.mem_singleton.mp hb with
    | [_], _ => exact (raises_reqAbort ..).acts
  · match body, List.mem_singleton.mp hb with
    | [_, _, _], _ => exact (raises_reqSkip ..).acts
  · match body, hb with
    | _ :: _ :: _ :: _, _ => exact (raises_reqMagazineLoad ..).acts
  · match body, List.mem_singleton.mp hb with
    | [_], _ => exact (raises_reqPumpSet ..).acts
  · match body, List.mem_singleton.mp hb with
    | [], _ => exact .refl s
  · match body, List.mem_singleton.mp hb with
    | [_], _ => exact (raises_reqCanopyRaise ..).acts
  · match body, List.mem_singleton.mp hb with
    | [], _ => exact (raises_reqCanopyLower s).acts
  · match body, List.mem_singleton.mp hb with
    | [_], _ => exact (raises_reqRecordFetch ..).acts
  · match body, List.mem_singleton.mp hb with
    | [_, _, _], _ => exact (raises_reqRecordRelease ..).acts

theorem acts_answer (kind : Byte) (body : List Byte) (s : State) : Acts s (answer kind body s).1 := by
  unfold answer
  split
  · exact .refl s
  · split
    · exact .refl s
    · next hl =>
      simp only [lengthAllowed, Bool.not_eq_true', Bool.not_eq_false] at hl
      split at hl
      · cases hl
      · next ls hk =>
        simp only [Bool.and_eq_true, List.contains_iff_mem] at hl
        exact acts_ownerAnswer hk hl.1 s

/-! ### The link -/

/-- An event at the link before its end: the transmitter goes on, and the rules are kept. -/
structure Hears (s u : State) : Prop where
  tx : u.link.tx = s.link.tx
  keeps : Keeps s u

theorem Acts.hears (h : Acts s u) : Hears s u := ⟨congrArg Link.tx h.link, h.keeps⟩

theorem Raises.hears (h : Raises s u) : Hears s u := h.acts.hears

theorem Hears.refl (s : State) : Hears s s := ⟨rfl, .refl s⟩

theorem Hears.trans (h : Hears s u) (k : Hears u v) : Hears s v := ⟨k.tx.trans h.tx, h.keeps.trans k.keeps⟩

/-- What the receiver and the queue hold is no part of the rules. -/
theorem hears_link {k : Link} (h : k.tx = s.link.tx) : Hears s { s with link := k } := ⟨h, .of_eq rfl rfl⟩

theorem hears_takeFrame (s : State) : Hears s (takeFrame s) := by
  unfold takeFrame
  split
  · next f rest _ _ =>
    have hqueue : Hears s { s with link := { s.link with queue := rest } } := hears_link rfl
    exact (hqueue.trans (acts_answer f.kind f.body _).hears).trans (hears_link rfl)
  · exact .refl s

theorem hears_linkError (cause : LinkCause) (s : State) : Hears s (linkError cause s) := by
  have hcause : Hears s { s with link := { s.link with lastError := cause } } := hears_link rfl
  exact hcause.trans (Raises.refl _).raiseFlag.hears

theorem hears_frameArrives (f : Frame) (s : State) : Hears s (frameArrives f s) := by
  unfold frameArrives
  split
  · have hqueue : Hears s { s with link := { s.link with queue := s.link.queue ++ [f] } } := hears_link rfl
    exact hqueue.trans (hears_takeFrame _)
  · exact hears_linkError _ s

theorem hears_rx (rx : Option (List Byte)) (s : State) : Hears s { s with link := { s.link with rx := rx } } := hears_link rfl

theorem hears_discard (cause : LinkCause) (s : State) : Hears s (discard cause s) :=
  (hears_rx none s).trans (hears_linkError cause _)

theorem hears_takeByte (bytes : List Byte) (s : State) : Hears s (takeByte bytes s) := by
  unfold takeByte
  split
  · exact .refl s
  · split
    · exact hears_discard _ s
    · split
      · exact hears_rx _ s
      · split
        · split
          · exact (hears_rx none s).trans (hears_frameArrives _ _)
          · exact hears_discard _ s
        · exact hears_discard _ s

theorem hears_receive (data : Byte) (parity stop : Bool) (s : State) : Hears s (receive data parity stop s) := by
  unfold receive
  split
  · split
    · exact hears_rx _ s
    · exact .refl s
  · split
    · exact hears_discard _ s
    · split
      · exact hears_discard _ s
      · exact hears_takeByte _ s

end Sys2Proof.Machine
end

section
/-! SUPPORT. Every command and every step keeps lines, bindings, flags and LINES sound; every command but three ends an event of
which that holds (R136 to R141, R143, R144, R165, R167, R170, R171, R173). -/

namespace Sys2Proof.Machine

variable {s t u : State}

/-! ### RESTART and power-on (R150, R173, R174) -/

theorem restartLine_sampled (holding : Bool) {l : LineRec} (h : l.sampled) : (restartLine holding l).sampled := by
  by_cases ho : l.mode.isOut = true
  · exact (sampled_out (by exact ho)).mpr ((sampled_out ho).mp h)
  · rcases (isOut_eq_false_iff _).mp (eq_false_of_ne_true ho) with hm | ha
    · obtain ⟨-, hc, -⟩ := (sampled_digitalIn hm).mp h
      exact (sampled_digitalIn (by exact hm)).mpr ⟨levelNow_digitalIn (by exact hm) holding, hc, rfl⟩
    · obtain ⟨-, hc, -, -⟩ := (sampled_analogIn ha).mp h
      refine (sampled_analogIn (by exact ha)).mpr ⟨?_, hc, rfl, rfl⟩
      exact (levelNow_cleared rfl holding).trans (decide_eq_false fun hm => by cases ha.symm.trans hm.1)

theorem reevaluate_sampled {l : LineRec} (h : l.sampled) : (reevaluate l).sampled := by
  refine sampled_relatched (d := l.snapshot) (fun ha => ?_) h
  obtain ⟨-, -, -, hx⟩ := (sampled_analogIn ha).mp h
  rw [hx, condition_analogIn ha, ite_self]

/-- No latch is set, so LINES need not be (R141). -/
theorem linesFlagKept_of_clear (h : ∀ i : Fin 32, s.lines[i].latch = false) : s.linesFlagKept := by
  rintro ⟨i, -, hi⟩
  rw [h i] at hi
  cases hi

/-- The part as RESTART clears it, before adoption, START and the condition latches (R150, R173). -/
def State.restarted (s : State) : State :=
  { s with
    pattern := none, cells := .replicate 96 .blank, complete := false, tally := .zero
    boomA := .powerOn, boomB := .powerOn, arbiter := restartedArbiter s, canopy := .powerOn
    lines := s.lines.map (restartLine s.loopOpen), holding := s.loopOpen, stopOpenings := 0
    slotA := none, slotB := none, flags := s.flags.map restartFlag, link := ⟨none, [], none, .idle, .none⟩
    ticket := 0 }

theorem restarted_line (s : State) (i : Fin 32) : s.restarted.lines[i] = restartLine s.loopOpen s.lines[i] :=
  Vector.getElem_map ..

theorem restarted_flag (s : State) (f : Flag) : s.restarted.flag f = restartFlag (s.flag f) := Vector.getElem_map ..

theorem keeps_restarted (s : State) : Keeps s s.restarted := by
  refine ⟨fun hs i => ?_, bindingsSound_congr (s := s) fun i => ?_, fun hs f => ?_, fun _ =>
    linesFlagKept_of_clear fun i => ?_⟩
  · rw [restarted_line]
    exact restartLine_sampled _ (hs i)
  · change s.restarted.lines[i].mode = _ ∧ s.restarted.lines[i].binding = _
    rw [restarted_line]
    exact ⟨rfl, rfl⟩
  · rw [restarted_flag]
    exact FlagRec.agrees_of_pending_none (hs f).1 rfl
  · rw [restarted_line]
    rfl

theorem keeps_restartPart (s : State) : Keeps s (restartPart s) := by
  have hadopted : Raises s.restarted (adopt s.restarted) := (Raises.refl _).calm (calm_bindEffect _ [] .canopyPressure)
  exact ((keeps_restarted s).trans hadopted.raiseFlag.acts.keeps).trans
    (acts_mapLines (f := reevaluate) (fun _ => reevaluate_sampled) fun _ => ⟨rfl, rfl⟩).keeps

/-- A part whose lines and flags stand as after power-on meets every rule. -/
theorem sound_of_powerOn (hl : ∀ i : Fin 32, ∃ t, s.lines[i] = .powerOn t) (hf : s.flags = flagsPowerOn) :
    s.linesSampled ∧ s.bindingsSound ∧ s.flagsSound ∧ s.linesFlagKept := by
  have hunbound (i : Fin 32) (b : Binding) : s.lines[i].binding ≠ some b := by
    obtain ⟨t, ht⟩ := hl i
    rw [ht]
    simp [LineRec.powerOn]
  refine ⟨fun i => ?_, ⟨fun i b hb => (hunbound i b hb).elim, fun i _ b _ hb => (hunbound i b hb).elim⟩, fun f => ?_,
    linesFlagKept_of_clear fun i => ?_⟩
  · obtain ⟨⟨level, isOpen, count⟩, ht⟩ := hl i
    rw [ht]
    exact ⟨by cases isOpen <;> rfl, rfl, rfl⟩
  · have hlevel : ∀ g ∈ allFlags, (flagsPowerOn[g.idx]).level ≤ 3 := by decide
    refine FlagRec.agrees_of_pending_none ?_ (flags_powerOn hf f).1
    unfold State.flag
    rw [hf]
    exact hlevel f (mem_allFlags f)
  · obtain ⟨t, ht⟩ := hl i
    rw [ht]
    rfl

theorem keeps_powerUp (s : State) : Keeps s (powerUp s) := by
  obtain ⟨hsampled, hbindings, hflags, hkept⟩ :=
    sound_of_powerOn (s := powerUp s) (fun i => ⟨s.lines[i].term, Vector.getElem_map ..⟩) rfl
  exact ⟨fun _ => hsampled, fun _ => hbindings, fun _ => hflags, fun _ => hkept⟩

/-! ### The end of sending (R165) -/

theorem keeps_sendingEnds (s : State) : Keeps s (sendingEnds s) := by
  unfold sendingEnds
  split
  · exact .refl s
  · exact keeps_uplinkChoose _ s
  · split
    · exact keeps_restartPart s
    · have hemptied : Keeps s { s with link := { s.link with reply := none } } := .of_eq rfl rfl
      exact ((hemptied.trans (hears_takeFrame _).keeps).trans (acts_settleLines _).keeps).trans (keeps_uplinkChoose _ _)

/-! ### Commands -/

/-- A command changes nothing, or ends an event in which the transmitter went on and the rules were kept. -/
inductive Heard (s : State) : State → Prop where
  | still : Heard s s
  | event {u : State} (h : Hears s u) : Heard s (settle u)

theorem Heard.onCondition {c : Prop} [Decidable c] (h : Hears s u) : Heard s (if c then settle u else s) := by
  split
  · exact .event h
  · exact .still

/-- An event of a boom that sets flags by their causes. -/
theorem heard_onEvent {x : Side} {e : BoomEvent} {f : State → State} (hf : ∀ u, Raises u (f u)) (s : State) :
    Heard s (onEvent x e f s) := .onCondition (((Raises.refl s).calm (calm_takeEvent [] s x e)).trans (hf _)).hears

theorem Heard.onRaise {c : Prop} [Decidable c] (h : Raises s u) : Heard s (if c then settle u else s) :=
  .onCondition h.hears

/-- A hand-over of the arbiter leaves the consumer's list as it is taken. -/
theorem raises_popFlow (k : Consumer) (s : State) : Raises s (popFlow k s) := (Raises.refl s).calm (calm_popFlow [] s k)

theorem raises_popRefusal (k : Consumer) (t : Nat) (s : State) : Raises s (popRefusal k t s) :=
  (Raises.refl s).calm (calm_popRefusal s k t)

theorem raises_requestArrives (k : Consumer) (s : State) : Raises s (requestArrives k s) := by
  unfold requestArrives
  dsimp only
  split
  · exact ((Raises.refl s).calm (calm_setPort [] s k _)).calm (calm_takeRequest _ _ _ _ _)
  · exact .refl s

theorem raises_releaseArrives (k : Consumer) (s : State) : Raises s (releaseArrives k s) := by
  unfold releaseArrives
  dsimp only
  split
  · exact ((Raises.refl s).calm (calm_setPort [] s k _)).calm (calm_takeRelease _ _)
  · exact .refl s

theorem raises_takeCanopyEvent (e : CanopyEvent) (s : State) : Raises s (takeCanopyEvent e s) :=
  (Raises.refl s).calm (calm_modCanopy [] s _)

/-- Every command but power-on, the restart and the end of sending. -/
theorem exec_heard {c : Instr} (hon : c ≠ .powerOn) (hrestart : c ≠ .partRestart) (hsent : c ≠ .frameSent)
    (h : exec c s = .next t) : Heard s t := by
  cases c
  case powerOn => exact absurd rfl hon
  case partRestart => exact absurd rfl hrestart
  case frameSent => exact absurd rfl hsent
  case characterReceived => cases h; exact .event (hears_receive ..)
  case gap => cases h; exact .onCondition (hears_discard _ s)
  case unknownKind | badLength =>
    simp only [exec, execUnknownKind, execBadLength] at h
    split at h <;> cases h
    exact .event (hears_frameArrives _ s)
  case digitalEdge => cases h; exact .event (acts_presentLevel _ _ _ s).hears
  case analogChange => cases h; exact .event (acts_presentCount _ _ s).hears
  case stopLoopOpen => cases h; exact .onCondition (acts_takeOpening s).hears
  case flowRequestArrival => cases h; exact .event (raises_requestArrives _ s).hears
  case flowRelease => cases h; exact .event (raises_releaseArrives _ s).hears
  case pumpFall => cases h; exact .onRaise ((Raises.refl s).calm (calm_arbiter s _)).viewFalls
  case pumpRise => cases h; exact .onRaise (((Raises.refl s).calm (calm_arbiter s _)).calm (calm_arbiter _ _)).grantCheck
  case boomStopLoopOpen => cases h; exact heard_onEvent (fun u => (Raises.refl u).boomStops) s
  case deadmanPress => cases h; exact heard_onEvent (fun u => (Raises.refl u).pressDeadman) s
  case deadmanRelease | boomPumpFall | canopyLossAtBoom =>
    cases h
    exact heard_onEvent (fun u => (Raises.refl u).addHold) s
  case boomPumpRise | canopyRegainAtBoom => cases h; exact heard_onEvent (fun u => (Raises.refl u).removeHold) s
  case atHoleRise => cases h; exact heard_onEvent (fun u => (Raises.refl u).confirmAtHole) s
  case feedHomeRise => cases h; exact heard_onEvent (fun u => (Raises.refl u).takeFeedHome) s
  case cartridgePass => cases h; exact heard_onEvent (fun u => (Raises.refl u).completePush) s
  case boltPresentRise => cases h; exact heard_onEvent (fun u => (Raises.refl u).takeBoltPresent) s
  case rotationPulse => cases h; exact heard_onEvent (fun u => (Raises.refl u).takePulse) s
  case feedPositionChange =>
    cases h
    split
    · exact heard_onEvent (fun u => (Raises.refl u).judgeFeed) s
    · exact .still
  case rotationPressureChange =>
    cases h
    split
    · exact heard_onEvent (fun u => (Raises.refl u).takePressureChange) s
    · exact .still
  case pressureStall | progressStall => cases h; exact .onRaise (Raises.refl s).takeStall
  case backOffEnd => cases h; exact .onRaise (Raises.refl s).modBoom
  case retractTimeout => cases h; exact .onRaise (Raises.refl s).enterAborting
  case secondFailureTimeout => cases h; exact .onRaise (Raises.refl s).secondFailure
  case jam => cases h; exact .onRaise (Raises.refl s).takeJam
  case spinEnd => cases h; exact .onRaise ((Raises.refl s).calm (calm_endSpin s _))
  case holdEnd => cases h; exact .onRaise (Raises.refl s).enterTorquing
  case tensionLate => cases h; exact .onRaise (Raises.refl s).takeLate
  case reSeek => cases h; exact .onRaise (Raises.refl s).seek
  case boomGrantTaken =>
    cases h
    split
    · exact .event (raises_popFlow _ s).takeGrant.hears
    · exact .still
  case boomTakeBack =>
    cases h
    split
    · exact .event (raises_popFlow _ s).takeTakeBack.hears
    · exact .still
  case boomFlowRefusal =>
    cases h
    split
    · exact .onRaise (raises_popRefusal _ _ s).takeRefusal
    · exact .still
  case canopyGrantTaken =>
    cases h
    split
    · exact .event ((raises_popFlow _ s).calm (calm_canopyGrant _ [] _)).hears
    · exact .still
  case canopyTakeBack =>
    cases h
    split
    · exact .event (raises_popFlow _ s).canopyTakenBack.hears
    · exact .still
  case canopyFlowRefusal =>
    cases h
    split
    · exact .onRaise (raises_popRefusal _ _ s).canopyRefused
    · exact .still
  case canopyStopLoopOpen => cases h; exact .onRaise ((raises_takeCanopyEvent _ s).calm (calm_canopyStops _ []))
  case canopyPressureChange =>
    cases h
    split
    · exact .event ((raises_takeCanopyEvent _ s).calm (calm_takePressure _ [] _)).hears
    · exact .still
  case canopyAdoptSet | canopySet => cases h; exact .onRaise ((Raises.refl s).calm (calm_canopyEntersSet s []))
  case raiseTimeout => cases h; exact .onRaise (Raises.refl s).raiseFails
  case canopyLost => cases h; exact .onRaise (Raises.refl s).canopyIsLost
  case canopyLowered => cases h; exact .onRaise (Raises.refl s).canopyTo
  all_goals
    cases h
    exact .event (hears_frameArrives _ s)

theorem exec_keeps {c : Instr} (h : exec c s = .next t) : Keeps s t := by
  by_cases hon : c = .powerOn
  · subst hon
    cases h
    exact keeps_powerUp s
  by_cases hrestart : c = .partRestart
  · subst hrestart
    cases h
    split
    · exact (keeps_restartPart s).trans (keeps_settle _)
    · exact .refl s
  by_cases hsent : c = .frameSent
  · subst hsent
    cases h
    exact (keeps_sendingEnds s).trans (keeps_settle _)
  cases exec_heard hon hrestart hsent h with
  | still => exact .refl s
  | event hears => exact hears.keeps.trans (keeps_settle _)

theorem step_keeps (h : step s = .next t) : Keeps s t := by
  obtain ⟨c, rest, -, hc⟩ | ⟨-, c, -, hc⟩ | ⟨-, rfl⟩ := step_cases s t h
  · have hrest : Keeps s { s with pending := rest } := .of_eq rfl rfl
    exact hrest.trans (exec_keeps hc)
  · exact exec_keeps hc
  · exact .of_eq rfl rfl

theorem reset_sound : State.reset.linesSampled ∧ State.reset.bindingsSound ∧ State.reset.flagsSound ∧
    State.reset.linesFlagKept := sound_of_powerOn (fun i => ⟨.quiet, reset_line i⟩) rfl

/-- Settles O8: what every step keeps of lines and bindings, which the reset meets. -/
theorem stepKeepsLinesToTheirModesAndBindings : Obligations.StepKeepsLinesToTheirModesAndBindings := by
  obtain ⟨-, hbindings, -⟩ := reset_sound
  exact ⟨fun _ _ hs h => (step_keeps h).sampled hs, hbindings, fun _ _ hs h => (step_keeps h).bindings hs⟩

/-- Settles O17: what every step keeps of flags and LINES, which the reset meets. -/
theorem stepKeepsFlagsSound : Obligations.StepKeepsFlagsSound := by
  obtain ⟨-, -, hflags, hkept⟩ := reset_sound
  exact ⟨⟨hflags, fun _ _ hs h => (step_keeps h).flags hs⟩, hkept, fun _ _ hs h => (step_keeps h).linesFlag hs⟩

end Sys2Proof.Machine
end

section
/-! SUPPORT. The end of sending, and the end of every other event (R164, R165; log 10). -/

namespace Sys2Proof.Machine

variable {s t : State}

/-! ### Requests as frames -/

theorem replyKind_eq (kind : Byte) :
    replyKind kind = if 1 ≤ kind.toNat ∧ kind.toNat ≤ 0x3F then kind + 0x80 else 0x80 := by
  unfold replyKind
  simp only [inRange_iff]

/-- A request command is the arrival of its frame. -/
theorem exec_request {c : Instr} {f : Frame} (hf : requestFrame c = some f) (hw : c.wellFormed) :
    exec c s = .next (hostSends f.kind f.tag f.body s) := by
  cases c
  case unknownKind kind tag body | badLength kind tag body =>
    cases hf
    have hlength : ¬ maxBody < body.length := by
      simp only [Instr.wellFormed, Bool.and_eq_true, decide_eq_true_eq] at hw
      omega
    exact if_neg hlength
  all_goals cases hf
  all_goals rfl

/-- A request taken at once: its block's answer, and the end of the event. -/
theorem request_ends (hs : s.ready) {f : Frame} :
    let a := answer f.kind f.body s
    let t := hostSends f.kind f.tag f.body s
    linesRaised a.1 t ∧
      settlesTo { a.1 with link := { s.link with reply := some ⟨replyKind f.kind, f.tag, a.2⟩ } } t := by
  have hlink := (acts_answer f.kind f.body s).link
  have hsends := hostSends_ready hs f.kind f.tag f.body
  rw [hlink] at hsends
  intro a t
  rw [show t = _ from hsends]
  obtain ⟨hraised, -⟩ := settle_linesKept (s := a.1)
    (v := { a.1 with link := { s.link with reply := some ⟨replyKind f.kind, f.tag, a.2⟩ } }) rfl rfl
  exact ⟨hraised, settle_settlesTo _⟩

/-! ### The choice at the end of sending -/

/-- With its lines settled and the transmitter sending, an event's end changes nothing. -/
theorem settle_sending (hl : s.linesSettled) (hx : s.link.tx ≠ .idle) : settle s = s := settle_still s hl fun hi => absurd hi hx

/-- Settled lines stay so where link and flags change. -/
theorem linesSettled_beside {k : Link} {fs : Vector FlagRec 15} (hl : s.linesSettled) :
    ({ s with link := k, flags := fs } : State).linesSettled :=
  linesSettled_congr hl rfl rfl (ownerCommand_congr (fun x => by cases x <;> rfl) rfl rfl)

/-- The reply in the slot is taken first (R165). -/
theorem uplinkChoose_reply {f : Frame} (hr : s.link.reply = some f) : uplinkChoose true s = s.sending .reply := by
  unfold uplinkChoose
  rw [hr]
  cases nextNotice s <;> rfl

theorem uplinkChoose_notice {g : Flag} {n : Notice} (hr : s.link.reply = none) (hc : s.chooses g n) :
    uplinkChoose true s = s.sendingNotice g n := by
  unfold uplinkChoose
  rw [hr, nextNotice_eq_some hc]
  exact sendNotice_eq hc.1

theorem uplinkChoose_nothing (hr : s.link.reply = none) (hn : ∀ g n, ¬ s.offers g n) :
    uplinkChoose true s = s.sending .idle := by
  unfold uplinkChoose
  rw [hr, nextNotice_eq_none_iff.mpr hn]
  rfl

/-! ### The end of sending -/

theorem sendingEnds_notice {n : Notice} (hx : s.link.tx = .notice n) : sendingEnds s = uplinkChoose true s := by
  unfold sendingEnds
  rw [hx]

/-- After a reply that is not the OK of a RESTART the slot empties and a queued request is taken (R164, R165). -/
theorem sendingEnds_reply {f : Frame} (hx : s.link.tx = .reply) (hr : s.link.reply = some f)
    (hno : ¬ (f.kind = 0x84 ∧ f.body = [0])) : sendingEnds s =
      uplinkChoose true (settleLines (takeFrame { s with link := { s.link with reply := none } })) := by
  have hplain : restartSending s = false := by
    unfold restartSending isRestartReply
    rw [hr]
    simpa [Status.code] using fun _ => not_and.mp hno
  unfold sendingEnds
  rw [hx]
  exact if_neg (by simp [hplain])

/-- A frame has been sent and no request waits. -/
def State.sentAlone (s : State) : Prop :=
  (∃ f, s.link.tx = .reply ∧ s.link.reply = some f ∧ s.link.queue = [] ∧ ¬ (f.kind = 0x84 ∧ f.body = [0])) ∨
    ∃ m, s.link.tx = .notice m ∧ s.link.reply = none

theorem sendingEnds_alone (hs : s.settled) (h : s.sentAlone) :
    sendingEnds s = uplinkChoose true { s with link := { s.link with reply := none } } := by
  obtain ⟨f, hx, hr, hq, hno⟩ | ⟨m, hx, hr⟩ := h
  · have hnone : takeFrame { s with link := { s.link with reply := none } } =
        { s with link := { s.link with reply := none } } := by
      unfold takeFrame
      rw [show ({ s with link := { s.link with reply := none } } : State).link.queue = [] from hq]
    rw [sendingEnds_reply hx hr hno, hnone, settleLines_eq _ (linesSettled_beside hs.1)]
  · rw [sendingEnds_notice hx, ← hr]

/-- A reply waits behind a notice. -/
theorem frameSent_reply (hs : s.settled) {n : Notice} {f : Frame} (hx : s.link.tx = .notice n) (hr : s.link.reply = some f) :
    settle (sendingEnds s) = { s with link := { s.link with tx := .reply } } := by
  rw [sendingEnds_notice hx, uplinkChoose_reply hr]
  exact settle_sending (linesSettled_beside hs.1) Transmitter.noConfusion

theorem frameSent_notice (hs : s.settled) (h : s.sentAlone) {g : Flag} {n : Notice} (hc : s.chooses g n) :
    settle (sendingEnds s) = { s.setFlagRec g { s.flag g with pending := none } with
      link := { s.link with reply := none, tx := .notice n } } := by
  rw [sendingEnds_alone hs h, uplinkChoose_notice (s := { s with link := { s.link with reply := none } }) rfl hc]
  exact settle_sending (linesSettled_beside hs.1) Transmitter.noConfusion

theorem frameSent_nothing (hs : s.settled) (h : s.sentAlone) (hn : ∀ g n, ¬ s.offers g n) :
    settle (sendingEnds s) = { s with link := { s.link with reply := none, tx := .idle } } := by
  rw [sendingEnds_alone hs h, uplinkChoose_nothing (s := { s with link := { s.link with reply := none } }) rfl hn]
  exact settle_still _ (linesSettled_beside hs.1) fun _ => ⟨rfl, nextNotice_eq_none_iff.mpr hn⟩

/-- The part as a queued request leaves it after a reply: answered, and the answer being sent (R164). -/
def State.tookNext (s : State) (q : Frame) (rest : List Frame) : State :=
  let a := answer q.kind q.body { s with link := { s.link with queue := rest, reply := none } }
  { a.1 with link := { s.link with queue := rest, reply := some ⟨replyKind q.kind, q.tag, a.2⟩, tx := .reply } }

theorem frameSent_next {f q : Frame} {rest : List Frame} (hx : s.link.tx = .reply) (hr : s.link.reply = some f)
    (hno : ¬ (f.kind = 0x84 ∧ f.body = [0])) (hq : s.link.queue = q :: rest) :
    settle (sendingEnds s) = settle (s.tookNext q rest) := by
  have hlink := (acts_answer q.kind q.body { s with link := { s.link with queue := rest, reply := none } }).link
  have htaken : takeFrame { s with link := { s.link with reply := none } } = s.tookNext q rest := by
    unfold takeFrame State.tookNext
    rw [show ({ s with link := { s.link with reply := none } } : State).link.queue = q :: rest from hq]
    dsimp only
    rw [hlink, ← hx]
  have hbusy : (s.tookNext q rest).link.tx ≠ .idle := Transmitter.noConfusion
  have hlines : settleLines (s.tookNext q rest) = settle (s.tookNext q rest) := by
    unfold settle
    rw [settleUplink_busy]
    rw [settleLines_only]
    exact hbusy
  have hsent : (settle (s.tookNext q rest)).link.tx = .reply := settle_tx_busy _ hbusy
  rw [sendingEnds_reply hx hr hno, htaken, hlines, uplinkChoose_reply (settle_reply _)]
  have hsending : (settle (s.tookNext q rest)).sending .reply = settle (s.tookNext q rest) := by
    unfold State.sending
    rw [← hsent]
  rw [hsending]
  exact settle_sending (settle_linesSettled _) (by rw [hsent]; exact Transmitter.noConfusion)

/-- Settles O16: requests by their answers, every other event by what a command can do, and the end of sending by what waits. -/
theorem sendingEndsWithTheNextChoice : Obligations.SendingEndsWithTheNextChoice := by
  refine ⟨replyKind_eq, fun c f s hs hf hw => ⟨_, exec_request hf hw, request_ends hs⟩, fun c s t hon hrestart hsent h => ?_,
    fun s hs => ⟨fun n f hx hr => ?_, fun f g n hend hc => ?_, fun f hend hn => ?_, fun f q rest hx hr hno hq => ?_⟩⟩
  · cases exec_heard hon hrestart hsent h with
    | still => exact .inl rfl
    | event hears => exact .inr ⟨_, hears.tx, hears.keeps.flags, settle_settlesTo _⟩
  · exact congrArg Host.Outcome.next (frameSent_reply hs hx hr)
  · exact congrArg Host.Outcome.next (frameSent_notice hs (hend.imp (fun h => ⟨f, h⟩) id) hc)
  · exact congrArg Host.Outcome.next (frameSent_nothing hs (hend.imp (fun h => ⟨f, h⟩) id) hn)
  · have hnext : (s.tookNext q rest).withLines ((s.tookNext q rest).lines.map (refreshLine (s.tookNext q rest))) =
        settle (s.tookNext q rest) := by
      rw [← setLines_eq]
      exact (settleUplink_busy _ (by rw [setLines_only]; exact Transmitter.noConfusion)).symm
    obtain ⟨hraised, -⟩ := settle_linesKept (v := s.tookNext q rest)
      (s := (answer q.kind q.body { s with link := { s.link with queue := rest, reply := none } }).1) rfl rfl
    intro a v t
    rw [show t = settle (s.tookNext q rest) from hnext]
    exact ⟨congrArg Host.Outcome.next (frameSent_next hx hr hno hq), hraised⟩

end Sys2Proof.Machine
end

section
/-! SUPPORT. The end of an event that gave lines new records (R140, R141, R147). -/

namespace Sys2Proof.Machine

variable {s v : State} {ls : Vector LineRec 32}

/-! ### Lines refreshed -/

/-- Where one settled line takes another record, it alone is refreshed anew. -/
theorem map_refreshLine_set (hs : s.linesSettled) (i : Fin 32) (l : LineRec) :
    (s.lines.set i l).map (refreshLine s) = s.lines.set i (refreshLine s l) := by
  rw [Vector.map_set, show s.lines.map (refreshLine s) = s.lines from hs]

/-- A level that stays is no edge (R140). -/
@[simp] theorem latchAfter_self (l : LineRec) : l.latchAfter l.digital = l.latch := by simp [LineRec.latchAfter]

/-- An unbound output drives its output value, whatever the stop loop does (R149). -/
theorem refreshLine_unbound_out (s : State) {l : LineRec} (ho : l.mode.isOut = true) (hb : l.binding = none) :
    refreshLine s l =
      { l with digital := decide (0 < l.outValue), latch := l.latchAfter (decide (0 < l.outValue)) } := by
  rw [refreshLine_out s ho]
  simp [hb]

/-- A line that drives its output value as it stands, and takes no command, is as refreshed. -/
theorem refreshLine_still (s : State) {l : LineRec} (hb : l.binding = none)
    (hd : l.mode.isOut = true → l.digital = decide (0 < l.outValue)) : refreshLine s l = l := by
  by_cases ho : l.mode.isOut = true
  · rw [refreshLine_unbound_out s ho hb, ← hd ho, latchAfter_self]
  · exact refreshLine_input s l (eq_false_of_ne_true ho)

/-- What a line drives and commands in settled lines does not turn on its pull, sense, mask, snapshot or latch. -/
theorem refreshLine_alike {l k : LineRec} (hl : refreshLine s l = l)
    (hk : k.mode = l.mode ∧ k.binding = l.binding ∧ k.outValue = l.outValue ∧ k.digital = l.digital) :
    refreshLine s k = k := by
  obtain ⟨hm, hb, hv, hd⟩ := hk
  by_cases ho : l.mode.isOut = true
  · have hvalue := congrArg LineRec.outValue hl
    have hdigital := congrArg LineRec.digital hl
    rw [refreshLine_out s ho] at hvalue hdigital
    dsimp only at hvalue hdigital
    rw [refreshLine_out s (hm ▸ ho), hb, hv]
    dsimp only
    rw [hdigital, hvalue, ← hd, latchAfter_self, ← hb, ← hv]
  · exact refreshLine_input s k (hm ▸ eq_false_of_ne_true ho)

/-! ### LINES by the new records -/

theorem linesRaised_withLines (s : State) (ls : Vector LineRec 32) : linesRaised s (s.withLines ls) := by
  unfold linesRaised
  rw [withLines_flag_lines]
  split
  · next h => exact ⟨fun _ => .inr h, fun _ => raiseFlag_set ..⟩
  · next h => exact (or_iff_left h).symm

/-- Records with masks and latches as they were leave LINES alone. -/
theorem withLines_same (h : ∀ i : Fin 32, ls[i].mask = s.lines[i].mask ∧ ls[i].latch = s.lines[i].latch) :
    s.withLines ls = { s with lines := ls } := by
  unfold State.withLines
  rw [if_neg]
  rintro ⟨i, hi, hn⟩
  rw [(h i).1, (h i).2] at hi
  exact hn hi

/-- A new record either keeps its line's mask and latch, or stays as it is when the lines are refreshed. -/
def quietly (s v : State) (ls : Vector LineRec 32) : Prop :=
  ∀ i : Fin 32, (ls[i].mask = s.lines[i].mask ∧ ls[i].latch = s.lines[i].latch) ∨ refreshLine v ls[i] = ls[i]

/-- LINES at the end of an event whose lines took new records: each latch counts from the event's start. -/
theorem linesRaised_settle_relined (hl : v.lines = ls) (hf : v.flag .lines = (s.withLines ls).flag .lines)
    (hq : quietly s v ls) : linesRaised s (settle v) := by
  obtain ⟨hended, -⟩ := settle_linesKept (s := v) (v := v) rfl rfl
  have htaken := linesRaised_withLines s ls
  have hrec : (s.withLines ls).lines = ls := rfl
  have hline (i : Fin 32) : (settle v).lines[i] = refreshLine v ls[i] := by
    rw [settle_lines, hl]
    simp
  unfold linesRaised at *
  rw [hended, hf, htaken, hrec, hl, or_assoc]
  refine or_congr_right ⟨?_, fun ⟨i, hi, hn⟩ => ?_⟩
  · rintro (⟨i, hi, hn⟩ | ⟨i, hi, hn⟩)
    · exact ⟨i, by rw [hline]; exact refreshLine_masked _ _ hi, hn⟩
    · refine ⟨i, hi, ?_⟩
      obtain ⟨hm, hx⟩ | hstill := hq i
      · rwa [← hm, ← hx]
      · exact absurd (by rwa [hline, hstill] at hi) hn
  · by_cases hm : ls[i].mask = true ∧ ls[i].latch = true
    · exact .inl ⟨i, hm, hn⟩
    · exact .inr ⟨i, hi, hm⟩

/-! ### How such an event ends -/

/-- From `s` the lines take the records `ls`, LINES with them; then what is handed on leaves `v`. -/
structure Relined (s : State) (ls : Vector LineRec 32) (v : State) : Prop where
  handed : ∃ h, Calm [] { s.withLines ls with holding := h } v
  quiet : quietly s v ls

theorem Relined.lines (h : Relined s ls v) : v.lines = ls := h.handed.choose_spec.lines

theorem Relined.link (h : Relined s ls v) : v.link = s.link := h.handed.choose_spec.link

theorem Relined.flag (h : Relined s ls v) (g : Flag) : v.flag g = (s.withLines ls).flag g :=
  h.handed.choose_spec.flag g List.not_mem_nil

theorem Relined.flag_ne (h : Relined s ls v) {g : Flag} (hg : g ≠ .lines) : v.flag g = s.flag g :=
  (h.flag g).trans (withLines_flag_ne hg)

/-- The records are taken and nothing is handed on. -/
theorem Relined.taken (hq : quietly s (s.withLines ls) ls) : Relined s ls (s.withLines ls) :=
  ⟨⟨s.holding, .refl [] _⟩, hq⟩

theorem refreshLine_settle (v : State) : refreshLine (settle v) = refreshLine v :=
  refreshLine_congr (settle_boomA _) (settle_boomB _) (settle_canopy _) (settle_holding _)

/-- Beside the lines, such an event changes LINES and what an idle transmitter begins to send. -/
theorem Relined.ends (h : Relined s ls v) (hs : s.settled) :
    linesRaised s (settle v) ∧ (settle v).lines = ls.map (refreshLine (settle v)) ∧ settlesTo v (settle v) ∧
      surround [] { s with lines := (settle v).lines } (settle v) := by
  refine ⟨linesRaised_settle_relined h.lines (h.flag _) h.quiet,
    by rw [refreshLine_settle, settle_lines, h.lines], settle_settlesTo v,
    fun i => ⟨⟨_, _, _, rfl⟩, fun _ => rfl⟩, fun g _ hg => ?_, ?_, fun hx => ?_⟩
  · refine (settle_flag v g hg fun hi => ?_).trans (h.flag_ne hg)
    rw [h.flag_ne hg]
    exact offered_of_settled_idle hs (h.link ▸ hi) g
  · rw [settle_only, h.link]
  · rw [settle_tx_busy v (by rw [h.link]; exact hx), h.link]

/-- The same for a request that is answered at once. -/
theorem Relined.ends_answered (h : Relined s ls v) (hs : s.ready) {kind tag : Byte} {body reply : List Byte}
    (ha : answer kind body s = (v, reply)) :
    let t := hostSends kind tag body s
    settlesAnswered (replyKind kind) tag reply v t ∧
      answered [] (replyKind kind) tag reply { s with lines := t.lines } t ∧ linesRaised s t ∧
      t.lines = ls.map (refreshLine v) ∧ refreshLine t = refreshLine v := by
  intro t
  let w : State := { v with link := { v.link with reply := some ⟨replyKind kind, tag, reply⟩ } }
  have ht : t = settle w := by
    rw [show t = _ from hostSends_ready hs kind tag body, ha]
  have hlines : w.lines = ls := h.lines
  have hrefresh : refreshLine w = refreshLine v := refreshLine_congr rfl rfl rfl rfl
  have hquiet : quietly s w ls := by
    unfold quietly
    rw [hrefresh]
    exact h.quiet
  have hbeside : ∀ g, g ∉ [Flag.lines] → w.flag g = s.flag g := fun g hg => h.flag_ne (mt List.mem_singleton.mpr hg)
  obtain ⟨houtputs, hflags, hlink⟩ := answered_beside_lines (named := [.lines]) (u := w) hs.1
    (congrArg (fun k : Link => { k with reply := some ⟨replyKind kind, tag, reply⟩ }) h.link) hbeside
  rw [ht]
  exact ⟨settle_settlesTo w, ⟨houtputs, fun g _ hg => hflags g (mt List.mem_singleton.mp hg) hg, hlink⟩,
    linesRaised_settle_relined hlines (h.flag _) hquiet,
    by rw [settle_lines, hlines, hrefresh], (refreshLine_settle w).trans hrefresh⟩

theorem refreshLine_withLines (s : State) (ls : Vector LineRec 32) : refreshLine (s.withLines ls) = refreshLine s :=
  refreshLine_congr rfl rfl rfl rfl

/-- A request that gave lines new records, which the end of the event leaves as they are. -/
theorem relined_answered {kind tag : Byte} {body reply : List Byte} (hs : s.ready)
    (hstill : ∀ i : Fin 32, refreshLine s ls[i] = ls[i]) (ha : answer kind body s = (s.withLines ls, reply)) :
    let t := hostSends kind tag body s
    settlesAnswered (replyKind kind) tag reply (s.withLines t.lines) t ∧
      answered [] (replyKind kind) tag reply { s with lines := t.lines } t ∧ linesRaised s t ∧ t.lines = ls := by
  intro t
  have hlaid : Relined s ls (s.withLines ls) := .taken fun i => .inr (by rw [refreshLine_withLines, hstill])
  obtain ⟨hends, hanswered, hraised, hlines, -⟩ := hlaid.ends_answered hs (tag := tag) ha
  have hmap : ls.map (refreshLine s) = ls := by
    ext1 i hi
    simpa using hstill ⟨i, hi⟩
  have hls : t.lines = ls := by rw [show t.lines = _ from hlines, refreshLine_withLines, hmap]
  exact ⟨hls ▸ hends, hanswered, hraised, hls⟩

end Sys2Proof.Machine
end

section
/-! SUPPORT. LINE_READ (R142). -/

namespace Sys2Proof.Machine

/-- The bytes of a line, each mark by its weight (section 10.6). -/
theorem lineBytes_eq (l : LineRec) : lineBytes l =
    [byteOf l.mode.code, byteOf (l.pull.code + 4 * l.sense.code + if l.mask then 32 else 0),
      byteOf ((l.binding.map (·.fn.code)).getD 0), byteOf l.outValue,
      byteOf ((if l.digital then 1 else 0) + (if l.latch then 2 else 0) + if l.snapshot then 4 else 0)] ++
    twoBytes l.analog := by
  unfold lineBytes
  rcases l with ⟨mode, pull, sense, mask, binding, value, digital, snapshot, latch, analog, term⟩
  cases mask <;> cases digital <;> cases latch <;> cases snapshot <;> rfl

/-- A line read: its snapshot taken anew, an edge latch cleared, a condition latch set where its condition holds (R142). -/
theorem rereadLine_eq (l : LineRec) : rereadLine l =
    { l with
      snapshot := l.digital
      latch := match l.mode, l.sense with
        | .analogIn, _ => false
        | _, .lowLevel => !l.digital
        | _, .highLevel => l.digital
        | _, _ => false } := by
  have hchange : (l.digital != l.digital) = false := bne_self_eq_false _
  unfold rereadLine LineRec.condition
  rcases l with ⟨mode, pull, sense, mask, binding, value, digital, snapshot, latch, analog, term⟩
  cases mode <;> cases sense <;> simp

section
variable {s : State}

/-- The records after LINE_READ are as refreshed: reading changes no output. -/
theorem refreshLine_reread (hs : s.linesSettled) (i : Fin 32) :
    refreshLine s (rereadLine s.lines[i]) = rereadLine s.lines[i] :=
  refreshLine_alike (refreshLine_settled hs i) ⟨rfl, rfl, rfl, rfl⟩

end

/-- Settles O24: the bytes of each line, and the event that gives every line its reread record. -/
theorem lineReadReportsAndTakesTheSnapshots : Obligations.LineReadReportsAndTakesTheSnapshots := by
  intro tag s hs body
  have hbody : 0 :: s.lines.toList.flatMap lineBytes = body := by
    rw [funext lineBytes_eq]
  have ha : answer 0x0A [] s = (s.withLines (s.lines.map rereadLine), body) := by
    rw [answer_lineRead, ← hbody, ← setLines_eq]
    rfl
  have hstill (i : Fin 32) : refreshLine s (s.lines.map rereadLine)[i] = (s.lines.map rereadLine)[i] := by
    simpa using refreshLine_reread hs.1.1 i
  obtain ⟨hends, hanswered, hraised, hlines⟩ := relined_answered hs (tag := tag) hstill ha
  refine ⟨_, rfl, hends, hanswered, by decide, fun i => ?_, hraised⟩
  have hline : (hostSends 0x0A tag [] s).lines[i] = rereadLine s.lines[i] := by
    rw [hlines]
    simp
  exact hline.trans (rereadLine_eq _)

end Sys2Proof.Machine
end

section
/-! SUPPORT. LINE_WRITE (R148). -/

namespace Sys2Proof.Machine

/-! ### One line's record -/

/-- Another record with a line's mask and latch leaves every line's mask and latch. -/
theorem flagged_set {s : State} {i : Fin 32} {l : LineRec} (h : l.mask = s.lines[i].mask ∧ l.latch = s.lines[i].latch)
    (j : Fin 32) : (s.lines.set i l)[j].mask = s.lines[j].mask ∧ (s.lines.set i l)[j].latch = s.lines[j].latch := by
  by_cases hj : j = i
  · rw [hj, getElem_set_self]
    exact h
  · rw [getElem_set_ne _ _ hj]
    exact ⟨rfl, rfl⟩

/-! ### The checks -/

section
variable {line value : Byte} {i : Fin 32} {s : State} (hi : line.toNat = i.val + 1)
include hi

/-- The checks of a LINE_WRITE to line `i`, in their order. -/
theorem reqLineWrite_line : reqLineWrite line value s =
    if s.lines[i].mode.isOut = false then refuse .refusedState s
    else if s.lines[i].binding ≠ none then refuse .refusedOwned s
    else if (if s.lines[i].mode = .switchedOut then 1 else 15) < value.toNat then refuse .refusedRange s
    else accept [] { s with lines := s.lines.set i { s.lines[i] with outValue := value.toNat } } := by
  unfold reqLineWrite
  rw [lineIdx_of hi]
  simp only [Bool.not_eq_true', Option.isSome_iff_ne_none]

variable (ho : s.lines[i].mode.isOut = true)
include ho

theorem reqLineWrite_owned (hb : s.lines[i].binding ≠ none) : reqLineWrite line value s = refuse .refusedOwned s := by
  rw [reqLineWrite_line hi, if_neg (ne_false_of_eq_true ho), if_pos hb]

theorem reqLineWrite_unbound (hb : s.lines[i].binding = none) : reqLineWrite line value s =
    if (if s.lines[i].mode = .switchedOut then 1 else 15) < value.toNat then refuse .refusedRange s
    else accept [] { s with lines := s.lines.set i { s.lines[i] with outValue := value.toNat } } := by
  rw [reqLineWrite_line hi, if_neg (ne_false_of_eq_true ho), if_neg (not_not.mpr hb)]

end

theorem lineWrite_refused {tag line value : Byte} {s : State} {st : Status} (hs : s.ready)
    (h : reqLineWrite line value s = refuse st s) :
    exec (.lineWrite tag line value) s = .next (s.withReply 0x8B tag [st.code]) :=
  congrArg Host.Outcome.next (hostSends_same hs h)

/-- The new output value is all that a write changes itself; the end of the event brings the digital state after it. -/
theorem lineWrite_taken {tag line value : Byte} {s : State} {i : Fin 32} (hs : s.ready)
    (ho : s.lines[i].mode.isOut = true) (hb : s.lines[i].binding = none)
    (h : reqLineWrite line value s =
      accept [] { s with lines := s.lines.set i { s.lines[i] with outValue := value.toNat } }) :
    let t := hostSends 0x0B tag [line, value] s
    settlesAnswered 0x8B tag [0] { s with lines := s.lines.set i { s.lines[i] with outValue := value.toNat } } t ∧
      answered [] 0x8B tag [0] { s with lines := t.lines } t ∧
      t.lines = s.lines.set i { s.lines[i] with
        outValue := value.toNat, digital := 0 < value.toNat, latch := s.lines[i].latchAfter (0 < value.toNat) } ∧
      linesRaised s t := by
  have hflagged := flagged_set (s := s) (i := i) (l := { s.lines[i] with outValue := value.toNat }) ⟨rfl, rfl⟩
  have hsame := withLines_same hflagged
  have hlaid : Relined s _ (s.withLines _) := .taken fun j => .inl (hflagged j)
  rw [hsame] at hlaid
  obtain ⟨hends, hanswered, hraised, hlines, -⟩ :=
    hlaid.ends_answered hs (tag := tag) ((answer_lineWrite line value s).trans h)
  refine ⟨hends, hanswered, ?_, hraised⟩
  rw [← hsame, refreshLine_withLines, map_refreshLine_set hs.1.1,
    refreshLine_unbound_out s (by exact ho) (by exact hb)] at hlines
  exact hlines

/-- Settles O25: the checks in their order, and the write that passes them. -/
theorem lineWriteSetsAnUnboundOutput : Obligations.LineWriteSetsAnUnboundOutput := by
  refine fun tag line value s hs => ⟨fun h => lineWrite_refused (st := .refusedRange) hs ?_, fun i hi =>
    ⟨fun hm => lineWrite_refused (st := .refusedState) hs ?_,
    fun ho hb => lineWrite_refused (st := .refusedOwned) hs (reqLineWrite_owned hi ho hb),
    fun ho hb hv => lineWrite_refused (st := .refusedRange) hs ?_,
    fun ho hb hone hmost => ⟨_, rfl, lineWrite_taken hs ho hb ?_⟩⟩⟩
  · unfold reqLineWrite
    rw [lineIdx_none h]
  · rw [reqLineWrite_line hi, if_pos ((isOut_eq_false_iff _).mpr hm)]
  · rw [reqLineWrite_unbound hi ho hb]
    refine if_pos ?_
    split
    · omega
    · next hm => exact hv.resolve_left fun h => hm h.1
  · rw [reqLineWrite_unbound hi ho hb]
    refine if_neg (Nat.not_lt.mpr ?_)
    split
    · next hm => exact hone hm
    · exact hmost

end Sys2Proof.Machine
end

section
/-! SUPPORT. Edges at terminals and LINE_CONFIG (R137, R139, R140, R145; log 20). -/

namespace Sys2Proof.Machine

/-! ### Codes of a line's settings (section 10.6) -/

section
variable {b : Byte}

theorem modeOf_of {m : LineMode} (h : b.toNat = m.code) : modeOf b = some m := by
  unfold modeOf
  rw [h]
  cases m <;> rfl

theorem pullOf_of {p : Pull} (h : b.toNat = p.code) : pullOf b = some p := by
  unfold pullOf
  rw [h]
  cases p <;> rfl

theorem senseOf_of {q : Sense} (h : b.toNat = q.code) : senseOf b = some q := by
  unfold senseOf
  rw [h]
  cases q <;> rfl

theorem modeOf_range {m : LineMode} (h : modeOf b = some m) : 1 ≤ b.toNat ∧ b.toNat ≤ 4 := by
  unfold modeOf at h
  split at h
  any_goals omega
  cases h

theorem pullOf_range {p : Pull} (h : pullOf b = some p) : 1 ≤ b.toNat ∧ b.toNat ≤ 3 := by
  unfold pullOf at h
  split at h
  any_goals omega
  cases h

theorem senseOf_range {q : Sense} (h : senseOf b = some q) : 1 ≤ b.toNat ∧ b.toNat ≤ 5 := by
  unfold senseOf at h
  split at h
  any_goals omega
  cases h

theorem lineIdx_range {i : Fin 32} (h : lineIdx b = some i) : 1 ≤ b.toNat ∧ b.toNat ≤ 32 := by
  by_contra hn
  rw [lineIdx_none (by omega)] at h
  cases h

end

/-! ### Terminals -/

/-- An edge of a line is handed on by the line's binding. -/
def handed (o : Option Binding) (high : Bool) (s : State) : State :=
  match o with
  | none => s
  | some b => handEdge b.fn high s

/-- A line whose digital state becomes what its terminal reads, latching the edge by its sense (R140). -/
def LineRec.edged (l : LineRec) : LineRec := { l with digital := l.terminalLevel, latch := l.latchAfter l.terminalLevel }

theorem calm_handed (o : Option Binding) (high : Bool) (s : State) :
    ∃ h, Calm [] { s with holding := h } (handed o high s) := by
  cases o with
  | none => exact ⟨s.holding, .refl [] s⟩
  | some b => exact calm_handEdge [] b.fn high s

section
variable {s : State} {i : Fin 32} {l : LineRec}

theorem setLine_eq (i : Fin 32) (l : LineRec) (s : State) : setLine i l s = s.withLines (s.lines.set i l) := setLines_eq ..

/-- An input line that takes another record: what is handed on changes no line. -/
theorem relined_input (ho : l.mode.isOut = false) (o : Option Binding) (high : Bool) :
    Relined s (s.lines.set i l) (handed o high (s.withLines (s.lines.set i l))) := by
  refine ⟨calm_handed o high _, fun j => ?_⟩
  by_cases hj : j = i
  · rw [hj, getElem_set_self]
    exact .inr (refreshLine_input _ _ ho)
  · rw [getElem_set_ne _ _ hj]
    exact .inl ⟨rfl, rfl⟩

/-- Where one line of settled lines takes a record that is as refreshed, every line is. -/
theorem refreshLine_set (hs : s.linesSettled) (hl : refreshLine s l = l) (j : Fin 32) :
    refreshLine s (s.lines.set i l)[j] = (s.lines.set i l)[j] := by
  by_cases hj : j = i
  · rw [hj, getElem_set_self, hl]
  · rw [getElem_set_ne _ _ hj]
    exact refreshLine_settled hs j

variable (hm : l.mode = .digitalIn)
include hm

/-- A terminal that reads the line's digital state makes no edge. -/
theorem takeTerminal_still (h : l.terminalLevel = l.digital) : takeTerminal i l s = s.withLines (s.lines.set i l) := by
  unfold takeTerminal
  dsimp only
  rw [levelNow_digitalIn hm, if_pos h, toLevel_eq, h, latchAfter_self, setLine_eq]

/-- A terminal that reads another level makes an edge, which latches by the sense and is handed on (R140, R145). -/
theorem takeTerminal_edge (h : l.terminalLevel ≠ l.digital) : takeTerminal i l s =
    handed l.binding l.terminalLevel (s.withLines (s.lines.set i l.edged)) := by
  have hedged : l.toLevel l.terminalLevel = l.edged := toLevel_eq ..
  unfold takeTerminal
  dsimp only
  rw [levelNow_digitalIn hm, if_neg h, hedged, setLine_eq]
  unfold handed
  cases l.binding <;> rfl

end

/-! ### The configured line -/

section
variable {l : LineRec} {mode : LineMode} {pull : Pull} {sense : Sense} {mask : Bool}

/-- A line in a new mode drives and commands nothing. -/
theorem refreshLine_newMode (s : State) (hb : l.binding = none) :
    refreshLine s ((l.withMode mode pull mask).withSense sense) = (l.withMode mode pull mask).withSense sense := by
  refine refreshLine_still s hb fun ho => ?_
  have hm : mode ≠ .digitalIn := fun hm => by
    rw [show ((l.withMode mode pull mask).withSense sense).mode = mode from rfl, hm] at ho
    cases ho
  exact decide_eq_decide.mpr (iff_of_false (fun h => hm h.1) (lt_irrefl 0))

/-- In its new mode a line has taken its terminal already: no edge (R139). -/
theorem terminalLevel_newMode (hm : mode = .digitalIn) :
    ((l.withMode mode pull mask).withSense sense).terminalLevel =
      ((l.withMode mode pull mask).withSense sense).digital := by
  change ({ l with pull := pull } : LineRec).terminalLevel =
    decide (_ ∧ ({ l with pull := pull } : LineRec).terminalLevel = true)
  simp [hm]

end

/-! ### The request -/

section
variable {s : State} {line mode pull sense mask : Byte}

theorem reqLineConfig_range (h : line.toNat = 0 ∨ 32 < line.toNat ∨ mode.toNat = 0 ∨ 4 < mode.toNat ∨ pull.toNat = 0 ∨
    3 < pull.toNat ∨ sense.toNat = 0 ∨ 5 < sense.toNat ∨ 1 < mask.toNat) :
    reqLineConfig line mode pull sense mask s = refuse .refusedRange s := by
  unfold reqLineConfig
  split
  · next hl hm hp hq hk =>
    have hline := lineIdx_range hl
    have hmode := modeOf_range hm
    have hpull := pullOf_range hp
    have hsense := senseOf_range hq
    have hmask := onOffOf_eq_some hk
    omega
  · rfl

/-- The fields of a LINE_CONFIG name a line and its settings. -/
structure Configures (line mode pull sense mask : Byte) (i : Fin 32) (m : LineMode) (p : Pull) (q : Sense) : Prop where
  line : line.toNat = i.val + 1
  mode : mode.toNat = m.code
  pull : pull.toNat = p.code
  sense : sense.toNat = q.code
  mask : mask.toNat ≤ 1

variable {i : Fin 32} {m : LineMode} {p : Pull} {q : Sense} (h : Configures line mode pull sense mask i m p q)
include h

theorem reqLineConfig_line : reqLineConfig line mode pull sense mask s =
    if s.lines[i].binding.isSome ∧ m ≠ s.lines[i].mode then refuse .refusedOwned s
    else
      let l := configLine s.holding m p q (mask = 1) s.lines[i]
      accept [] (if m = .digitalIn then takeTerminal i l s else setLine i l s) := by
  unfold reqLineConfig
  rw [lineIdx_of h.line, modeOf_of h.mode, pullOf_of h.pull, senseOf_of h.sense, onOffOf_of h.mask]

theorem reqLineConfig_owned (hm : m ≠ s.lines[i].mode) (hb : s.lines[i].binding ≠ none) :
    reqLineConfig line mode pull sense mask s = refuse .refusedOwned s := by
  rw [reqLineConfig_line h, if_pos ⟨Option.isSome_iff_ne_none.mpr hb, hm⟩]

variable (hfree : s.lines[i].binding = none ∨ m = s.lines[i].mode)
include hfree

theorem reqLineConfig_free : reqLineConfig line mode pull sense mask s =
    let l := configLine s.holding m p q (mask = 1) s.lines[i]
    accept [] (if m = .digitalIn then takeTerminal i l s else setLine i l s) := by
  rw [reqLineConfig_line h, if_neg]
  rintro ⟨hb, hm⟩
  obtain hn | he := hfree
  · rw [hn] at hb
    cases hb
  · exact hm he

/-- A LINE_CONFIG that makes no edge. -/
theorem reqLineConfig_still {l : LineRec} (hl : configLine s.holding m p q (mask = 1) s.lines[i] = l)
    (hd : m = .digitalIn → l.terminalLevel = l.digital) :
    reqLineConfig line mode pull sense mask s = accept [] (s.withLines (s.lines.set i l)) := by
  have hmode : l.mode = m := hl ▸ configLine_mode
  rw [reqLineConfig_free h hfree, hl]
  dsimp only
  split
  · next hm => rw [takeTerminal_still (hmode.trans hm) (hd hm)]
  · rw [setLine_eq]

/-- A LINE_CONFIG whose pull makes an edge at an open terminal. -/
theorem reqLineConfig_edge {l : LineRec} (hl : configLine s.holding m p q (mask = 1) s.lines[i] = l) (hm : m = .digitalIn)
    (hd : l.terminalLevel ≠ l.digital) :
    reqLineConfig line mode pull sense mask s =
      accept [] (handed l.binding l.terminalLevel (s.withLines (s.lines.set i l.edged))) := by
  have hmode : l.mode = m := hl ▸ configLine_mode
  rw [reqLineConfig_free h hfree, hl]
  dsimp only
  rw [if_pos hm, takeTerminal_edge (hmode.trans hm) hd]

end

/-! ### How a LINE_CONFIG ends -/

section
variable {s : State} {tag line mode pull sense mask : Byte}

theorem lineConfig_refused {st : Status} (hs : s.ready) (h : reqLineConfig line mode pull sense mask s = refuse st s) :
    exec (.lineConfig tag line mode pull sense mask) s = .next (s.withReply 0x88 tag [st.code]) :=
  congrArg Host.Outcome.next (hostSends_same hs ((answer_lineConfig line mode pull sense mask s).trans h))

/-- A LINE_CONFIG that gave line `i` a record which is as refreshed. -/
theorem lineConfig_still {i : Fin 32} {l : LineRec} (hs : s.ready) (hl : refreshLine s l = l)
    (h : reqLineConfig line mode pull sense mask s = accept [] (s.withLines (s.lines.set i l))) :
    ∃ t, exec (.lineConfig tag line mode pull sense mask) s = .next t ∧
      settlesAnswered 0x88 tag [0] (s.withLines t.lines) t ∧ answered [] 0x88 tag [0] { s with lines := t.lines } t ∧
      linesRaised s t ∧ t.lines = s.lines.set i l :=
  ⟨_, rfl, relined_answered hs (refreshLine_set hs.1.1 hl) ((answer_lineConfig line mode pull sense mask s).trans h)⟩

end

/-- Settles O26: the refusals, a new mode, a new sense, and the edge that a new pull makes. -/
theorem lineConfigGivesALineItsSettings : Obligations.LineConfigGivesALineItsSettings := by
  refine fun tag line mode pull sense mask s hs =>
    ⟨fun h => lineConfig_refused (st := .refusedRange) hs (reqLineConfig_range h),
    fun i m p q hline hmode hpull hsense hmask => ?_⟩
  have hc : Configures line mode pull sense mask i m p q := ⟨hline, hmode, hpull, hsense, hmask⟩
  refine ⟨fun hm hb => lineConfig_refused (st := .refusedOwned) hs (reqLineConfig_owned hc hm hb), fun hm hb => ?_,
    fun hm hd => ?_, fun hm hdigital hd => ?_⟩
  · exact lineConfig_still hs (refreshLine_newMode s hb)
      (reqLineConfig_still hc (.inl hb) (configLine_newMode hm) terminalLevel_newMode)
  · exact lineConfig_still hs (refreshLine_alike (refreshLine_settled hs.1.1 i) ⟨rfl, rfl, rfl, rfl⟩)
      (reqLineConfig_still hc (.inr hm) (configLine_same hm) hd)
  · have hin : s.lines[i].mode = .digitalIn := hm ▸ hdigital
    have ha := (answer_lineConfig line mode pull sense mask s).trans
      (reqLineConfig_edge hc (.inr hm) (configLine_same hm) hdigital hd)
    obtain ⟨hends, hanswered, hraised, hlines, hrefresh⟩ :=
      (relined_input (by exact (isOut_eq_false_iff _).mpr (.inl hin)) _ _).ends_answered hs (tag := tag) ha
    exact ⟨_, rfl, hraised, hends, hanswered, hrefresh ▸ hlines⟩

end Sys2Proof.Machine
end

section
/-! SUPPORT. What the terminals present, and how it is read and handed on (R137, R138, R143 to R146, R149). -/

namespace Sys2Proof.Machine

/-! ### Functions read from their lines -/

section
variable {s : State} {i : Fin 32} {b : Binding}

theorem bound_eq_false {f : Fn} (h : ∀ (i : Fin 32) (b : Binding), s.lines[i].binding = some b → b.fn ≠ f) :
    s.bound f = false := by
  have hnone : s.lineOf f = none := by
    refine List.find?_eq_none.mpr fun l hl hto => ?_
    obtain ⟨j, hj, rfl⟩ := List.mem_iff_getElem.mp hl
    obtain ⟨b, hb, hf⟩ := boundTo_iff.mp hto
    have hline : j < 32 := by simpa using hj
    exact h ⟨j, hline⟩ b (by simpa using hb) hf
  rw [State.bound, hnone]
  rfl

/-- In sound bindings the line a function is bound to is the function's line. -/
theorem lineOf_of_binding (hs : s.bindingsSound) (hb : s.lines[i].binding = some b) : s.lineOf b.fn = some s.lines[i] := by
  refine lineOf_of_unique (boundTo_iff.mpr ⟨b, hb, rfl⟩) fun j hj => ?_
  obtain ⟨c, hc, hf⟩ := boundTo_iff.mp hj
  exact hs.2 j i c b hc hb hf

/-- An analog function reads its line's value, scaled and rounded down (R146). -/
theorem scaledValue_of_lineOf {l : LineRec} (h : s.lineOf b.fn = some l) (hb : l.binding = some b) :
    s.scaledValue b.fn = b.scaled l.analog := by
  unfold State.scaledValue
  rw [h]
  dsimp only
  rw [hb]
  rfl

end

/-! ### Lines that take what their terminal presents -/

section
variable {s : State} {i : Fin 32} {l : LineRec}

/-- A settled state stays settled where a line takes a record that is as refreshed. -/
theorem settled_setLine (hs : s.settled) (hl : refreshLine s l = l) : ({ s with lines := s.lines.set i l } : State).settled := by
  refine ⟨?_, hs.2⟩
  have hkept : (s.lines.set i l).map (refreshLine s) = s.lines.set i l := by rw [map_refreshLine_set hs.1, hl]
  exact (congrArg (s.lines.set i l).map (refreshLine_congr rfl rfl rfl rfl)).trans hkept

/-- What a terminal presents is no output's command. -/
theorem refreshLine_presented (hs : s.linesSettled) (a : Nat) (p : Terminal) :
    refreshLine s { s.lines[i] with analog := a, term := p } = { s.lines[i] with analog := a, term := p } :=
  refreshLine_alike (refreshLine_settled hs i) ⟨rfl, rfl, rfl, rfl⟩

/-- A record with its line's mask and latch leaves LINES alone. -/
theorem setLine_same (h : l.mask = s.lines[i].mask ∧ l.latch = s.lines[i].latch) :
    setLine i l s = { s with lines := s.lines.set i l } := by
  rw [setLine_eq]
  exact withLines_same (flagged_set h)

end

/-! ### DIGITAL_EDGE -/

/-- A line whose terminal presents a level, or is left open. -/
def LineRec.presented (l : LineRec) (level isOpen : Bool) : LineRec :=
  { l with term := { l.term with level := level, isOpen := isOpen } }

section
variable {s : State} {i : Fin 32} {level isOpen : Bool}

theorem exec_digitalEdge : exec (.digitalEdge i level isOpen) s = .next (settle (presentLevel i level isOpen s)) := rfl

theorem presentLevel_other (hm : s.lines[i].mode ≠ .digitalIn) :
    presentLevel i level isOpen s = setLine i (s.lines[i].presented level isOpen) s := by
  unfold presentLevel
  dsimp only
  split
  · next h => exact absurd h hm
  · rfl

theorem presentLevel_digitalIn (hm : s.lines[i].mode = .digitalIn) :
    presentLevel i level isOpen s = takeTerminal i (s.lines[i].presented level isOpen) s := by
  unfold presentLevel
  dsimp only
  split
  · rfl
  · next h => exact absurd hm h

/-- Outside DIGITAL_IN, and where the level read stays, nothing is seen. -/
theorem presentLevel_unseen
    (h : s.lines[i].mode ≠ .digitalIn ∨ (s.lines[i].presented level isOpen).terminalLevel = s.lines[i].digital) :
    presentLevel i level isOpen s = { s with lines := s.lines.set i (s.lines[i].presented level isOpen) } := by
  have hset : setLine i (s.lines[i].presented level isOpen) s =
      { s with lines := s.lines.set i (s.lines[i].presented level isOpen) } := setLine_same ⟨rfl, rfl⟩
  rw [← hset]
  by_cases hm : s.lines[i].mode = .digitalIn
  · rw [presentLevel_digitalIn hm, setLine_eq]
    exact takeTerminal_still hm (h.resolve_left (not_not.mpr hm))
  · exact presentLevel_other hm

/-- A line in DIGITAL_IN takes a changed level and hands the edge on. -/
theorem presentLevel_edge (hm : s.lines[i].mode = .digitalIn)
    (hd : (s.lines[i].presented level isOpen).terminalLevel ≠ s.lines[i].digital) :
    let l := s.lines[i].presented level isOpen
    presentLevel i level isOpen s = handed l.binding l.terminalLevel (s.withLines (s.lines.set i l.edged)) :=
  (presentLevel_digitalIn hm).trans (takeTerminal_edge hm hd)

end

/-! ### ANALOG_CHANGE -/

section
variable {s : State} {i : Fin 32} {count : BitVec 10}

theorem exec_analogChange : exec (.analogChange i count) s = .next (settle (presentCount i count.toNat s)) := rfl

/-- Outside ANALOG_IN, and where the count stays, nothing is seen. -/
theorem presentCount_unseen {n : Nat} (h : s.lines[i].mode ≠ .analogIn ∨ n = s.lines[i].analog) :
    presentCount i n s =
      { s with lines := s.lines.set i { s.lines[i] with term := { s.lines[i].term with count := n } } } := by
  unfold presentCount
  dsimp only
  rw [if_neg (fun hn => h.elim (fun hm => hm hn.1) hn.2)]
  exact setLine_same ⟨rfl, rfl⟩

/-- A changed value of a line is handed on by the line's binding. -/
def handedValue (o : Option Binding) (n : Nat) (s : State) : State :=
  match o with
  | none => s
  | some b => handValue b n s

/-- The part as a line takes a changed count. -/
def State.counted (s : State) (i : Fin 32) (n : Nat) : State :=
  { s with lines := s.lines.set i { s.lines[i] with term := { s.lines[i].term with count := n }, analog := n } }

theorem counted_settled (hs : s.settled) (n : Nat) : (s.counted i n).settled :=
  settled_setLine hs (refreshLine_presented hs.1 _ _)

variable {n : Nat} (hm : s.lines[i].mode = .analogIn) (hn : n ≠ s.lines[i].analog)
include hm hn

theorem presentCount_changed : presentCount i n s = handedValue s.lines[i].binding n (s.counted i n) := by
  have hset : setLine i { s.lines[i] with term := { s.lines[i].term with count := n }, analog := n } s = s.counted i n :=
    setLine_same ⟨rfl, rfl⟩
  unfold presentCount
  dsimp only
  rw [if_pos ⟨hm, hn⟩, hset]
  unfold handedValue
  cases s.lines[i].binding <;> rfl

/-- A boom that reads the line's function takes the changed value (R146). -/
theorem presentCount_handed {x : Side} {e : BoomEvent} {b : Binding} (hb : s.lines[i].binding = some b)
    (he : handValue b n (s.counted i n) = (s.counted i n).handBoom x e) :
    presentCount i n s =
      (s.counted i n).setBoom x { s.boom x with events := (s.boom x).events ++ [e] } := by
  have hboom : (s.counted i n).boom x = s.boom x := boom_congr rfl rfl x
  rw [presentCount_changed hm hn, hb, ← hboom]
  exact he

/-- Only a boom's feed position and rotation pressure are handed on as values. -/
theorem presentCount_kept (h : ∀ x f, s.lines[i].binding ≠ some ⟨.boom x .feedPosition, f⟩ ∧
    s.lines[i].binding ≠ some ⟨.boom x .rotationPressure, f⟩) : presentCount i n s = s.counted i n := by
  rw [presentCount_changed hm hn]
  rcases hb : s.lines[i].binding with _ | ⟨fn, sc⟩
  · rfl
  · unfold handedValue handValue
    dsimp only
    split
    · next x => exact absurd hb (h x sc).1
    · next x => exact absurd hb (h x sc).2
    · rfl

end

/-- Settles O28: what a function reads, what a terminal's change makes of its line, and to whom it is handed. -/
theorem terminalChangesAreReadAndHandedOn : Obligations.TerminalChangesAreReadAndHandedOn := by
  refine ⟨fun s hs => ⟨fun i b hb => ?_, fun f => bound_eq_false, loopOpen_iff⟩,
    fun i level isOpen s hs => ⟨fun h => ?_, fun hm hd => ?_⟩, fun x high s => ?_,
    fun i count s hs => ⟨fun h => ?_, fun hm hn => ⟨fun x f hb => ?_, fun x f hb => ?_, fun h => ?_⟩⟩⟩
  · have hline := lineOf_of_binding hs hb
    have hvalue := scaledValue_of_lineOf hline hb
    refine ⟨hline, bound_of_lineOf hline, reads1_of_lineOf hline, ?_, ?_⟩
    · rintro x n rfl
      exact hvalue
    · rintro x n rfl
      exact hvalue
  · rw [exec_digitalEdge, presentLevel_unseen h]
    exact congrArg Host.Outcome.next (settle_settled (settled_setLine hs (refreshLine_presented hs.1 _ _)))
  · rw [exec_digitalEdge, presentLevel_edge hm hd]
    obtain ⟨hraised, hlines, hends, hsurround⟩ :=
      (relined_input (l := (s.lines[i].presented level isOpen).edged) ((isOut_eq_false_iff _).mpr (.inl hm)) _ _).ends hs
    exact ⟨_, rfl, hraised, hlines, hends, hsurround⟩
  · refine ⟨rfl, rfl, rfl, rfl, rfl, rfl, rfl, ?_, rfl, rfl, ?_⟩
    · simp only [handEdge, State.handBooms, handBoom_eq]
    · simp only [openStopLoop, State.handCanopy, State.handBooms, handBoom_eq]
  · rw [exec_analogChange, presentCount_unseen h]
    exact congrArg Host.Outcome.next (settle_settled (settled_setLine hs (refreshLine_presented hs.1 _ _)))
  · rw [exec_analogChange, presentCount_handed hm hn hb rfl]
    exact congrArg Host.Outcome.next (settle_settled (settled_setBoom (counted_settled hs _) x _ rfl))
  · rw [exec_analogChange, presentCount_handed hm hn hb rfl]
    exact congrArg Host.Outcome.next (settle_settled (settled_setBoom (counted_settled hs _) x _ rfl))
  · rw [exec_analogChange, presentCount_kept hm hn h, settle_settled (counted_settled hs _)]
    rfl

end Sys2Proof.Machine
end

section
/-! SUPPORT. How CLEAR and NOTICE_SET end (R141, R165, R170, R171). -/

namespace Sys2Proof.Machine

/-! ### The uplink's choice and the flags -/

/-- A flag but for its pending notice. -/
def FlagRec.marks (r : FlagRec) : Bool × Bool × Nat := (r.set, r.enable, r.level)

section
variable {s t w : State}

/-- A notice that is sent leaves the flags' marks. -/
theorem sendNotice_marks (f g : Flag) (s : State) : ((sendNotice f s).flag g).marks = (s.flag g).marks := by
  unfold sendNotice
  split
  · rfl
  · by_cases hg : g = f
    · subst hg
      exact (congrArg FlagRec.marks (setFlagRec_flag s g _)).trans rfl
    · exact congrArg FlagRec.marks (setFlagRec_flag_ne s _ hg)

theorem uplinkChoose_marks (r : Bool) (g : Flag) (s : State) : ((uplinkChoose r s).flag g).marks = (s.flag g).marks := by
  unfold uplinkChoose
  split
  · rfl
  · exact sendNotice_marks ..
  · rfl
  · split
    · rfl
    · exact sendNotice_marks ..

theorem settleUplink_marks (g : Flag) (s : State) : ((settleUplink s).flag g).marks = (s.flag g).marks := by
  unfold settleUplink
  split
  · split
    · exact uplinkChoose_marks ..
    · exact uplinkChoose_marks ..
  · rfl

theorem flagSet_of_marks (h : ∀ g, (t.flag g).marks = (s.flag g).marks) : flagSet t = flagSet s := by
  have hset (g : Flag) : (t.flag g).set = (s.flag g).set := congrArg Prod.fst (h g)
  unfold flagSet
  simp only [hset]

theorem offered_of_pending_none {r : FlagRec} (h : r.pending = none) : offered r = false := by simp [offered, h]

/-- A flag alone in offering its notice beside a reply: the notice stays pending, or an idle transmitter sends it (log 10). -/
theorem settleUplink_alone {f : Flag} {n : Notice} (ho : w.offers f n) (hr : w.link.reply ≠ none)
    (hothers : w.link.tx = .idle → ∀ g, g ≠ f → offered (w.flag g) = false) :
    ((settleUplink w).flag f).pending = some n ∨ (w.link.tx = .idle ∧ (settleUplink w).link.tx = .notice n) := by
  by_cases hi : w.link.tx = .idle
  · have hc : w.chooses f n := ⟨ho, fun g m hg hm => by
      have hquiet := hothers hi g hg
      rw [offered_of_offers hm] at hquiet
      cases hquiet⟩
    obtain ⟨-, htakes⟩ := settleUplink_takes w
    obtain hsent | hsent := ((htakes hi).2 f n hc).2 hr
    · rw [hsent]
      exact .inl ho.1
    · rw [hsent]
      exact .inr ⟨hi, rfl⟩
  · rw [settleUplink_busy w hi]
    exact .inl ho.1

end

/-! ### The flags that CLEAR leaves -/

/-- Some masked line latch is set. -/
def State.lineFlagged (s : State) : Prop := ∃ i : Fin 32, s.lines[i].mask = true ∧ s.lines[i].latch = true

section
variable (named : Nat) (s : State)

theorem clearing_only : s.clearing named = { s with flags := (s.clearing named).flags } := by
  unfold State.clearing State.linesAgain
  split
  · rw [raiseFlag_only, clearFlags_only]
  · rw [clearFlags_only]

/-- A flag's record once those named are cleared. -/
def clearedFlag (g : Flag) : FlagRec := if named.testBit g.code then (s.flag g).cleared else s.flag g

theorem clearFlags_named (g : Flag) :
    (clearFlags (fun f => named.testBit f.code) allFlags s).flag g = clearedFlag named s g := by
  rw [clearFlags_flag, clearedFlag]
  simp [mem_allFlags]

variable {named s}

theorem linesAgain_flag_ne {g : Flag} (hg : g ≠ .lines) : s.linesAgain.flag g = s.flag g := by
  unfold State.linesAgain
  split
  · exact raiseFlag_flag_ne _ _ _ _ _ _ hg
  · rfl

theorem linesAgain_flagged (h : s.lineFlagged) : s.linesAgain = raiseFlag .lines none none 0 s :=
  if_pos ((any_flagged_iff _).mpr h)

theorem linesAgain_unflagged (h : ¬ s.lineFlagged) : s.linesAgain = s := if_neg (mt (any_flagged_iff _).mp h)

theorem lineFlagged_clearFlags :
    (clearFlags (fun f => named.testBit f.code) allFlags s).lineFlagged ↔ s.lineFlagged := by
  rw [clearFlags_only]
  rfl

theorem clearing_flag_ne {g : Flag} (hg : g ≠ .lines) : (s.clearing named).flag g = clearedFlag named s g :=
  (linesAgain_flag_ne hg).trans (clearFlags_named named s g)

theorem clearing_unflagged (h : ¬ s.lineFlagged) : (s.clearing named).flag .lines = clearedFlag named s .lines := by
  unfold State.clearing
  rw [linesAgain_unflagged (mt lineFlagged_clearFlags.mp h), clearFlags_named]

/-- Where a masked latch is set, LINES is set again, with a new notice if it was clear and is enabled (R141, R168). -/
theorem clearing_flagged (h : s.lineFlagged) : (s.clearing named).flag .lines =
    let r := clearedFlag named s .lines
    if r.set then r
    else { r with set := true, pending := if r.enable && 0 < r.level then some ⟨.lines, none, none, 0⟩ else none } := by
  unfold State.clearing
  rw [linesAgain_flagged (lineFlagged_clearFlags.mpr h), raiseFlag_flag, clearFlags_named]

theorem clearedFlag_settings (g : Flag) :
    (clearedFlag named s g).enable = (s.flag g).enable ∧ (clearedFlag named s g).level = (s.flag g).level := by
  unfold clearedFlag
  split <;> exact ⟨rfl, rfl⟩

/-- LINES keeps its enable and level. -/
theorem clearing_lines_settings : ((s.clearing named).flag .lines).enable = (s.flag .lines).enable ∧
    ((s.clearing named).flag .lines).level = (s.flag .lines).level := by
  have hkept := clearedFlag_settings (named := named) (s := s) .lines
  by_cases h : s.lineFlagged
  · rw [clearing_flagged h]
    dsimp only
    split <;> exact hkept
  · rwa [clearing_unflagged h]

theorem clearing_lines_set : ((s.clearing named).flag .lines).set = true ↔
    s.lineFlagged ∨ (s.flag .lines).set = true ∧ named.testBit 13 = false := by
  by_cases h : s.lineFlagged
  · refine iff_of_true ?_ (.inl h)
    rw [clearing_flagged h]
    dsimp only
    split
    · next hset => exact hset
    · rfl
  · rw [clearing_unflagged h, or_iff_right h]
    unfold clearedFlag
    split
    · next hbit => exact iff_of_false Bool.false_ne_true fun hn => Bool.false_ne_true (hn.2.symm.trans hbit)
    · next hbit => exact (and_iff_left (eq_false_of_ne_true hbit)).symm

/-- LINES named and set again has a new notice if it is enabled. -/
theorem clearing_lines_again (hbit : named.testBit 13 = true) (h : s.lineFlagged) :
    ((s.clearing named).flag .lines).pending =
      if (s.flag .lines).enable && 0 < (s.flag .lines).level then some ⟨.lines, none, none, 0⟩ else none := by
  have hcleared : clearedFlag named s .lines = (s.flag .lines).cleared := if_pos hbit
  rw [clearing_flagged h, hcleared]
  rfl

theorem clearing_lines_gone (hbit : named.testBit 13 = true) (h : ¬ s.lineFlagged) :
    ((s.clearing named).flag .lines).pending = none := by
  have hcleared : clearedFlag named s .lines = (s.flag .lines).cleared := if_pos hbit
  rw [clearing_unflagged h, hcleared]
  rfl

end

/-! ### CLEAR -/

section
variable {s : State} {tag : Byte} {flags : Word}

theorem clear_refused (hs : s.ready) (h : flags.toNat.testBit 0 = true) :
    exec (.clear tag flags) s = .next (s.withReply 0x82 tag [2]) := by
  have hodd : flags.toNat % 2 = 1 := by simpa using h
  refine congrArg Host.Outcome.next (hostSends_same hs ((answer_clear flags s).trans ?_))
  rw [reqClear_eq, fromTwo_byteOf, if_pos hodd]
  rfl

/-- The part with the answer to a CLEAR in the reply slot. -/
def State.clearAnswered (s : State) (tag : Byte) (named : Nat) : State :=
  { s with
    flags := (s.clearing named).flags
    link := { s.link with reply := some ⟨0x82, tag, 0 :: twoBytes (flagSet (s.clearing named))⟩ } }

/-- The part at the end of a CLEAR. -/
def State.cleared (s : State) (tag : Byte) (named : Nat) : State := settle (s.clearAnswered tag named)

theorem exec_clear (hs : s.ready) (h : flags.toNat.testBit 0 = false) :
    exec (.clear tag flags) s = .next (s.cleared tag flags.toNat) := by
  have heven : ¬ flags.toNat % 2 = 1 := by simpa using h
  have ha : answer 0x02 (wordBytes flags) s =
      (s.clearing flags.toNat, 0 :: twoBytes (flagSet (s.clearing flags.toNat))) := by
    rw [answer_clear, reqClear_eq, fromTwo_byteOf, if_neg heven]
    rfl
  refine congrArg Host.Outcome.next ((hostSends_ready hs ..).trans ?_)
  rw [ha]
  dsimp only
  rw [clearing_only]
  rfl

end

section
variable {s : State} (hs : s.settled) (tag : Byte) (named : Nat)
include hs

/-- Settled lines stay: the event of a CLEAR ends with the uplink's choice. -/
theorem cleared_eq : s.cleared tag named = settleUplink (s.clearAnswered tag named) := by
  have hlines : (s.clearAnswered tag named).linesSettled := linesSettled_beside hs.1
  unfold State.cleared settle
  rw [settleLines_eq _ hlines]

theorem cleared_marks (g : Flag) : ((s.cleared tag named).flag g).marks = ((s.clearing named).flag g).marks := by
  rw [cleared_eq hs]
  exact settleUplink_marks ..

theorem cleared_only : let t := s.cleared tag named
    t = { s with flags := t.flags, link := t.link, freeCount := t.freeCount } := by
  have honly := settleUplink_only (s.clearAnswered tag named)
  have hlink := congrArg State.link honly
  rw [← cleared_eq hs] at honly hlink
  intro t
  exact honly.trans
    (congrArg (fun k : Link => ({ s with flags := t.flags, link := k, freeCount := t.freeCount } : State)) hlink.symm)

/-- The reply names the flags that are set, which the uplink's choice leaves. -/
theorem cleared_link : let t := s.cleared tag named
    t.link = { s.link with reply := some ⟨0x82, tag, 0 :: twoBytes (flagSet t)⟩, tx := t.link.tx } ∧
      t.link.tx ≠ .idle ∧ (s.link.tx ≠ .idle → t.link.tx = s.link.tx) := by
  refine ⟨?_, settle_tx_reply _ (Option.some_ne_none _), settle_tx_busy (s.clearAnswered tag named)⟩
  rw [flagSet_of_marks (cleared_marks hs tag named), cleared_eq hs]
  exact congrArg State.link (settleUplink_only _)

/-- While the transmitter is idle, no flag but LINES offers a notice after a CLEAR. -/
theorem offered_clearAnswered {g : Flag} (hg : g ≠ .lines) (hi : s.link.tx = .idle) :
    offered ((s.clearAnswered tag named).flag g) = false := by
  rw [show (s.clearAnswered tag named).flag g = _ from clearing_flag_ne hg, clearedFlag]
  split
  · rfl
  · exact offered_of_settled_idle hs hi g

theorem cleared_flag_ne {g : Flag} (hg : g ≠ .lines) : (s.cleared tag named).flag g = clearedFlag named s g :=
  (settle_flag _ g hg (offered_clearAnswered hs tag named hg)).trans (clearing_flag_ne hg)

theorem cleared_lines_settings : let r := (s.cleared tag named).flag .lines
    r.enable = (s.flag .lines).enable ∧ r.level = (s.flag .lines).level := by
  have hmarks := congrArg Prod.snd (cleared_marks hs tag named .lines)
  obtain ⟨hen, hlev⟩ := clearing_lines_settings (named := named) (s := s)
  exact ⟨(congrArg Prod.fst hmarks).trans hen, (congrArg Prod.snd hmarks).trans hlev⟩

theorem cleared_lines_set : ((s.cleared tag named).flag .lines).set = true ↔
    s.lineFlagged ∨ (s.flag .lines).set = true ∧ named.testBit 13 = false := by
  have hset : ((s.cleared tag named).flag .lines).set = ((s.clearing named).flag .lines).set :=
    congrArg Prod.fst (cleared_marks hs tag named .lines)
  rw [hset]
  exact clearing_lines_set

/-- A LINES without a notice gets none from the uplink's choice. -/
theorem cleared_lines_quiet (h : ((s.clearing named).flag .lines).pending = none) :
    ((s.cleared tag named).flag .lines).pending = none := by
  have hkept := settleUplink_flag_ne (s.clearAnswered tag named) .lines fun _ => offered_of_pending_none h
  rw [cleared_eq hs, hkept]
  exact h

/-- LINES named and set again has its new notice pending or being sent, where it is enabled. -/
theorem cleared_lines_again (hbit : named.testBit 13 = true) (h : s.lineFlagged) : let t := s.cleared tag named
    if (s.flag .lines).enable = true ∧ 1 ≤ (s.flag .lines).level ∧ (s.flag .lines).level ≤ 3 then
      (t.flag .lines).pending = some ⟨.lines, none, none, 0⟩ ∨
        (s.link.tx = .idle ∧ t.link.tx = .notice ⟨.lines, none, none, 0⟩)
    else (s.flag .lines).enable = false ∨ (s.flag .lines).level = 0 → (t.flag .lines).pending = none := by
  have hpending := clearing_lines_again hbit h
  obtain ⟨-, hlev⟩ := clearing_lines_settings (named := named) (s := s)
  intro t
  split
  · next hon =>
    obtain ⟨hen, hlow, hhigh⟩ := hon
    rw [hen, decide_eq_true (show 0 < _ from hlow)] at hpending
    have ho : (s.clearAnswered tag named).offers .lines ⟨.lines, none, none, 0⟩ :=
      ⟨hpending, hlev.symm ▸ hlow, hlev.symm ▸ hhigh⟩
    rw [show t = _ from cleared_eq hs tag named]
    exact settleUplink_alone ho (Option.some_ne_none _) fun hi g hg => offered_clearAnswered hs tag named hg hi
  · rintro hoff
    refine cleared_lines_quiet hs tag named (hpending.trans (if_neg ?_))
    rcases hoff with hoff | hoff <;> simp [hoff]

end

/-! ### NOTICE_SET -/

theorem flagOf_code (f : Flag) : flagOf f.code = some f := by
  cases f
  case holeDone x | overrun x | wait x | halt x => cases x <;> rfl
  all_goals rfl

theorem flagOf_range {n : Nat} {f : Flag} (h : flagOf n = some f) : 1 ≤ n ∧ n ≤ 15 := by
  have hcode : f.code = n := by simpa using List.find?_some h
  have hidx := Flag.code_eq f
  omega

section
variable {s : State} {tag flag enable level : Byte}

theorem reqNoticeSet_range (h : flag.toNat = 0 ∨ 15 < flag.toNat ∨ 1 < enable.toNat ∨ 3 < level.toNat) :
    reqNoticeSet flag enable level s = refuse .refusedRange s := by
  unfold reqNoticeSet
  split
  · next hf hon =>
    have hflag := flagOf_range hf
    have henable := onOffOf_eq_some hon
    exact if_pos (by omega)
  · rfl

/-- A setting in range: a flag whose notice is pending is not silenced (R171). -/
theorem reqNoticeSet_flag {f : Flag} (hflag : flag.toNat = f.code) (hon : enable.toNat ≤ 1) (hlevel : level.toNat ≤ 3) :
    reqNoticeSet flag enable level s =
      if (enable = 0 ∨ level = 0) ∧ (s.flag f).pending ≠ none then refuse .refusedState s
      else accept [] (s.setFlagRec f { s.flag f with enable := enable = 1, level := level.toNat }) := by
  have hlevel0 : level = 0 ↔ level.toNat = 0 := byte_eq_iff level 0 (by decide)
  have henable0 : enable = 0 ↔ enable.toNat = 0 := byte_eq_iff enable 0 (by decide)
  have henable1 : enable = 1 ↔ enable.toNat = 1 := byte_eq_iff enable 1 (by decide)
  have hoff : (!decide (enable = 1)) = true ↔ enable = 0 := by
    rw [Bool.not_eq_true', decide_eq_false_iff_not, henable0, henable1]
    omega
  unfold reqNoticeSet
  rw [hflag, flagOf_code, onOffOf_of hon]
  dsimp only
  rw [if_neg (Nat.not_lt.mpr hlevel)]
  simp only [Bool.and_eq_true, Bool.or_eq_true, hoff, beq_iff_eq, ← hlevel0, Option.isSome_iff_ne_none]

/-- While the transmitter is idle, no notice of sound flags is pending. -/
theorem pending_of_settled_idle (hs : s.settled) (hf : s.flagsSound) (hi : s.link.tx = .idle) (f : Flag) :
    (s.flag f).pending = none := by
  have hquiet := offered_of_settled_idle hs hi f
  by_contra hn
  obtain ⟨n, hn⟩ := Option.ne_none_iff_exists'.mp hn
  obtain ⟨-, -, -, hlow⟩ := (hf f).2 n hn
  rw [offered_of_offers (n := n) ⟨hn, hlow, (hf f).1⟩] at hquiet
  cases hquiet

/-- Other settings of a flag bring no notice to an idle transmitter. -/
theorem settled_noticeSet (hs : s.settled) (hf : s.flagsSound) (f : Flag) (on : Bool) (n : Nat) :
    (s.setFlagRec f { s.flag f with enable := on, level := n }).settled := by
  obtain ⟨hlines, hqueue, hslot, hreply, hidle⟩ := hs
  refine ⟨linesSettled_beside (k := s.link) hlines, hqueue, hslot, hreply, fun hi => ⟨(hidle hi).1, ?_⟩⟩
  refine nextNotice_eq_none fun g => offered_of_pending_none ?_
  have hnone := pending_of_settled_idle ⟨hlines, hqueue, hslot, hreply, hidle⟩ hf hi
  by_cases hg : g = f
  · subst hg
    rw [setFlagRec_flag]
    exact hnone g
  · rw [setFlagRec_flag_ne s _ hg]
    exact hnone g

theorem noticeSet_taken (hs : s.ready) (hsound : s.flagsSound) {f : Flag} (hflag : flag.toNat = f.code)
    (hon : enable.toNat ≤ 1) (hlevel : level.toNat ≤ 3) : exec (.noticeSet tag flag enable level) s =
      .next (if (enable = 0 ∨ level = 0) ∧ (s.flag f).pending ≠ none then s.withReply 0x83 tag [1]
        else (s.setFlagRec f { s.flag f with enable := enable = 1, level := level.toNat }).withReply 0x83 tag [0]) := by
  have ha := (answer_noticeSet flag enable level s).trans (reqNoticeSet_flag hflag hon hlevel)
  refine congrArg Host.Outcome.next ?_
  split
  · next hloud =>
    rw [if_pos hloud] at ha
    exact hostSends_same hs ha
  · next hfree =>
    rw [if_neg hfree] at ha
    exact hostSends_exact hs ha (settled_noticeSet hs.1 hsound f _ _)

end

/-- Settles O20: a CLEAR by its flags and the uplink's choice, a NOTICE_SET by its checks. -/
theorem clearAndNoticeSetActOnFlags : Obligations.ClearAndNoticeSetActOnFlags := by
  refine ⟨fun tag flags s hs => ⟨clear_refused hs, fun h => ?_⟩, fun tag flag enable level s hs hsound =>
    ⟨fun h => ?_, fun f hflag hon hlevel => noticeSet_taken hs hsound hflag hon hlevel⟩⟩
  · obtain ⟨hlink, hsends, hbusy⟩ := cleared_link hs.1 tag flags.toNat
    obtain ⟨hen, hlev⟩ := cleared_lines_settings hs.1 tag flags.toNat
    exact ⟨_, exec_clear hs h, cleared_only hs.1 tag _, hlink, hsends, hbusy, fun g hg => cleared_flag_ne hs.1 tag _ hg,
      hen, hlev, cleared_lines_set hs.1 tag _, cleared_lines_again hs.1 tag _,
      fun hbit hnone => cleared_lines_quiet hs.1 tag _ (clearing_lines_gone hbit fun ⟨i, hi⟩ => hnone i hi)⟩
  · exact congrArg Host.Outcome.next (hostSends_same hs ((answer_noticeSet flag enable level s).trans (reqNoticeSet_range h)))

end Sys2Proof.Machine
end

section
/-! SUPPORT. Hole records on the link: the bytes of a record, RECORD_FETCH and RECORD_RELEASE (R22, R154, R157, R158). -/

namespace Sys2Proof.Machine

/-- The record slots drive no output and set no flag: a settled part stays settled whatever they hold. -/
theorem settled_setSlot {s : State} (h : s.settled) (x : Side) (o : Option Slot) : (s.setSlot x o).settled :=
  settled_congr h (by simp) (by simp) (by simp) (by simp) (ownerCommand_congr (by simp) (by simp) (by simp))

/-! ### RECORD_FETCH (R157) -/

section
variable {s : State} {boom : Byte}

theorem reqRecordFetch_range (h : sideOf boom = none) : reqRecordFetch boom s = refuse .refusedRange s := by
  unfold reqRecordFetch
  rw [h]

theorem reqRecordFetch_empty {x : Side} (hx : sideOf boom = some x) (h : s.slot x = none) :
    reqRecordFetch boom s = refuse .refusedState s := by
  unfold reqRecordFetch
  rw [hx]
  dsimp only
  rw [h]

/-- A record fetched: the reply holds the slot's state before the request, and the slot keeps the record as FETCHED. -/
theorem reqRecordFetch_record {x : Side} {fetched : Bool} {r : HoleRecord} (hx : sideOf boom = some x)
    (h : s.slot x = some ⟨fetched, r⟩) : reqRecordFetch boom s =
      (s.setSlot x (some ⟨true, r⟩), [0, if fetched then 3 else 2] ++ holeBytes r.boom r.data) := by
  have hcode : byteOf (slotCode (some ⟨fetched, r⟩)) = if fetched then 3 else 2 := by cases fetched <;> rfl
  unfold reqRecordFetch
  rw [hx]
  dsimp only
  rw [h]
  dsimp only
  rw [hcode, List.cons_append, List.cons_append, List.nil_append]
  rfl

end

/-! ### RECORD_RELEASE (R158) -/

section
variable {s : State} {boom col row : Byte}

theorem reqRecordRelease_range (h : sideOf boom = none ∨ posOf col.toNat row.toNat = none) :
    reqRecordRelease boom col row s = refuse .refusedRange s := by
  unfold reqRecordRelease
  split
  · next hx hq =>
    rcases h with h | h
    · cases h.symm.trans hx
    · cases h.symm.trans hq
  · rfl

variable {x : Side} {q : Pos} (hx : sideOf boom = some x) (hq : posOf col.toNat row.toNat = some q)
include hx hq

theorem reqRecordRelease_empty (h : s.slot x = none) : reqRecordRelease boom col row s = refuse .refusedState s := by
  unfold reqRecordRelease
  rw [hx, hq]
  dsimp only
  rw [h]

/-- A record is released where the request names its cell. -/
theorem reqRecordRelease_record {y : Slot} (h : s.slot x = some y) : reqRecordRelease boom col row s =
    if y.record.data.pos = q then accept [] (s.setSlot x none) else refuse .refusedStale s := by
  unfold reqRecordRelease
  rw [hx, hq]
  dsimp only
  rw [h]

end

/-! ### The bytes of a record (section 10.6) -/

theorem byteOf_actionCode (a : Action) :
    byteOf a.code = match a with | .proceed => 1 | .extend => 2 | .substitute => 3 | .stop => 4 := by
  cases a <;> rfl

theorem byteOf_sideCode (x : Side) : byteOf (sideCode x) = match x with | .a => 1 | .b => 2 := by
  cases x <;> rfl

theorem outcomeByte_eq (o : Option HoleOutcome) :
    outcomeByte o = match o with | some k => byteOf k.code | none => 0 := by
  cases o <;> rfl

/-- The fault's code, absent as 0. -/
theorem faultByte_eq (o : Option FaultCode) :
    byteOf ((o.map FaultCode.code).getD 0) = match o with | some f => byteOf f.code | none => 0 := by
  cases o <;> rfl

/-- The five bytes of the resin times before the bytes behind them, absent times as 0. -/
theorem resinBytes_eq (o : Option ResinTimes) (rest : List Byte) :
    byteOf ((o.map (·.s)).getD 0) :: (twoBytes ((o.map (·.h)).getD 0) ++ (twoBytes ((o.map (·.w)).getD 0) ++ rest)) =
      (match o with
        | some r => byteOf r.s :: (twoBytes r.h ++ twoBytes r.w)
        | none => [0, 0, 0, 0, 0]) ++ rest := by
  cases o <;> rfl

/-- Settles O59: the bytes field by field, then the request by what the slot holds. -/
theorem recordFetchReturnsTheRecord : Obligations.RecordFetchReturnsTheRecord := by
  refine ⟨fun x d => ?_, fun tag boom s hs => ?_⟩
  · intro bits kinds one two action
    have hkinds (ks : List CartKind) : kindBytes 4 ks = kinds 4 ks := kindBytes_eq 4 ks
    have hbits (a b c d e : Bool) : bitsByte [a, b, c, d, e] = bits a b c d e := bitsByte_five a b c d e
    have haction (a : Action) : byteOf a.code = action a := byteOf_actionCode a
    have hone (o : Option Nat) : byteOf (o.getD 0) = one o := rfl
    have htwo (o : Option Nat) : twoBytes (o.getD 0) = two o := rfl
    refine ⟨fun c => ?_, ?_⟩
    · rw [classBytes, hkinds, haction]
      simp only [List.map_cons, List.map_nil, List.append_assoc, List.cons_append, List.nil_append]
    · -- `delta`: Lean's equation for so long a body is too costly to derive.
      delta holeBytes
      rw [hkinds, hbits, hbits, outcomeByte_eq, faultByte_eq, byteOf_sideCode]
      simp only [posBytes, incrementMm, List.map_cons, List.map_nil, List.append_assoc, List.cons_append,
        List.nil_append]
      rewrite [resinBytes_eq, hone, hone, htwo, htwo]
      rfl
  · have ha := answer_recordFetch boom s
    refine ⟨fun hb => congrArg Host.Outcome.next (hostSends_same hs (ha.trans (reqRecordFetch_range (sideOf_none hb)))),
      fun x hx => ⟨fun hempty => congrArg Host.Outcome.next (hostSends_same hs ?_),
        fun fetched r hslot => congrArg Host.Outcome.next ?_⟩⟩
    · exact ha.trans (reqRecordFetch_empty (sideOf_side hx) hempty)
    · exact hostSends_exact hs (ha.trans (reqRecordFetch_record (sideOf_side hx) hslot)) (settled_setSlot hs.1 x _)

/-- Settles O60: the operands' ranges, then what the slot holds. -/
theorem recordReleaseEmptiesTheSlot : Obligations.RecordReleaseEmptiesTheSlot := by
  intro tag boom col row s hs
  have ha := answer_recordRelease boom col row s
  refine ⟨fun hbad => congrArg Host.Outcome.next (hostSends_same hs (ha.trans (reqRecordRelease_range ?_))),
    fun x q hx hcol hrow => ?_⟩
  · exact hbad.imp sideOf_none posOf_eq_none
  · have hside := sideOf_side hx
    have hpos := posOf_eq_some.mpr ⟨hcol, hrow⟩
    refine ⟨fun hempty => congrArg Host.Outcome.next (hostSends_same hs ?_),
      fun y hslot => congrArg Host.Outcome.next ?_⟩
    · exact ha.trans (reqRecordRelease_empty hside hpos hempty)
    · have ha := ha.trans (reqRecordRelease_record hside hpos hslot)
      by_cases hsame : y.record.data.pos = q
      · rw [if_pos hsame] at ha ⊢
        exact hostSends_exact hs ha (settled_setSlot hs.1 x none)
      · rw [if_neg hsame] at ha ⊢
        exact hostSends_same hs ha

end Sys2Proof.Machine
end

section
/-! SUPPORT. The rules of the receive queue, the reply slot and the transmitter, through arrivals, the end of sending and the end
of every event (R163 to R165). -/

namespace Sys2Proof.Machine

variable {s t u : State}

/-! ### The queue, the slot and what is being sent -/

/-- The queue holds at most two frames, and none while the slot is empty (R163, R164). -/
structure Link.Queued (k : Link) : Prop where
  bounded : k.queue.length ≤ queueSize
  waits : k.reply = none → k.queue = []

/-- The rules of the uplink within an event: what an idle transmitter has to send, the end of the event sees to. -/
structure Link.Ordered (k : Link) : Prop extends k.Queued where
  sends : k.tx = .reply → k.reply ≠ none

theorem ordered_of_uplinkSettled (h : s.uplinkSettled) : s.link.Ordered := by
  obtain ⟨hbounded, hwaits, hsends, -⟩ := h
  exact ⟨⟨hbounded, hwaits⟩, hsends⟩

/-- What the receiver holds and the last cause are no part of the rules. -/
theorem Link.Ordered.congr {j k : Link} (h : j.Ordered) (hq : k.queue = j.queue) (hr : k.reply = j.reply)
    (hx : k.tx = j.tx) : k.Ordered := by
  obtain ⟨⟨hbounded, hwaits⟩, hsends⟩ := h
  exact ⟨⟨hq ▸ hbounded, by rwa [hq, hr]⟩, by rwa [hx, hr]⟩

theorem uplinkSettled_congr (hk : t.link = s.link) (hf : t.flags = s.flags) (h : s.uplinkSettled) : t.uplinkSettled := by
  unfold State.uplinkSettled
  rw [hk, nextNotice_congr hf]
  exact h

/-! ### The uplink's choice (R165) -/

/-- The arbiter takes the reply in the slot, or the notice chosen; it leaves the transmitter idle where there is neither. -/
theorem uplinkChoose_cases (r : Bool) (s : State) :
    (s.link.reply ≠ none ∧ uplinkChoose r s = s.sending .reply) ∨
      (∃ f n, s.chooses f n ∧ uplinkChoose r s = s.sendingNotice f n) ∨
      (s.link.reply = none ∧ nextNotice s = none ∧ uplinkChoose r s = s.sending .idle) := by
  have hnotice {f : Flag} (hf : nextNotice s = some f) : ∃ g n, s.chooses g n ∧ sendNotice f s = s.sendingNotice g n := by
    obtain ⟨n, hn⟩ := chooses_of_nextNotice hf
    exact ⟨f, n, hn, sendNotice_eq hn.1⟩
  unfold uplinkChoose
  split
  · next hr hn => exact .inr (.inr ⟨hr, hn, rfl⟩)
  · next hf => exact .inr (.inl (hnotice hf))
  · next hr _ => exact .inl ⟨by simp [hr], rfl⟩
  · next hr hf =>
    split
    · exact .inl ⟨by simp [hr], rfl⟩
    · exact .inr (.inl (hnotice hf))

theorem uplinkChoose_settled (r : Bool) (h : s.link.Queued) : (uplinkChoose r s).uplinkSettled := by
  obtain ⟨hbounded, hwaits⟩ := h
  obtain ⟨hr, hk⟩ | ⟨f, n, -, hk⟩ | ⟨hr, hn, hk⟩ := uplinkChoose_cases r s <;> rw [hk]
  · exact ⟨hbounded, hwaits, fun _ => hr, Transmitter.noConfusion⟩
  · exact ⟨hbounded, hwaits, Transmitter.noConfusion, Transmitter.noConfusion⟩
  · exact ⟨hbounded, hwaits, Transmitter.noConfusion, fun _ => ⟨hr, (nextNotice_congr (s := s) rfl).trans hn⟩⟩

/-- An idle transmitter takes what the arbiter chooses. -/
theorem settleUplink_idle (hi : s.link.tx = .idle) :
    ∃ r n, settleUplink s = uplinkChoose r { s with freeCount := n } := by
  unfold settleUplink
  rw [hi]
  dsimp only
  split
  · exact ⟨_, _, rfl⟩
  · exact ⟨true, s.freeCount, rfl⟩

theorem settleUplink_settled (h : s.link.Ordered) : (settleUplink s).uplinkSettled := by
  by_cases hi : s.link.tx = .idle
  · obtain ⟨r, n, hk⟩ := settleUplink_idle hi
    rw [hk]
    exact uplinkChoose_settled r h.toQueued
  · rw [settleUplink_busy s hi]
    exact ⟨h.bounded, h.waits, h.sends, fun hidle => absurd hidle hi⟩

theorem settle_uplinkSettled (h : s.link.Ordered) : (settle s).uplinkSettled :=
  settleUplink_settled (h.congr (by rw [settleLines_only]) (by rw [settleLines_only]) (by rw [settleLines_only]))

/-! ### Arrivals (R160 to R164) -/

/-- A request taken empties the queue or leaves a reply in the slot. -/
theorem takeFrame_queued (h : s.link.queue.length ≤ queueSize) : (takeFrame s).link.Queued := by
  unfold takeFrame
  split
  · next f rest hq _ =>
    have hlink := (acts_answer f.kind f.body { s with link := { s.link with queue := rest } }).link
    have hqueue := congrArg Link.queue hlink
    have hrest : rest.length ≤ queueSize := Nat.le_of_succ_le (by rwa [hq] at h)
    exact ⟨le_of_eq_of_le (congrArg List.length hqueue) hrest, fun hr => by cases hr⟩
  · next hno =>
    refine ⟨h, fun hr => ?_⟩
    rcases hq : s.link.queue with _ | ⟨f, rest⟩
    · rfl
    · exact (hno f rest hq hr).elim

theorem linkError_link (cause : LinkCause) (s : State) : (linkError cause s).link = { s.link with lastError := cause } := by
  unfold linkError
  rw [raiseFlag_only]

theorem frameArrives_ordered (f : Frame) (h : s.link.Ordered) : (frameArrives f s).link.Ordered := by
  unfold frameArrives
  split
  · next hroom =>
    let w : State := { s with link := { s.link with queue := s.link.queue ++ [f] } }
    have hlength : w.link.queue.length ≤ queueSize := by simpa [w] using hroom
    refine ⟨takeFrame_queued hlength, fun hx => ?_⟩
    have hreply : w.link.reply ≠ none := h.sends ((hears_takeFrame w).tx.symm.trans hx)
    rw [takeFrame_full w hreply]
    exact hreply
  · exact h.congr (by rw [linkError_link]) (by rw [linkError_link]) (by rw [linkError_link])

theorem discard_ordered (cause : LinkCause) (h : s.link.Ordered) : (discard cause s).link.Ordered := by
  unfold discard
  exact h.congr (by rw [linkError_link]) (by rw [linkError_link]) (by rw [linkError_link])

/-- A character changes what the receiver holds, discards the frame, or completes one that arrives. -/
theorem receive_cases (data : Byte) (parity stop : Bool) (s : State) :
    (∃ rx, receive data parity stop s = { s with link := { s.link with rx := rx } }) ∨
      (∃ cause, receive data parity stop s = discard cause s) ∨
      ∃ f, receive data parity stop s = frameArrives f { s with link := { s.link with rx := none } } := by
  have hbyte (bytes : List Byte) :
      (∃ rx, takeByte bytes s = { s with link := { s.link with rx := rx } }) ∨
        (∃ cause, takeByte bytes s = discard cause s) ∨
        ∃ f, takeByte bytes s = frameArrives f { s with link := { s.link with rx := none } } := by
    unfold takeByte
    split
    · exact .inl ⟨s.link.rx, rfl⟩
    · split
      · exact .inr (.inl ⟨_, rfl⟩)
      · split
        · exact .inl ⟨_, rfl⟩
        · split
          · split
            · exact .inr (.inr ⟨_, rfl⟩)
            · exact .inr (.inl ⟨_, rfl⟩)
          · exact .inr (.inl ⟨_, rfl⟩)
  unfold receive
  split
  · split
    · exact .inl ⟨_, rfl⟩
    · exact .inl ⟨s.link.rx, rfl⟩
  · split
    · exact .inr (.inl ⟨_, rfl⟩)
    · split
      · exact .inr (.inl ⟨_, rfl⟩)
      · exact hbyte _

theorem receive_ordered (data : Byte) (parity stop : Bool) (h : s.link.Ordered) :
    (receive data parity stop s).link.Ordered := by
  obtain ⟨rx, hk⟩ | ⟨cause, hk⟩ | ⟨f, hk⟩ := receive_cases data parity stop s <;> rw [hk]
  · exact h.congr rfl rfl rfl
  · exact discard_ordered cause h
  · exact frameArrives_ordered f (h.congr rfl rfl rfl)

/-! ### The end of sending, RESTART -/

theorem restartPart_link (s : State) : (restartPart s).link = ⟨none, [], none, .idle, .none⟩ := by
  have hadopted : Raises s.restarted (adopt s.restarted) := (Raises.refl _).calm (calm_bindEffect _ [] .canopyPressure)
  unfold restartPart
  rw [setLines_only]
  exact hadopted.raiseFlag.link

theorem restartPart_ordered (s : State) : (restartPart s).link.Ordered := by
  rw [restartPart_link]
  exact ⟨⟨Nat.zero_le _, fun _ => rfl⟩, Transmitter.noConfusion⟩

theorem sendingEnds_ordered (h : s.link.Ordered) : (sendingEnds s).link.Ordered := by
  unfold sendingEnds
  split
  · exact h
  · exact ordered_of_uplinkSettled (uplinkChoose_settled true h.toQueued)
  · split
    · exact restartPart_ordered s
    · refine ordered_of_uplinkSettled (uplinkChoose_settled true ?_)
      rw [settleLines_only]
      exact takeFrame_queued h.bounded

/-! ### Commands beside the link -/

/-- The commands of the link itself, the requests aside. -/
def linkCommand : Instr → Bool
  | .powerOn | .partRestart | .frameSent | .gap | .characterReceived .. => true
  | _ => false

/-- A command changes nothing, or ends an event that left the link as it was. -/
inductive Beside (s : State) : State → Prop where
  | still : Beside s s
  | event {u : State} (h : u.link = s.link) : Beside s (settle u)

theorem Beside.onCondition {c : Prop} [Decidable c] (h : Raises s u) : Beside s (if c then settle u else s) := by
  split
  · exact .event h.link
  · exact .still

theorem beside_onEvent {x : Side} {e : BoomEvent} {f : State → State} (hf : ∀ u, Raises u (f u)) (s : State) :
    Beside s (onEvent x e f s) := .onCondition (((Raises.refl s).calm (calm_takeEvent [] s x e)).trans (hf _))

theorem exec_beside {c : Instr} (hlinked : linkCommand c = false) (hreq : requestFrame c = none) (h : exec c s = .next t) :
    Beside s t := by
  cases c
  case powerOn | partRestart | frameSent | gap | characterReceived => cases hlinked
  case digitalEdge => cases h; exact .event (acts_presentLevel _ _ _ s).link
  case analogChange => cases h; exact .event (acts_presentCount _ _ s).link
  case stopLoopOpen =>
    cases h
    split
    · exact .event (acts_takeOpening s).link
    · exact .still
  case flowRequestArrival => cases h; exact .event (raises_requestArrives _ s).link
  case flowRelease => cases h; exact .event (raises_releaseArrives _ s).link
  case pumpFall => cases h; exact .onCondition ((Raises.refl s).calm (calm_arbiter s _)).viewFalls
  case pumpRise =>
    cases h
    exact .onCondition (((Raises.refl s).calm (calm_arbiter s _)).calm (calm_arbiter _ _)).grantCheck
  case boomStopLoopOpen => cases h; exact beside_onEvent (fun u => (Raises.refl u).boomStops) s
  case deadmanPress => cases h; exact beside_onEvent (fun u => (Raises.refl u).pressDeadman) s
  case deadmanRelease | boomPumpFall | canopyLossAtBoom =>
    cases h
    exact beside_onEvent (fun u => (Raises.refl u).addHold) s
  case boomPumpRise | canopyRegainAtBoom => cases h; exact beside_onEvent (fun u => (Raises.refl u).removeHold) s
  case atHoleRise => cases h; exact beside_onEvent (fun u => (Raises.refl u).confirmAtHole) s
  case feedHomeRise => cases h; exact beside_onEvent (fun u => (Raises.refl u).takeFeedHome) s
  case cartridgePass => cases h; exact beside_onEvent (fun u => (Raises.refl u).completePush) s
  case boltPresentRise => cases h; exact beside_onEvent (fun u => (Raises.refl u).takeBoltPresent) s
  case rotationPulse => cases h; exact beside_onEvent (fun u => (Raises.refl u).takePulse) s
  case feedPositionChange =>
    cases h
    split
    · exact beside_onEvent (fun u => (Raises.refl u).judgeFeed) s
    · exact .still
  case rotationPressureChange =>
    cases h
    split
    · exact beside_onEvent (fun u => (Raises.refl u).takePressureChange) s
    · exact .still
  case pressureStall | progressStall => cases h; exact .onCondition (Raises.refl s).takeStall
  case backOffEnd => cases h; exact .onCondition (Raises.refl s).modBoom
  case retractTimeout => cases h; exact .onCondition (Raises.refl s).enterAborting
  case secondFailureTimeout => cases h; exact .onCondition (Raises.refl s).secondFailure
  case jam => cases h; exact .onCondition (Raises.refl s).takeJam
  case spinEnd => cases h; exact .onCondition ((Raises.refl s).calm (calm_endSpin s _))
  case holdEnd => cases h; exact .onCondition (Raises.refl s).enterTorquing
  case tensionLate => cases h; exact .onCondition (Raises.refl s).takeLate
  case reSeek => cases h; exact .onCondition (Raises.refl s).seek
  case boomGrantTaken =>
    cases h
    split
    · exact .event (raises_popFlow _ s).takeGrant.link
    · exact .still
  case boomTakeBack =>
    cases h
    split
    · exact .event (raises_popFlow _ s).takeTakeBack.link
    · exact .still
  case boomFlowRefusal =>
    cases h
    split
    · exact .onCondition (raises_popRefusal _ _ s).takeRefusal
    · exact .still
  case canopyGrantTaken =>
    cases h
    split
    · exact .event ((raises_popFlow _ s).calm (calm_canopyGrant _ [] _)).link
    · exact .still
  case canopyTakeBack =>
    cases h
    split
    · exact .event (raises_popFlow _ s).canopyTakenBack.link
    · exact .still
  case canopyFlowRefusal =>
    cases h
    split
    · exact .onCondition (raises_popRefusal _ _ s).canopyRefused
    · exact .still
  case canopyStopLoopOpen => cases h; exact .onCondition ((raises_takeCanopyEvent _ s).calm (calm_canopyStops _ []))
  case canopyPressureChange =>
    cases h
    split
    · exact .event ((raises_takeCanopyEvent _ s).calm (calm_takePressure _ [] _)).link
    · exact .still
  case canopyAdoptSet | canopySet => cases h; exact .onCondition ((Raises.refl s).calm (calm_canopyEntersSet s []))
  case raiseTimeout => cases h; exact .onCondition (Raises.refl s).raiseFails
  case canopyLost => cases h; exact .onCondition (Raises.refl s).canopyIsLost
  case canopyLowered => cases h; exact .onCondition (Raises.refl s).canopyTo
  all_goals cases hreq

/-! ### Every command and every step -/

/-- A request command that does not fault is the arrival of its frame. -/
theorem next_of_request {c : Instr} {f : Frame} (hf : requestFrame c = some f) (h : exec c s = .next t) :
    t = hostSends f.kind f.tag f.body s := by
  cases c
  case unknownKind | badLength =>
    cases hf
    simp only [exec, execUnknownKind, execBadLength] at h
    split at h <;> cases h
    rfl
  all_goals cases hf
  all_goals cases h
  all_goals rfl

theorem exec_uplinkSettled {c : Instr} (hs : s.uplinkSettled) (h : exec c s = .next t) : t.uplinkSettled := by
  have hordered := ordered_of_uplinkSettled hs
  rcases hreq : requestFrame c with _ | f
  · cases hlinked : linkCommand c
    · cases exec_beside hlinked hreq h with
      | still => exact hs
      | event hlink => exact settle_uplinkSettled (by rwa [hlink])
    · cases c
      case powerOn =>
        cases h
        exact ⟨Nat.zero_le _, fun _ => rfl, Transmitter.noConfusion, Transmitter.noConfusion⟩
      case characterReceived => cases h; exact settle_uplinkSettled (receive_ordered _ _ _ hordered)
      case frameSent => cases h; exact settle_uplinkSettled (sendingEnds_ordered hordered)
      case gap =>
        cases h
        split
        · exact settle_uplinkSettled (discard_ordered _ hordered)
        · exact hs
      case partRestart =>
        cases h
        split
        · exact settle_uplinkSettled (restartPart_ordered s)
        · exact hs
      all_goals cases hlinked
  · rw [next_of_request hreq h]
    exact settle_uplinkSettled (frameArrives_ordered _ hordered)

/-- Settles O9: a command by what it does at the link, the tick by what it leaves alone. -/
theorem stepKeepsTheUplinkRules : Obligations.StepKeepsTheUplinkRules := by
  intro s t hs h
  obtain ⟨c, rest, -, hc⟩ | ⟨-, c, -, hc⟩ | ⟨-, rfl⟩ := step_cases s t h
  · exact exec_uplinkSettled (uplinkSettled_congr (t := { s with pending := rest }) rfl rfl hs) hc
  · exact exec_uplinkSettled hs hc
  · exact uplinkSettled_congr rfl rfl hs

end Sys2Proof.Machine
end

section
/-! SUPPORT. Causes, commands that fault, and requests that reach no block (R161, R164, R167, R168; log 27). -/

namespace Sys2Proof.Machine

variable {s : State} {c : Instr}

/-! ### Causes (R167, R168) -/

/-- Settles O18, by the cause's two cases and the flags' places in the notice unit. -/
theorem causesSetFlagsOnce : Obligations.CausesSetFlagsOnce := by
  intro f boom pos reason s
  refine ⟨fun hset => if_pos hset, fun hclear => ?_, setFlagRec_flag s f, fun g r hg => setFlagRec_flag_ne s r hg⟩
  unfold raiseFlag
  simp only [hclear, Bool.false_eq_true, if_false, Bool.and_eq_true, decide_eq_true_eq]

/-! ### Commands that fault (log 27) -/

/-- A request whose body no frame carries (R161). -/
def Overlong (c : Instr) : Prop :=
  ∃ kind tag body, 250 < body.length ∧ (c = .unknownKind kind tag body ∨ c = .badLength kind tag body)

theorem exec_overlong (h : Overlong c) : exec c s = .fault .bodyTooLong := by
  obtain ⟨kind, tag, body, hlong, rfl | rfl⟩ := h
  · exact if_pos hlong
  · exact if_pos hlong

theorem exec_carried (h : ¬ Overlong c) : ∃ t, exec c s = .next t := by
  cases c
  case unknownKind kind tag body => exact ⟨_, if_neg fun hlong => h ⟨kind, tag, body, hlong, .inl rfl⟩⟩
  case badLength kind tag body => exact ⟨_, if_neg fun hlong => h ⟨kind, tag, body, hlong, .inr rfl⟩⟩
  all_goals exact ⟨_, rfl⟩

theorem not_overlong_of_wellFormed (hw : c.wellFormed) : ¬ Overlong c := by
  rintro ⟨kind, tag, body, hlong, rfl | rfl⟩
  all_goals
    simp only [Instr.wellFormed, Bool.and_eq_true, decide_eq_true_eq] at hw
    exact absurd hw.2 (Nat.not_le.mpr hlong)

/-- Settles O3: a body that no frame carries faults, and nothing else does. -/
theorem onlyAnOverlongBodyStops : Obligations.OnlyAnOverlongBodyStops := by
  intro c s
  refine ⟨?_, fun hw => exec_carried (not_overlong_of_wellFormed hw)⟩
  by_cases hlong : Overlong c
  · exact .inr ⟨exec_overlong hlong, hlong⟩
  · exact .inl (exec_carried hlong)

/-! ### Requests that reach no block (R164) -/

theorem kindNamed_range {kind : Byte} (h : kindNamed kind = true) : 1 ≤ kind.toNat ∧ kind.toNat ≤ 0x3F := by
  unfold kindNamed bodyLengths at h
  split at h
  case h_35 => cases h
  all_goals omega

theorem answer_unknownKind {kind : Byte} (h : kindNamed kind = false) (body : List Byte) (s : State) :
    answer kind body s = refuse .unknownKind s := if_pos (by rw [h]; rfl)

theorem answer_badLength {kind : Byte} {body : List Byte} (hk : kindNamed kind = true) (hl : lengthAllowed kind body = false)
    (s : State) : answer kind body s = refuse .badLength s := by
  unfold answer
  rw [hk, hl]
  rfl

/-- Settles O15: neither request reaches a block. -/
theorem unknownKindAndBadLengthAreAnswered : Obligations.UnknownKindAndBadLengthAreAnswered := by
  intro kind tag body s hs
  refine ⟨fun hw => ?_, fun hw => ?_⟩ <;> rw [exec_request (f := ⟨kind, tag, body⟩) rfl hw] <;>
    simp only [Instr.wellFormed, Bool.and_eq_true, Bool.not_eq_true'] at hw
  · rw [hostSends_same hs (answer_unknownKind hw.1 body s), replyKind_eq]
    rfl
  · obtain ⟨⟨hnamed, hlength⟩, -⟩ := hw
    rw [hostSends_same hs (answer_badLength hnamed hlength s), replyKind_eq, if_pos (kindNamed_range hnamed)]
    rfl

end Sys2Proof.Machine
end

section
/-! SUPPORT. Link errors: a frame dropped behind a full queue, and what the receiver discards (R160, R161, R163, R165, R166). -/

namespace Sys2Proof.Machine

variable {s : State} {bytes : List Byte} {d : Byte} {parity stop : Bool}

/-! ### How an event with a link error ends -/

/-- A clear flag that is enabled with level 1 to 3 offers its notice at its cause (R168). -/
theorem raiseFlag_offers {f : Flag} {b : Option Side} {p : Option Pos} {r : Nat} (hclear : (s.flag f).set = false)
    (hon : (s.flag f).enable = true) (hlow : 1 ≤ (s.flag f).level) (hhigh : (s.flag f).level ≤ 3) :
    (raiseFlag f b p r s).offers f ⟨f, b, p, r⟩ := by
  have hpos : 0 < (s.flag f).level := hlow
  have hflag : (raiseFlag f b p r s).flag f = { s.flag f with set := true, pending := some ⟨f, b, p, r⟩ } := by
    rw [raiseFlag_flag]
    simp [hclear, hon, hpos]
  unfold State.offers
  rw [hflag]
  exact ⟨rfl, hlow, hhigh⟩

/-- With no reply in the slot the end of an event makes no free choice (log 10). -/
theorem settleUplink_unreplied (h : s.link.tx = .idle → s.link.reply = none) : settleUplink s =
    { s with flags := (settleUplink s).flags, link := { s.link with tx := (settleUplink s).link.tx } } := by
  by_cases hi : s.link.tx = .idle
  · have hchoice : settleUplink s = uplinkChoose true s := by
      unfold settleUplink
      rw [hi]
      dsimp only
      rw [h hi]
    rw [hchoice]
    exact uplinkChoose_only true s
  · rw [settleUplink_busy s hi]

/-- An idle transmitter of a settled part has no reply to send (R165). -/
theorem reply_of_settled_idle (hs : s.settled) (hi : s.link.tx = .idle) : s.link.reply = none := by
  obtain ⟨-, -, -, -, hquiet⟩ := hs
  exact (hquiet hi).1

/-- The receiver's bytes, the cause and the flag LINK, before the event has ended (R161, R163, R166). -/
def State.erred (s : State) (cause : LinkCause) (rx : Option (List Byte)) : State :=
  raiseFlag .link none none cause.code { s with link := { s.link with rx := rx, lastError := cause } }

section
variable (cause : LinkCause) (rx : Option (List Byte))

theorem erred_only (s : State) : s.erred cause rx = { s with
    flags := (s.erred cause rx).flags, link := { s.link with rx := rx, lastError := cause } } := raiseFlag_only ..

theorem erred_tx (s : State) : (s.erred cause rx).link.tx = s.link.tx := by rw [erred_only]

theorem erred_reply (s : State) : (s.erred cause rx).link.reply = s.link.reply := by rw [erred_only]

theorem erred_flag_ne {g : Flag} (hg : g ≠ .link) : (s.erred cause rx).flag g = s.flag g :=
  raiseFlag_flag_ne .link g none none cause.code _ hg

variable (hs : s.settled)
include hs

/-- Of a settled part's flags LINK alone can be offered to an idle transmitter. -/
theorem erred_quiet (hi : s.link.tx = .idle) {g : Flag} (hg : g ≠ .link) : offered ((s.erred cause rx).flag g) = false := by
  rw [erred_flag_ne cause rx hg]
  exact offered_of_settled_idle hs hi g

theorem settle_erred : settle (s.erred cause rx) = settleUplink (s.erred cause rx) := by
  have hlines : (s.erred cause rx).linesSettled := by
    rw [erred_only]
    exact linesSettled_beside hs.1
  unfold settle
  rw [settleLines_eq _ hlines]

/-- LINK's notice goes to an idle transmitter, and waits for a busy one (R165, R168). -/
theorem settleUplink_erred_notice (hclear : (s.flag .link).set = false) (hon : (s.flag .link).enable = true)
    (hlow : 1 ≤ (s.flag .link).level) (hhigh : (s.flag .link).level ≤ 3) :
    let t := settleUplink (s.erred cause rx)
    if s.link.tx = .idle then t.link.tx = .notice ⟨.link, none, none, cause.code⟩
    else (t.flag .link).pending = some ⟨.link, none, none, cause.code⟩ := by
  have ho : (s.erred cause rx).offers .link ⟨.link, none, none, cause.code⟩ := raiseFlag_offers hclear hon hlow hhigh
  intro t
  by_cases hi : s.link.tx = .idle
  · rw [if_pos hi]
    have hc : (s.erred cause rx).chooses .link ⟨.link, none, none, cause.code⟩ := ⟨ho, fun g m hg hm => by
      have hquiet := erred_quiet cause rx hs hi hg
      rw [offered_of_offers hm] at hquiet
      cases hquiet⟩
    obtain ⟨-, htakes⟩ := settleUplink_takes (s.erred cause rx)
    have hsent := ((htakes (by rwa [erred_tx])).2 _ _ hc).1 (by rw [erred_reply]; exact reply_of_settled_idle hs hi)
    rw [show t = _ from hsent]
    rfl
  · rw [if_neg hi]
    have hbusy : t = s.erred cause rx := settleUplink_busy _ (by rwa [erred_tx])
    rw [hbusy]
    exact ho.1

/-- An event that is a link error ends as R161 and R165 say. -/
theorem linkErrorTaken_settle : linkErrorTaken cause rx s (settle (s.erred cause rx)) := by
  have htx := erred_tx cause rx s
  have hslot (hi : (s.erred cause rx).link.tx = .idle) : (s.erred cause rx).link.reply = none := by
    rw [erred_reply]
    exact reply_of_settled_idle hs (htx ▸ hi)
  rw [settle_erred cause rx hs]
  refine ⟨?_, fun hbusy => ?_, ?_, fun g hg => ?_, settleUplink_erred_notice cause rx hs, settleUplink_takes _⟩
  · refine (settleUplink_unreplied hslot).trans ?_
    rw [erred_only]
  · rw [settleUplink_busy _ (by rwa [htx]), htx]
  · have hmarks := settleUplink_marks .link (s.erred cause rx)
    exact (congrArg Prod.fst hmarks).trans (raiseFlag_set ..)
  · rw [settleUplink_flag_ne _ g fun hi => erred_quiet cause rx hs (htx ▸ hi) hg]
    exact erred_flag_ne cause rx hg

theorem linkErrorTaken_discard : linkErrorTaken cause none s (settle (discard cause s)) := linkErrorTaken_settle cause none hs

end

/-! ### Behind a full queue (R163) -/

/-- Settles O14: the request waits, or its loss is a link error. -/
theorem requestsWaitBehindAFullSlot : Obligations.RequestsWaitBehindAFullSlot := by
  intro c f s hf hw hs hr
  rw [exec_request hf hw]
  refine ⟨fun hroom => congrArg Host.Outcome.next (hostSends_waits f.kind f.tag f.body hs hr hroom), fun hfull => ?_⟩
  have hdropped : hostSends f.kind f.tag f.body s = settle (s.erred .queueFull s.link.rx) :=
    congrArg settle (if_neg (by rw [hfull]; exact Nat.lt_irrefl 2))
  exact ⟨_, rfl, hdropped ▸ linkErrorTaken_settle .queueFull s.link.rx hs⟩

/-! ### The parity of a character (R160) -/

/-- Differences taken one after the other tell whether the marks are odd in number. -/
theorem foldl_bne_eq (f : Nat → Bool) (is : List Nat) (p : Bool) :
    is.foldl (fun q i => q != f i) p = decide (((is.filter f).length + if p then 1 else 0) % 2 = 1) := by
  induction is generalizing p with
  | nil => cases p <;> rfl
  | cons i is ih =>
    rw [List.foldl_cons, ih, decide_eq_decide, List.filter_cons]
    cases f i <;> cases p
    case true.true =>
      simp
      omega
    all_goals simp

/-- The count of ones in a character (R160). -/
def onesIn (d : Byte) : Nat := ((List.range 8).filter fun i => d.getLsbD i).length

theorem parityError_iff (d : Byte) (parity : Bool) :
    parityError d parity = true ↔ (onesIn d + if parity then 1 else 0) % 2 = 1 := by
  unfold parityError onesIn
  rw [foldl_bne_eq, decide_eq_true_eq]

/-! ### Characters (R160, R161) -/

/-- The receiver's bytes alone. -/
def State.hearing (s : State) (rx : Option (List Byte)) : State := { s with link := { s.link with rx := rx } }

theorem settled_hearing (h : s.settled) (rx : Option (List Byte)) : (s.hearing rx).settled := by
  obtain ⟨hlines, huplink⟩ := h
  exact ⟨linesSettled_beside (fs := s.flags) hlines, huplink⟩

theorem receive_hunting (hrx : s.link.rx = none) (d : Byte) (parity stop : Bool) :
    receive d parity stop s =
      if d = 0xC3 ∧ (onesIn d + if parity then 1 else 0) % 2 = 0 ∧ stop = true then s.hearing (some []) else s := by
  have heven : (!parityError d parity) = true ↔ (onesIn d + if parity then 1 else 0) % 2 = 0 := by
    rw [Bool.not_eq_true', ← Bool.not_eq_true, parityError_iff]
    omega
  unfold receive
  rw [hrx]
  exact ite_congr (by rw [heven]) (fun _ => rfl) fun _ => rfl

theorem receive_parity (hrx : s.link.rx = some bytes) (hp : parityError d parity = true) :
    receive d parity stop s = discard .parity s := by
  unfold receive
  rw [hrx]
  exact if_pos hp

theorem receive_framing (hrx : s.link.rx = some bytes) (hp : parityError d parity = false) :
    receive d parity false s = discard .framing s := by
  unfold receive
  rw [hrx]
  exact (if_neg (ne_true_of_eq_false hp)).trans (if_pos rfl)

theorem receive_good (hrx : s.link.rx = some bytes) (hp : parityError d parity = false) :
    receive d parity true s = takeByte (bytes ++ [d]) s := by
  unfold receive
  rw [hrx]
  exact (if_neg (ne_true_of_eq_false hp)).trans (if_neg Bool.false_ne_true)

/-! ### The bytes since the sync (R161, R162) -/

theorem takeByte_length {n : Byte} (hn : n.toNat < 2 ∨ 252 < n.toNat) (rest : List Byte) (s : State) :
    takeByte (n :: rest) s = discard .length s := if_pos hn

section
variable {n : Byte} {rest : List Byte} (hlow : 2 ≤ n.toNat) (hhigh : n.toNat ≤ 252)
include hlow hhigh

theorem takeByte_incomplete (hl : rest.length < n.toNat + 2) (s : State) :
    takeByte (n :: rest) s = s.hearing (some (n :: rest)) := (if_neg (by omega)).trans (if_pos hl)

theorem takeByte_badCheck (hl : rest.length = n.toNat + 2)
    (hc : rest.drop n.toNat ≠ wordBytes (crc (n :: rest.take n.toNat))) (s : State) :
    takeByte (n :: rest) s = discard .check s :=
  (if_neg (by omega)).trans ((if_neg (by omega)).trans (if_neg hc))

end

/-- Settles O12: a hunting receiver by `receive_hunting`, each error by what the receiver then discards. -/
theorem receiverHuntsAndDiscardsBadFrames : Obligations.ReceiverHuntsAndDiscardsBadFrames := by
  refine ⟨fun d parity stop s hs hrx => congrArg Host.Outcome.next ?_, fun d parity stop bytes s hs hrx => ?_⟩
  · have hsettled (p : Prop) [Decidable p] : (if p then s.hearing (some []) else s).settled := by
      split
      · exact settled_hearing hs _
      · exact hs
    rw [receive_hunting hrx]
    exact settle_settled (hsettled _)
  · have hbad {u : State} {cause : LinkCause} (hu : u = discard cause s) :
        ∃ t, Host.Outcome.next (settle u) = (.next t : Host.Outcome State Fault Refusal) ∧
          linkErrorTaken cause none s t := ⟨_, rfl, hu ▸ linkErrorTaken_discard cause hs⟩
    intro odd
    have hodd : parityError d parity = true ↔ odd := parityError_iff d parity
    have hgood (h : ¬ odd) : parityError d parity = false := eq_false_of_ne_true (mt hodd.mp h)
    refine ⟨⟨_, congrArg Host.Outcome.next (if_pos (by rw [hrx]; rfl)), linkErrorTaken_discard .gap hs⟩,
      fun h => hbad (receive_parity hrx (hodd.mpr h)), fun h hstop => ?_, fun h hstop hnone hn => ?_,
      fun n rest h hstop hbytes hlow hhigh hl hc => ?_⟩
    · subst hstop
      exact hbad (receive_framing hrx (hgood h))
    · subst hstop hnone
      exact hbad ((receive_good hrx (hgood h)).trans (takeByte_length hn [] s))
    · subst hstop hbytes
      refine hbad ((receive_good hrx (hgood h)).trans
        (takeByte_badCheck (rest := rest ++ [d]) hlow hhigh (by simp [hl]) ?_ s))
      rwa [List.drop_append_of_le_length (by omega), List.take_append_of_le_length (by omega)]

end Sys2Proof.Machine
end

section
/-! SUPPORT. Frames on the wire: the receiver reads the bytes that a frame sends (R160 to R162, R165, R169, section
10.6; log 3). -/

namespace Sys2Proof.Machine

variable {s : State}

/-! ### The check (R162) -/

theorem crc_append (bytes : List Byte) (b : Byte) : crc (bytes ++ [b]) =
    (List.range 8).foldl (fun r _ => if r.msb then (r <<< 1) ^^^ 0x1021 else r <<< 1)
      (crc bytes ^^^ (b.setWidth 16 <<< 8)) := List.foldl_append ..

/-! ### What the transmitter sends (R165, R169) -/

theorem uplinkFrame_idle (h : s.link.tx = .idle) : uplinkFrame s = none := by
  unfold uplinkFrame
  rw [h]

theorem uplinkFrame_reply (h : s.link.tx = .reply) : uplinkFrame s = s.link.reply := by
  unfold uplinkFrame
  rw [h]

theorem uplinkFrame_notice {n : Notice} (h : s.link.tx = .notice n) : uplinkFrame s = some (noticeFrame n) := by
  unfold uplinkFrame
  rw [h]

theorem uplinkBytes_of_frame {f : Frame} (h : uplinkFrame s = some f) : uplinkBytes s = frameBytes f := by
  unfold uplinkBytes
  rw [h]
  rfl

theorem noticeFrame_eq (n : Notice) : noticeFrame n =
    let boom : Byte := match n.boom with | none => 0 | some .a => 1 | some .b => 2
    let cell : List Byte := match n.pos with
      | none => [0, 0]
      | some q => [BitVec.ofNat 8 (q.col.val + 1), BitVec.ofNat 8 (q.row.val + 1)]
    ⟨0xC0, 0, [BitVec.ofNat 8 n.flag.code, boom] ++ cell ++ [BitVec.ofNat 8 n.reason]⟩ := by
  obtain ⟨flag, boom, pos, reason⟩ := n
  rcases boom with _ | _ | _ <;> rcases pos with _ | q <;> rfl

/-! ### The bytes of a frame, taken one by one -/

/-- The bytes of a frame behind the sync. -/
def Frame.afterSync (f : Frame) : List Byte := coveredBytes f ++ wordBytes (crc (coveredBytes f))

theorem afterSync_cons (f : Frame) : f.afterSync =
    byteOf (f.body.length + 2) :: ((f.kind :: f.tag :: f.body) ++ wordBytes (crc (coveredBytes f))) := rfl

/-- A parity bit that makes the count of ones even is no error (R160). -/
theorem parityError_rightBit (b : Byte) :
    parityError b (onesIn b % 2 == 1) = false := by
  rw [← Bool.not_eq_true, parityError_iff]
  split
  · next h =>
    have hodd := beq_iff_eq.mp h
    omega
  · next h =>
    have heven := mt beq_iff_eq.mpr h
    omega

/-- A character of the right form, inside a frame. -/
theorem takeBytes_cons {pre : List Byte} {t : State} (b : Byte) (bs : List Byte)
    (ht : settle (takeByte (pre ++ [b]) (s.hearing (some pre))) = t) :
    takeBytes (b :: bs) (s.hearing (some pre)) = takeBytes bs t := by
  subst ht
  exact congrArg (fun u => takeBytes bs (settle u)) (receive_good rfl (parityError_rightBit b))

section
variable {f : Frame} (hf : f.body.length ≤ 250)
include hf

theorem lengthByte_toNat : (byteOf (f.body.length + 2)).toNat = f.body.length + 2 := by
  unfold byteOf
  rw [BitVec.toNat_ofNat]
  omega

/-- Part of a frame's bytes is kept until the rest has come (R161). -/
theorem takeByte_part {bytes more : List Byte} (hb : bytes ≠ []) (hm : more ≠ []) (h : bytes ++ more = f.afterSync)
    (s : State) : takeByte bytes s = s.hearing (some bytes) := by
  have hn := lengthByte_toNat hf
  obtain ⟨n, rest, rfl⟩ := List.exists_cons_of_ne_nil hb
  rw [afterSync_cons, List.cons_append] at h
  obtain ⟨rfl, hrest⟩ := List.cons.inj h
  have hlength := congrArg List.length hrest
  have hmore := List.length_pos_of_ne_nil hm
  simp only [List.length_append, List.length_cons, wordBytes, List.length_nil] at hlength
  exact takeByte_incomplete (by omega) (by omega) (by omega) s

/-- A frame's bytes with its check are the frame's arrival (R161 to R163). -/
theorem takeByte_afterSync (s : State) : takeByte f.afterSync s = frameArrives f (s.hearing none) := by
  have hn := lengthByte_toNat hf
  have htake : f.afterSync.take (f.body.length + 2 + 1) = coveredBytes f := List.take_left' rfl
  have hdrop : f.afterSync.drop (f.body.length + 2 + 1) = wordBytes (crc (coveredBytes f)) := List.drop_left' rfl
  have hbody : ((f.kind :: f.tag :: f.body) ++ wordBytes (crc (coveredBytes f))).take (f.body.length + 2) =
      f.kind :: f.tag :: f.body := List.take_left' rfl
  have hlength : ((f.kind :: f.tag :: f.body) ++ wordBytes (crc (coveredBytes f))).length = f.body.length + 4 := by
    simp [wordBytes]
  rw [afterSync_cons] at htake hdrop ⊢
  unfold takeByte
  dsimp only
  rw [hn, hlength, htake, hdrop, hbody, if_neg (by omega), if_neg (by omega), if_pos rfl]
  rfl

/-- From inside a frame, the bytes that are left complete it. -/
theorem takeBytes_inFrame (hs : s.settled) {pre bs : List Byte} (hb : bs ≠ []) (h : pre ++ bs = f.afterSync) :
    takeBytes bs (s.hearing (some pre)) = .next (settle (frameArrives f (s.hearing none))) := by
  induction bs generalizing pre with
  | nil => exact absurd rfl hb
  | cons b bs ih =>
    rcases bs with _ | ⟨c, bs⟩
    · refine takeBytes_cons b [] ?_
      rw [h, takeByte_afterSync hf]
      rfl
    · have hpart : pre ++ [b] ++ (c :: bs) = f.afterSync := by
        rw [List.append_assoc]
        exact h
      rw [takeBytes_cons b (c :: bs) (t := s.hearing (some (pre ++ [b])))]
      · exact ih (List.cons_ne_nil c bs) hpart
      · rw [takeByte_part hf (by simp) (List.cons_ne_nil c bs) hpart]
        exact settle_settled (settled_hearing hs _)

theorem takeBytes_frameBytes (hs : s.settled) (hrx : s.link.rx = none) :
    takeBytes (frameBytes f) s = .next (hostSends f.kind f.tag f.body s) := by
  have hsilent : s.hearing none = s := by
    unfold State.hearing
    rw [← hrx]
  have hsync : receive 0xC3 (onesIn 0xC3 % 2 == 1) true s = s.hearing (some []) := by
    rw [receive_hunting hrx]
    exact if_pos (by decide)
  have hin := takeBytes_inFrame hf hs (pre := []) (List.cons_ne_nil _ _) rfl
  rw [hsilent] at hin
  calc takeBytes (frameBytes f) s
    _ = takeBytes f.afterSync (settle (s.hearing (some []))) := congrArg (fun u => takeBytes f.afterSync (settle u)) hsync
    _ = takeBytes f.afterSync (s.hearing (some [])) := congrArg _ (settle_settled (settled_hearing hs _))
    _ = .next (hostSends f.kind f.tag f.body s) := hin

end

/-- Settles O13: layout and check by their definitions, the transmitter by what it sends, the receiver byte by byte. -/
theorem receiverReadsWhatAFrameSends : Obligations.ReceiverReadsWhatAFrameSends := by
  refine ⟨fun f => rfl, ⟨rfl, fun w => rfl, crc_append⟩, fun s => ⟨fun hx => ?_, fun hx => ?_, fun n hx => ?_⟩,
    fun c f s hreq hw => exec_request hreq hw, fun f s hs hrx hf => takeBytes_frameBytes hf hs hrx⟩
  · refine ⟨uplinkFrame_idle hx, ?_⟩
    unfold uplinkBytes
    rw [uplinkFrame_idle hx]
    rfl
  · exact ⟨uplinkFrame_reply hx, fun f hr => uplinkBytes_of_frame ((uplinkFrame_reply hx).trans hr)⟩
  · have hframe := (uplinkFrame_notice hx).trans (congrArg some (noticeFrame_eq n))
    exact ⟨hframe, uplinkBytes_of_frame hframe⟩

end Sys2Proof.Machine
end

section
/-! SUPPORT. RESTART: its reply, the part as it starts anew, and the first notice (R22, R27, R43, R113, R126, R141, R150, R165,
R173, R174; log 30). -/

namespace Sys2Proof.Machine

variable {s t : State}

/-! ### The lines (R150) -/

/-- A line's digital state as RESTART takes it (R150). -/
def LineRec.restartLevel (l : LineRec) : Bool := match l.mode with | .digitalIn => l.terminalLevel | _ => false

/-- A line after RESTART: only a condition that holds has latched (R150). -/
def LineRec.anew (l : LineRec) : LineRec :=
  { l with
    outValue := 0, digital := l.restartLevel, snapshot := l.restartLevel
    latch := match l.mode, l.sense with
      | .analogIn, _ => false
      | _, .lowLevel => !l.restartLevel
      | _, .highLevel => l.restartLevel
      | _, _ => false }

theorem restartLine_eq (holding : Bool) (l : LineRec) : restartLine holding l =
    { l with outValue := 0, digital := l.restartLevel, snapshot := l.restartLevel, latch := false } := by
  have hlevel : ({ l with outValue := 0, latch := false } : LineRec).levelNow holding = l.restartLevel := by
    rw [levelNow_cleared rfl]
    unfold LineRec.restartLevel
    dsimp only
    cases l.mode <;> simp [LineRec.terminalLevel]
  unfold restartLine
  dsimp only
  rw [hlevel]

theorem reevaluate_restartLine (holding : Bool) (l : LineRec) : reevaluate (restartLine holding l) = l.anew := by
  rw [restartLine_eq]
  unfold reevaluate LineRec.anew LineRec.condition
  dsimp only
  cases l.mode <;> cases l.sense <;> simp [Sense.isEdge]

/-- An output that stands at 0 stays so while its owner commands nothing. -/
theorem refreshLine_quiet {l : LineRec} (ho : l.mode.isOut = true) (hv : l.outValue = 0) (hd : l.digital = false)
    (hc : ∀ fn, (ownerCommand t fn).getD 0 = 0) : refreshLine t l = l := by
  have hlatch : l.latchAfter false = l.latch := hd ▸ latchAfter_self l
  rw [refreshLine_out t ho]
  rcases l with ⟨mode, pull, sense, mask, _ | b, outValue, digital, snapshot, latch, analog, term⟩
  all_goals
    subst hv hd
    simp [hc, hlatch]

theorem refreshLine_anew (hc : ∀ fn, (ownerCommand t fn).getD 0 = 0) (l : LineRec) : refreshLine t l.anew = l.anew := by
  by_cases ho : l.mode.isOut = true
  · refine refreshLine_quiet ho rfl ?_ hc
    change l.restartLevel = false
    unfold LineRec.restartLevel
    rcases (isOut_iff _).mp ho with hm | hm <;> rw [hm]
  · exact refreshLine_input t l.anew (eq_false_of_ne_true ho)

/-- Where each line keeps its binding, a function's line is the same line, changed. -/
theorem lineOf_map {f : LineRec → LineRec} (hl : t.lines = s.lines.map f) (hf : ∀ l, (f l).binding = l.binding) (fn : Fn) :
    t.lineOf fn = (s.lineOf fn).map f := by
  have hbound : (LineRec.boundTo · fn) ∘ f = (LineRec.boundTo · fn) := by
    funext l
    simp [LineRec.boundTo, hf]
  unfold State.lineOf
  rw [hl, Vector.toList_map, List.find?_map, hbound]

/-! ### The part as it starts anew (R173) -/

/-- The canopy after RESTART: LOWERED at once where its bound line reads 0 (R126). -/
def State.restartedCanopy (s : State) : Canopy :=
  { Canopy.powerOn with
    state := if s.restarted.bound .canopyPressure ∧ ¬ s.restarted.reads1 .canopyPressure then .lowered else .unknown }

/-- The part after RESTART, but for its flags and what it sends. -/
def State.anew (s : State) (flags : Vector FlagRec 15) (tx : Transmitter) : State :=
  { s.restarted with
    canopy := s.restartedCanopy, lines := s.restarted.lines.map reevaluate, flags := flags
    link := ⟨none, [], none, tx, .none⟩ }

theorem adopt_restarted (s : State) : adopt s.restarted = { s.restarted with canopy := s.restartedCanopy } := by
  unfold adopt State.restartedCanopy
  simp only [Bool.not_eq_true', Bool.not_eq_true]
  split
  · next h =>
    rw [if_pos h.2]
    rfl
  · next h =>
    rw [if_neg fun hlow => h ⟨rfl, hlow⟩]
    rfl

theorem restartPart_withLines (s : State) : restartPart s =
    (raiseFlag .start none none 0 (adopt s.restarted)).withLines
      ((raiseFlag .start none none 0 (adopt s.restarted)).lines.map reevaluate) := setLines_eq ..

theorem restartPart_eq (s : State) : restartPart s = s.anew (restartPart s).flags .idle := by
  have honly := raiseFlag_only .start none none 0 (adopt s.restarted)
  rw [adopt_restarted] at honly
  have hwith := restartPart_withLines s
  rw [adopt_restarted, honly] at hwith
  exact hwith.trans (congrArg (fun fs => s.anew fs .idle) (congrArg State.flags hwith).symm)

variable {fs : Vector FlagRec 15} {tx : Transmitter}

theorem anew_line (s : State) (i : Fin 32) : (s.anew fs tx).lines[i] = s.lines[i].anew := by
  change (s.restarted.lines.map reevaluate)[i] = _
  rw [← reevaluate_restartLine s.loopOpen, ← restarted_line]
  exact Vector.getElem_map ..

theorem anew_lineOf (s : State) (fn : Fn) : (s.anew fs tx).lineOf fn = (s.restarted.lineOf fn).map reevaluate :=
  lineOf_map (f := reevaluate) rfl (fun _ => rfl) fn

theorem anew_bound (s : State) (fn : Fn) : (s.anew fs tx).bound fn = s.restarted.bound fn := by
  unfold State.bound
  rw [anew_lineOf, Option.isSome_map]

theorem anew_reads1 (s : State) (fn : Fn) : (s.anew fs tx).reads1 fn = s.restarted.reads1 fn := by
  unfold State.reads1
  rw [anew_lineOf, Option.map_map]
  rfl

theorem anew_canopy_state (s : State) : (s.anew fs tx).canopy.state =
    if (s.anew fs tx).bound .canopyPressure ∧ ¬ (s.anew fs tx).reads1 .canopyPressure then .lowered else .unknown := by
  rw [anew_bound, anew_reads1]
  rfl

/-- The part at rest commands nothing (R147). -/
theorem ownerCommand_anew (s : State) (fn : Fn) : (ownerCommand (s.anew fs tx) fn).getD 0 = 0 := by
  have hboom (x : Side) : boomOutputs ((s.anew fs tx).boom x) = ⟨0, 0, 0, false⟩ := by cases x <;> rfl
  have hcanopy : (s.anew fs tx).canopy.state = .lowered ∨ (s.anew fs tx).canopy.state = .unknown := by
    rw [anew_canopy_state]
    split
    · exact .inl rfl
    · exact .inr rfl
  unfold ownerCommand
  split
  case h_5 | h_6 => rcases hcanopy with h | h <;> rw [h] <;> rfl
  case h_7 => rfl
  all_goals
    rw [hboom]
    rfl

theorem anew_linesSettled (s : State) : (s.anew fs tx).linesSettled := by
  unfold State.linesSettled
  ext1 i hi
  rw [Vector.getElem_map, show (s.anew fs tx).lines[i] = s.lines[i].anew from anew_line s ⟨i, hi⟩]
  exact refreshLine_anew (ownerCommand_anew s) _

theorem anew_view (s : State) : (s.anew fs tx).arbiter.view = .ok ↔ s.bound .pumpOk ∧ s.reads1 .pumpOk := by
  change (if s.bound .pumpOk && s.reads1 .pumpOk then PumpView.ok else .low) = .ok ↔ _
  rw [← Bool.and_eq_true]
  split <;> simp_all

theorem anew_startedAnew (s : State) (hstart : ((s.anew fs tx).flag .start).set = true) : startedAnew (s.anew fs tx) := by
  have hgrid (q : Pos) : (s.anew fs tx).cell q = .blank := blank_grid rfl q
  have hboom (x : Side) : (s.anew fs tx).boom x = .powerOn := boom_powerOn rfl rfl x
  refine ⟨rfl, hgrid, rfl, rfl, fun x => ?_, rfl, rfl, rfl, rfl, rfl, rfl, rfl, rfl, rfl, rfl, rfl, rfl, fun i => ?_,
    rfl, rfl, rfl, rfl, hstart⟩
  · rw [hboom]
    exact ⟨rfl, rfl, rfl, rfl, rfl, rfl, rfl, rfl, rfl, rfl, rfl, rfl, rfl, rfl, rfl, rfl, rfl, rfl⟩
  · rw [anew_line]
    exact ⟨rfl, rfl⟩

/-! ### The flags (R141, R167, R173, R174) -/

/-- What RESTART sets: START, and LINES where a masked line's condition holds (R150, R174). -/
def State.restartCauses (s : State) (g : Flag) : Prop :=
  g = .start ∨ g = .lines ∧ ∃ i : Fin 32, s.lines[i].anew.mask = true ∧ s.lines[i].anew.latch = true

theorem restartPart_line (s : State) (i : Fin 32) : (restartPart s).lines[i] = s.lines[i].anew := by
  rw [restartPart_eq]
  exact anew_line s i

theorem restartPart_flag_ne {g : Flag} (hg : g ≠ .lines) :
    (restartPart s).flag g = (raiseFlag .start none none 0 s.restarted).flag g := by
  rw [restartPart_withLines, withLines_flag_ne hg, adopt_restarted]
  by_cases hstart : g = .start
  · subst hstart
    exact raiseFlag_flag_congr rfl
  · rw [raiseFlag_flag_ne _ _ _ _ _ _ hstart, raiseFlag_flag_ne _ _ _ _ _ _ hstart]
    rfl

/-- No latch was set before the conditions are evaluated, so each masked one is new (R141, R150). -/
theorem restartPart_flag_lines (s : State) : (restartPart s).flag .lines =
    if ∃ i : Fin 32, s.lines[i].anew.mask = true ∧ s.lines[i].anew.latch = true
    then (raiseFlag .lines none none 0 s.restarted).flag .lines else s.restarted.flag .lines := by
  have hlines : (raiseFlag .start none none 0 (adopt s.restarted)).lines = s.restarted.lines := by
    rw [raiseFlag_only, adopt_restarted]
  have hflag : (raiseFlag .start none none 0 (adopt s.restarted)).flag .lines = s.restarted.flag .lines := by
    rw [raiseFlag_flag_ne _ _ _ _ _ _ (by decide), adopt_restarted]
    rfl
  have hnew (i : Fin 32) : (s.restarted.lines.map reevaluate)[i] = s.lines[i].anew := anew_line (fs := s.flags) (tx := .idle) s i
  have hclear (i : Fin 32) : s.restarted.lines[i].latch = false := by
    rw [restarted_line]
    rfl
  rw [restartPart_withLines, withLines_flag_lines, raiseFlag_flag_congr hflag, hflag, hlines]
  simp only [hnew, hclear, Bool.false_eq_true, and_false, not_false_eq_true, and_true]

/-- What RESTART sets, it sets from clear (R173). -/
theorem restartPart_flag_of_cause {g : Flag} (h : s.restartCauses g) :
    (restartPart s).flag g = (raiseFlag g none none 0 s.restarted).flag g := by
  obtain rfl | ⟨rfl, hi⟩ := h
  · exact restartPart_flag_ne (by decide)
  · rw [restartPart_flag_lines, if_pos hi]

theorem restartPart_flag_of_no_cause {g : Flag} (h : ¬ s.restartCauses g) : (restartPart s).flag g = restartFlag (s.flag g) := by
  rw [← restarted_flag]
  by_cases hg : g = .lines
  · subst hg
    rw [restartPart_flag_lines, if_neg fun hi => h (.inr ⟨rfl, hi⟩)]
  · rw [restartPart_flag_ne hg, raiseFlag_flag_ne _ _ _ _ _ _ fun hs => h (.inl hs)]

theorem raiseFlag_restarted_flag (g : Flag) : (raiseFlag g none none 0 s.restarted).flag g =
    { s.flag g with
      set := true
      pending := if (s.flag g).enable && 0 < (s.flag g).level then some ⟨g, none, none, 0⟩ else none } := by
  rw [raiseFlag_flag, restarted_flag]
  rfl

theorem restartPart_set_iff (g : Flag) : ((restartPart s).flag g).set = true ↔ s.restartCauses g := by
  by_cases h : s.restartCauses g
  · rw [restartPart_flag_of_cause h]
    exact iff_of_true (raiseFlag_set ..) h
  · rw [restartPart_flag_of_no_cause h]
    exact iff_of_false Bool.false_ne_true h

theorem restartPart_settings (g : Flag) :
    ((restartPart s).flag g).enable = (s.flag g).enable ∧ ((restartPart s).flag g).level = (s.flag g).level := by
  by_cases h : s.restartCauses g
  · rw [restartPart_flag_of_cause h, raiseFlag_restarted_flag]
    exact ⟨rfl, rfl⟩
  · rw [restartPart_flag_of_no_cause h]
    exact ⟨rfl, rfl⟩

theorem restartPart_pending {g : Flag} {n : Notice} (h : ((restartPart s).flag g).pending = some n) :
    n = ⟨g, none, none, 0⟩ := by
  by_cases hc : s.restartCauses g
  · rw [restartPart_flag_of_cause hc, raiseFlag_restarted_flag] at h
    dsimp only at h
    split at h <;> cases h
    rfl
  · rw [restartPart_flag_of_no_cause hc] at h
    cases h

theorem restartPart_offers {g : Flag} (hc : s.restartCauses g) (hon : (s.flag g).enable = true)
    (hlow : 1 ≤ (s.flag g).level) (hhigh : (s.flag g).level ≤ 3) : (restartPart s).offers g ⟨g, none, none, 0⟩ := by
  unfold State.offers
  rw [restartPart_flag_of_cause hc]
  have hflag := restarted_flag s g
  exact raiseFlag_offers (by rw [hflag]; rfl) (by rw [hflag]; exact hon) (by rw [hflag]; exact hlow) (by rw [hflag]; exact hhigh)

/-! ### The first notice (R165, R174) -/

theorem restartPart_tx (s : State) : (restartPart s).link.tx = .idle := by rw [restartPart_link]

theorem settle_restartPart (s : State) : settle (restartPart s) = settleUplink (restartPart s) := by
  have hlines : (restartPart s).linesSettled := by
    rw [restartPart_eq]
    exact anew_linesSettled s
  unfold settle
  rw [settleLines_eq _ hlines]

theorem settle_restartPart_eq (s : State) :
    settle (restartPart s) = s.anew (settle (restartPart s)).flags (settle (restartPart s)).link.tx := by
  have hunreplied := settleUplink_unreplied (s := restartPart s) fun _ => by rw [restartPart_link]
  rw [← settle_restartPart] at hunreplied
  refine hunreplied.trans ?_
  rw [restartPart_eq]
  rfl

theorem marks_eq_iff {r q : FlagRec} : r.marks = q.marks ↔ r.set = q.set ∧ r.enable = q.enable ∧ r.level = q.level := by
  simp [FlagRec.marks]

theorem settle_restartPart_marks (s : State) (g : Flag) :
    ((settle (restartPart s)).flag g).set = ((restartPart s).flag g).set ∧
      ((settle (restartPart s)).flag g).enable = ((restartPart s).flag g).enable ∧
      ((settle (restartPart s)).flag g).level = ((restartPart s).flag g).level := by
  rw [settle_restartPart]
  exact marks_eq_iff.mp (settleUplink_marks g _)

/-- With no reply in the slot an idle transmitter takes the notice that R165 chooses, if there is one. -/
theorem settleUplink_unreplied_cases (hi : s.link.tx = .idle) (hr : s.link.reply = none) :
    (nextNotice s = none ∧ (settleUplink s).flags = s.flags ∧ (settleUplink s).link.tx = .idle) ∨
      ∃ f n, s.chooses f n ∧ (settleUplink s).link.tx = .notice n ∧ ((settleUplink s).flag f).pending = none ∧
        ∀ g, g ≠ f → (settleUplink s).flag g = s.flag g := by
  obtain ⟨r, k, hk⟩ := settleUplink_idle hi
  obtain ⟨hreply, -⟩ | ⟨f, n, hc, hsent⟩ | ⟨-, hn, hsent⟩ := uplinkChoose_cases r { s with freeCount := k }
  · exact absurd hr hreply
  · rw [hk, hsent]
    refine .inr ⟨f, n, hc, rfl, ?_, fun g hg => setFlagRec_flag_ne { s with freeCount := k } _ hg⟩
    exact congrArg FlagRec.pending (setFlagRec_flag { s with freeCount := k } f _)
  · rw [hk, hsent]
    exact .inl ⟨hn, rfl, rfl⟩

theorem settle_restartPart_cases (s : State) :
    (nextNotice (restartPart s) = none ∧ (settle (restartPart s)).flags = (restartPart s).flags ∧
        (settle (restartPart s)).link.tx = .idle) ∨
      ∃ f, (restartPart s).chooses f ⟨f, none, none, 0⟩ ∧
        (settle (restartPart s)).link.tx = .notice ⟨f, none, none, 0⟩ ∧
        ((settle (restartPart s)).flag f).pending = none ∧
        ∀ g, g ≠ f → (settle (restartPart s)).flag g = (restartPart s).flag g := by
  rw [settle_restartPart]
  refine (settleUplink_unreplied_cases (restartPart_tx s) (by rw [restartPart_link])).imp id ?_
  rintro ⟨f, n, hc, hsent⟩
  obtain rfl := restartPart_pending hc.1.1
  exact ⟨f, hc, hsent⟩

theorem settle_restartPart_flag {g : Flag} (h : (settle (restartPart s)).flags = (restartPart s).flags) :
    (settle (restartPart s)).flag g = (restartPart s).flag g := congrArg (fun fs : Vector FlagRec 15 => fs[g.idx]) h

/-- The first notice makes none pending. -/
theorem restarted_silent {g : Flag} (h : ((restartPart s).flag g).pending = none) :
    ((settle (restartPart s)).flag g).pending = none := by
  obtain ⟨-, hflags, -⟩ | ⟨f, -, -, hsent, hothers⟩ := settle_restartPart_cases s
  · rw [settle_restartPart_flag hflags]
    exact h
  · by_cases hg : g = f
    · rw [hg, hsent]
    · rw [hothers g hg]
      exact h

/-- A flag that RESTART sets has its notice pending or being sent. -/
theorem restarted_notice {g : Flag} (hc : s.restartCauses g) (hon : (s.flag g).enable = true)
    (hlow : 1 ≤ (s.flag g).level) (hhigh : (s.flag g).level ≤ 3) :
    ((settle (restartPart s)).flag g).pending = some ⟨g, none, none, 0⟩ ∨
      (settle (restartPart s)).link.tx = .notice ⟨g, none, none, 0⟩ := by
  have ho := restartPart_offers hc hon hlow hhigh
  obtain ⟨hn, -, -⟩ | ⟨f, -, htx, -, hothers⟩ := settle_restartPart_cases s
  · exact absurd ho (nextNotice_eq_none_iff.mp hn _ _)
  · by_cases hg : g = f
    · exact .inr (hg ▸ htx)
    · rw [hothers g hg]
      exact .inl ho.1

/-- A notice that waits is of a lower level than the one being sent, or of its level and a higher code. -/
theorem restarted_waits {g : Flag} {n : Notice} (ho : (settle (restartPart s)).offers g n) :
    ∃ f, (settle (restartPart s)).link.tx = .notice ⟨f, none, none, 0⟩ ∧
      (((settle (restartPart s)).flag g).level < ((settle (restartPart s)).flag f).level ∨
        (((settle (restartPart s)).flag g).level = ((settle (restartPart s)).flag f).level ∧ f.code < g.code)) := by
  unfold State.offers at ho
  obtain ⟨hn, hflags, -⟩ | ⟨f, hc, htx, hsent, hothers⟩ := settle_restartPart_cases s
  · rw [settle_restartPart_flag hflags] at ho
    exact absurd ho (nextNotice_eq_none_iff.mp hn g n)
  · have hg : g ≠ f := by
      rintro rfl
      rw [hsent] at ho
      cases ho.1
    rw [hothers g hg] at ho
    obtain ⟨-, -, hlevel⟩ := settle_restartPart_marks s f
    refine ⟨f, htx, ?_⟩
    rw [hothers g hg, hlevel]
    exact hc.2 g n hg ho

/-- Settles O6: the reply, then the part started anew, its flags and its first notice. -/
theorem restartIsAnsweredThenRestartsThePart : Obligations.RestartIsAnsweredThenRestartsThePart := by
  refine ⟨fun tag s hs => congrArg Host.Outcome.next (hostSends_same hs (answer_restart s)), fun tag s hx hr => ?_⟩
  have hsending : restartSending s = true := by
    unfold restartSending
    rw [hx, hr]
    rfl
  have hsent : sendingEnds s = restartPart s := by
    unfold sendingEnds
    rw [hx]
    exact if_pos hsending
  have heq := settle_restartPart_eq s
  have hset (g : Flag) : ((settle (restartPart s)).flag g).set = true ↔ s.restartCauses g := by
    obtain ⟨hset, -⟩ := settle_restartPart_marks s g
    rw [hset]
    exact restartPart_set_iff g
  have hsettings (g : Flag) : ((settle (restartPart s)).flag g).enable = (s.flag g).enable ∧
      ((settle (restartPart s)).flag g).level = (s.flag g).level := by
    obtain ⟨-, hon, hlevel⟩ := settle_restartPart_marks s g
    obtain ⟨hon', hlevel'⟩ := restartPart_settings (s := s) g
    exact ⟨hon.trans hon', hlevel.trans hlevel'⟩
  have hline (i : Fin 32) : (settle (restartPart s)).lines[i] = s.lines[i].anew := by
    rw [heq]
    exact anew_line s i
  have hanew : startedAnew (settle (restartPart s)) := by
    have hstart : ((settle (restartPart s)).flag .start).set = true := (hset .start).mpr (.inl rfl)
    rw [heq] at hstart ⊢
    exact anew_startedAnew s hstart
  refine ⟨settle (restartPart s), congrArg Host.Outcome.next (if_pos hsending),
    congrArg (fun u => Host.Outcome.next (settle u)) hsent, hanew, by rw [heq]; rfl, by rw [heq]; rfl, by rw [heq]; rfl,
    by rw [heq]; rfl, by rw [heq]; rfl, by rw [heq]; rfl, by rw [heq]; rfl, hline, ?_, fun g hs hon hlow hhigh => ?_,
    fun g n => restarted_waits, ?_, ?_, ?_, fun g => ⟨(hsettings g).1, (hsettings g).2, fun hstart hlines => ?_⟩⟩
  · simp only [hset, hline, State.restartCauses, reduceCtorEq, false_or, true_and]
  · obtain ⟨henable, hlevel⟩ := hsettings g
    exact restarted_notice ((hset g).mp hs) (henable ▸ hon) (hlevel ▸ hlow) (hlevel ▸ hhigh)
  · obtain ⟨-, -, htx⟩ | ⟨f, -, htx, hpending, -⟩ := settle_restartPart_cases s
    · exact .inl htx
    · exact .inr ⟨f, htx, hpending⟩
  · rw [heq]
    exact anew_view s
  · rw [heq]
    exact anew_canopy_state s
  · have hnone : ¬ s.restartCauses g := fun h => h.elim hstart fun hl => hlines hl.1
    have hflag := restartPart_flag_of_no_cause hnone
    exact ⟨eq_false_of_ne_true (mt (hset g).mp hnone), restarted_silent (congrArg FlagRec.pending hflag)⟩

end Sys2Proof.Machine
end

section
/-! SUPPORT. The command at the front of the queue (section 5 of 00_scope.md). -/

namespace Sys2Proof.Machine

/-- Settles O1: of the branches of a step, a queue that is not empty takes the first. -/
theorem stepTakesTheFrontCommand : Obligations.StepTakesTheFrontCommand := by
  intro c rest s hp
  unfold step
  rw [hp]

end Sys2Proof.Machine
end
